-- ==== Sys2Proof/Word.lean ====
section
/-! DEFINITION. Words of the block: bytes and the little-endian words the spec counts in (R1). -/
namespace Sys2Proof

/-- An 8-bit byte of memory. -/
abbrev Byte := BitVec 8
/-- A 16-bit word: a status code, a tag field. -/
abbrev Half := BitVec 16
/-- A 32-bit register or FP32 code. -/
abbrev Word := BitVec 32
/-- A 64-bit register or operand slot. -/
abbrev Long := BitVec 64
/-- A 12-bit tag of a command packet (R402). -/
abbrev Tag := BitVec 12
/-- A 14-bit fabric node ID (R318). -/
abbrev NodeId := BitVec 14

end Sys2Proof
end

