-- ==== Sys2Proof/Machine/Bits.lean ====
section
/-! DEFINITION. Bit fields, sign extension, byte order (R1) and small list helpers that every other file uses. -/
namespace Sys2Proof.Machine

/-- Bits [hi:lo] of a number, R1's notation. -/
def field (x hi lo : Nat) : Nat := (x >>> lo) % 2 ^ (hi + 1 - lo)

/-- Bit i of a number. -/
def bit (x i : Nat) : Bool := x.testBit i

/-- A Bool as 0 or 1. -/
def b2n (b : Bool) : Nat := if b then 1 else 0

/-- A number placed at bit lo. -/
def at_ (lo x : Nat) : Nat := x <<< lo

/-- A signed number as w-bit two's complement. -/
def toTwos (w : Nat) (i : Int) : Nat := (i % (2 ^ w : Int)).toNat

/-- The signed value of w low bits. -/
def ofTwos (w x : Nat) : Int :=
  let y := x % 2 ^ w
  if 2 * y < 2 ^ w then (y : Int) else (y : Int) - (2 ^ w : Int)

/-- The number that little-endian bytes spell (R1). -/
def leNat : List Byte → Nat
  | [] => 0
  | b :: bs => b.toNat + 256 * leNat bs

/-- A number as n little-endian bytes (R1). -/
def leBytes : Nat → Nat → List Byte
  | 0, _ => []
  | n + 1, x => BitVec.ofNat 8 x :: leBytes n (x / 256)

/-- Bytes [lo, lo+n) of a byte list, zeros beyond its end. -/
def slice (bs : List Byte) (lo n : Nat) : List Byte :=
  (bs.drop lo).take n

/-- The little-endian number in bytes [hi:lo] of a record, as the spec's tables write byte ranges. -/
def bytesAt (bs : List Byte) (hi lo : Nat) : Nat := leNat (slice bs lo (hi + 1 - lo))

/-- Whether bytes [hi:lo] of a record are all zero. -/
def zeroAt (bs : List Byte) (hi lo : Nat) : Bool := (slice bs lo (hi + 1 - lo)).all (· == 0#8)

/-- Round up to a multiple. -/
def roundUp (x a : Nat) : Nat := if a = 0 then x else (x + a - 1) / a * a

/-- Ceiling division, 0 for a zero divisor. -/
def cdiv (x a : Nat) : Nat := if a = 0 then 0 else (x + a - 1) / a

/-- Pairs of elements at different places of a list, earlier first. -/
def pairs {α : Type} : List α → List (α × α)
  | [] => []
  | x :: xs => xs.map (fun y => (x, y)) ++ pairs xs

/-- Half-open ranges [a, a+n) and [b, b+m) share a point. -/
def overlaps (a n b m : Nat) : Bool := decide (a < b + m) && decide (b < a + n)

/-- [a, a+n) lies inside [b, b+m). -/
def within (a n b m : Nat) : Bool := decide (b ≤ a) && decide (a + n ≤ b + m)

/-- The sum of a list of naturals. -/
def sumNat (l : List Nat) : Nat := l.foldl (· + ·) 0

/-- The largest of a list of naturals, 0 for none. -/
def maxNat (l : List Nat) : Nat := l.foldl max 0

/-- The least of a list of naturals, or d for none. -/
def minNat (d : Nat) (l : List Nat) : Nat := l.foldl min (l.headD d)

/-- Add with a ceiling: counters that the spec holds at their largest value. -/
def satAdd (cap x y : Nat) : Nat := min cap (x + y)

/-- Exclusive or of the bits of a number under a mask, for parity checks; n is the number of bits looked at. -/
def popcount : Nat → Nat → Nat
  | 0, _ => 0
  | n + 1, x => x % 2 + popcount n (x / 2)

/-- Split a list into chunks of n, dropping an incomplete tail; fuel bounds the count. -/
def chunks {α : Type} (n : Nat) : Nat → List α → List (List α)
  | 0, _ => []
  | k + 1, l => l.take n :: chunks n k (l.drop n)

/-- Do f on the first element that satisfies p. -/
def updFirst {α : Type} (p : α → Bool) (f : α → α) : List α → List α
  | [] => []
  | x :: xs => if p x then f x :: xs else x :: updFirst p f xs

/-- Insert keeping a list sorted by le, after equal elements. -/
def insertBy {α : Type} (le : α → α → Bool) (x : α) : List α → List α
  | [] => [x]
  | y :: ys => if le y x then y :: insertBy le x ys else x :: y :: ys

/-- Stable insertion sort. -/
def sortBy {α : Type} (le : α → α → Bool) (l : List α) : List α :=
  l.foldl (fun acc x => insertBy le x acc) []

/-- Apply f n times. -/
def iterate {α : Type} (f : α → α) : Nat → α → α
  | 0, a => a
  | n + 1, a => iterate f n (f a)

/-- Fold with an index counted from 0. -/
def foldIdx {α β : Type} (f : Nat → β → α → β) (init : β) (l : List α) : β :=
  (l.foldl (fun (p : Nat × β) x => (p.1 + 1, f p.1 p.2 x)) (0, init)).2

/-- The list with indices. -/
def indexed {α : Type} (l : List α) : List (Nat × α) := (List.range l.length).zip l

/-- The distinct elements of a list, in the order of their first places. -/
def distinct (l : List Nat) : List Nat := l.foldl (fun acc x => if acc.contains x then acc else acc ++ [x]) []

end Sys2Proof.Machine
end

