-- ==== Sys2Proof/Machine/FabricTypes.lean ====
section
/-! DEFINITION. Types of the lantern fabric: flits, ports, hellos, link state, routes, membership (R312 to R352). Ports are
numbered 32 × lantern + position (R312). -/
namespace Sys2Proof.Machine

/-- What a LINK HELLO carries (R333). ember marks the kept port's hello of R464. -/
structure Hello where
  node : NodeId
  valid : Bool
  lantern : Fin 4
  position : Fin 32
  state : BitVec 2
  fabricLow : Word
  memberSeq : Nat
  ember : Bool := false
  deriving DecidableEq, Repr

/-- One link a member floods: its device port and the node at the far end (R341). -/
structure LsLink where
  port : Fin 128
  peer : NodeId
  deriving DecidableEq, Repr

/-- A membership event (R349): the event's origin, its number there, whether it is a loss, and the member it names. -/
structure MemberEvent where
  origin : NodeId
  seq : Nat
  loss : Bool
  node : NodeId
  deriving DecidableEq, Repr

/-- What a ROUTE flit floods (R335, R341, R348, R349). The layout of its payload is not printed; the content is. -/
inductive RouteBody where
  | linkState (node : NodeId) (version : Nat) (links : List LsLink)
  | fingerprint (fp : Long)
  | assignment (ids : List (Long × NodeId))
  | event (e : MemberEvent)
  deriving DecidableEq, Repr

/-- What an AUTH flit carries (R345). -/
inductive AuthBody where
  | offer (cert : List Byte) (fabricId : Long) (ownerDigest : Nat) (nonce : List Byte) (port : Fin 128)
  | sign (r s : Nat)
  deriving DecidableEq, Repr

/-- What a flit carries: payload bytes of a message, or the content of a LINK, AUTH or ROUTE flit, or the acknowledgement of
a message (R324). -/
inductive FlitBody where
  | none
  | bytes (bs : List Byte)
  | ack (msgId : Nat)
  | hello (h : Hello)
  | retry (seq : Nat)
  | spareRequest (lane : Fin 8)
  | spareReady (lane : Fin 8)
  | spareSwitch (lane : Fin 8) (seq : Nat)
  | auth (a : AuthBody)
  | route (r : RouteBody)
  deriving DecidableEq, Repr

/-- A flit: the 128-bit header of R318 and what it carries. -/
structure Flit where
  header : BitVec 128
  body : FlitBody
  deriving DecidableEq, Repr

/-- A port's authentication in progress (R345): our nonce, what the peer offered, whether its signature passed. -/
structure PortAuth where
  nonce : List Byte := []
  cert : List Byte := []
  fabricId : Long := 0
  ownerDigest : Nat := 0
  peerNonce : List Byte := []
  peerPort : Nat := 0
  got : Bool := false
  deriving DecidableEq, Repr

/-- A spare swap under way on a port (R326): the lane and whether this end asked. -/
structure Swap where
  lane : Fin 8
  asked : Bool
  deriving DecidableEq, Repr

/-- One optical port with its link (R318 to R330). txSeq is the next SEQ to send, rxSeq the next expected, retry the flits not
yet acknowledged, oldest first, queue the flits that wait for credit or room. Pairs of VC and CLASS are numbered
3 × VC + CLASS. opens holds, per VC, the source and MSG_ID of the message of which only a first part has gone; turn is the VC that was served
last (R322, R323). ber is the BER_EXP that this window of R325 goes by. -/
structure Port where
  state : BitVec 3 := 0
  engine : Nat := 0
  lanes : BitVec 9 := 0
  retrainSeen : Bool := false
  spareSeen : Bool := false
  authFailSeen : Bool := false
  replaySeen : Bool := false
  peerNode : NodeId := 0
  peerValid : Bool := false
  peerLantern : BitVec 2 := 0
  peerPosition : BitVec 5 := 0
  peerSeen : Bool := false
  good : BitVec 9 := 0x1FF
  retraining : Bool := false
  badRetrains : Nat := 0
  txSeq : Nat := 0
  rxSeq : Nat := 0
  retry : List Flit := []
  replays : Nat := 0
  replaySeq : Nat := 0
  queue : List Flit := []
  credits : Vector Nat 12 := Vector.replicate 12 64
  owed : Vector Nat 4 := Vector.replicate 4 0
  opens : Vector (Option (NodeId × Nat)) 4 := Vector.replicate 4 none
  turn : Nat := 0
  ber : Nat := 6
  corrected : Vector Nat 8 := Vector.replicate 8 0
  swap : Option Swap := none
  missed : Nat := 0
  auth : PortAuth := {}
  deriving DecidableEq, Repr

/-- A lantern's laser feeds (R315, R332). -/
structure Lasers where
  aOk : BitVec 9 := 0
  bOk : BitVec 9 := 0
  aFailed : BitVec 9 := 0
  bFailed : BitVec 9 := 0
  lowSeen : Bool := false
  failSeen : Bool := false
  deriving DecidableEq, Repr

/-- What a message belongs to: a collective operation, a step of a gradient job, a group bind, or nothing that waits. -/
inductive MsgOwner where
  | op (id : Nat)
  | job (id : Nat)
  | bind (handle : Nat)
  | launch (id : Nat)
  | none
  deriving DecidableEq, Repr

/-- A message at its source (R324): copies counts the copies sent, due the time in µs
at which the last one's acknowledgement is late. -/
structure TxMsg where
  lantern : Fin 4
  msgId : Nat
  dest : NodeId
  vc : BitVec 2
  payload : List Byte
  owner : MsgOwner
  copies : Nat := 0
  due : Nat := 0
  deriving DecidableEq, Repr

/-- A message of which only a first part has arrived at a port (R323). -/
structure PartialMsg where
  port : Fin 128
  vc : BitVec 2
  src : NodeId
  msgId : Nat
  bytes : List Byte
  deriving DecidableEq, Repr

/-- A message in transit: where it comes in and the port it leaves by (R323, R338); out is none while it has no route
(R341), and the flits that wait are held until due. -/
structure Transit where
  port : Fin 128
  vc : BitVec 2
  src : NodeId
  msgId : Nat
  out : Option (Fin 128)
  held : List Flit := []
  due : Nat := 0
  deriving DecidableEq, Repr

/-- A message delivered to this device whose collective content has not been taken (R351 holds some): the source node, the
lantern it came to, its payload, and until when it is held. -/
structure InMsg where
  src : NodeId
  lantern : Fin 4
  payload : List Byte
  heldTo : Option Nat := none
  deriving DecidableEq, Repr

/-- A member's links in the link-state database (R341). -/
structure LsNode where
  node : NodeId
  version : Nat
  links : List LsLink
  deriving DecidableEq, Repr

/-- The fabric role of the active firing (R334): mode 0 NONE, 1 CONFIGURED, 2 ELECT. -/
structure Role where
  mode : Nat := 0
  fabricId : Long := 0
  n : Nat := 0
  groups : Nat := 0
  g : Nat := 0
  i : Nat := 0
  deriving DecidableEq, Repr

/-- A FABRIC_LEAVE in progress (R348): draining or forwarding, until due. -/
structure Leave where
  cmd : Nat
  forwarding : Bool
  due : Nat
  deriving DecidableEq, Repr

/-- The fabric side of the device. routes lists each lantern's entries that are not zero, by node ID (R337). engineOut lists
engines out of service, as (lantern, engine). -/
structure FabricPart where
  ports : Vector Port 128 := Vector.replicate 128 {}
  engineOut : List (Nat × Nat) := []
  linkCfg : Vector Word 4 := Vector.replicate 4 0x01400A36#32
  lasers : Vector Lasers 4 := Vector.replicate 4 {}
  role : Role := {}
  node : NodeId := 0
  nodeValid : Bool := false
  state : BitVec 2 := 0
  coordinator : Bool := false
  idConflictSeen : Bool := false
  lostPeerSeen : Bool := false
  lsdb : List LsNode := []
  lsVersion : Nat := 0
  memberSeq : Nat := 0
  applied : List (NodeId × Nat) := []
  fingerprints : List Long := []
  assigned : List (Long × NodeId) := []
  routes : Vector (List (Nat × Long)) 4 := Vector.replicate 4 []
  nextMsg : Vector Nat 4 := Vector.replicate 4 0
  unacked : List TxMsg := []
  waiting : List TxMsg := []
  partials : List PartialMsg := []
  transits : List Transit := []
  recent : List (NodeId × Nat × Nat) := []
  inbox : List InMsg := []
  /-- A FABRIC_JOIN that waits for its node ID, and when its election may end (R335). -/
  join : Option Nat := none
  electAt : Nat := 0
  leave : Option Leave := none
  keptPort : Option (Fin 128) := none
  deriving DecidableEq, Repr

end Sys2Proof.Machine
end

