-- ==== Sys2Proof/Machine/CollTypes.lean ====
section
/-! DEFINITION. Types of collectives and gradient reduction: groups, operations, jobs, reduction slots (R353 to R384). -/
namespace Sys2Proof.Machine

/-- A bound group (R353 to R355): members in rank order, the count of applied events, the next OP_SEQ, and the next number of
each ordered pair of ranks (R360). -/
structure Group where
  handle : Nat
  members : List NodeId
  generation : Nat
  events : Nat := 0
  stale : Bool := false
  opSeq : Nat := 0
  pairSeq : List ((Nat × Nat) × Nat) := []
  deriving DecidableEq, Repr

/-- A bind that waits for BIND messages (R354). -/
structure Bind where
  cmd : Nat
  handle : Nat
  members : List NodeId
  generation : Nat
  digest : List Byte
  got : List NodeId := []
  due : Nat
  deriving DecidableEq, Repr

/-- A BIND message that arrived before this device's own bind (DEDUCED, log 34). -/
structure EarlyBind where
  src : NodeId
  handle : Nat
  generation : Nat
  digest : List Byte
  deriving DecidableEq, Repr

/-- A READY that arrived: for which group, epoch, operation code and number, from which rank, and the sender's DTYPE and
COUNT. -/
structure ReadyMark where
  handle : Nat
  epoch : Nat
  op : Nat
  seq : Nat
  rank : Nat
  dtype : Nat
  count : Nat
  deriving DecidableEq, Repr

/-- A collective descriptor (R357). -/
structure CollDesc where
  op : Nat
  dtype : Nat
  redop : Nat
  path : Nat
  group : Nat
  root : Nat
  src : Nat
  dst : Nat
  count : Nat
  stage : Nat
  stageLen : Nat
  chunk : Nat
  generation : Nat
  job : Nat
  bucket : Nat
  deriving DecidableEq, Repr

/-- An operation in flight on a group (R358 to R363): ready holds the ranks whose READY has arrived, sentTo the ranks its data
have gone to, got the byte ranges received from each rank, sums the running sums formed here as (element, values) that wait
to be forwarded, results the elements formed at the last rank. stopped marks an operation a CANCEL stopped. -/
structure CollOp where
  id : Nat
  d : CollDesc
  rank : Nat
  epoch : Nat
  seq : Nat
  due : Nat
  sentTo : List Nat := []
  got : List (Nat × Nat × Nat) := []
  sums : List (Nat × List Nat) := []
  results : List (Nat × List Nat) := []
  formed : Nat := 0
  deriving DecidableEq, Repr

/-- A bucket record (R367). -/
structure GradBucket where
  src : Nat
  srcScale : Nat
  dst : Nat
  dstScale : Nat
  count : Nat
  kernel : Nat
  srcFmt : Nat
  deriving DecidableEq, Repr

/-- A gradient job (R366 to R370, R380). todo lists shards of ready buckets not yet sent, inFlight those sent whose result or
ENDPOINT notice has not come, done those whose result was written; shards are (bucket, index). endpoints are reduced by the
chain. held lists chain sums that wait for this member's contribution, waits the shards whose chain sums this member waits for, with the
values still to come and the end of the wait (R377). -/
structure GradJob where
  id : Nat
  group : Nat
  buckets : List GradBucket
  ordered : Bool
  resultFmt : Nat
  thinN : Nat
  trigger : Nat
  program : Nat
  window : Nat
  timeout : Nat
  scale : Word
  acc : Nat
  stage : Nat
  stageLen : Nat
  chunk : Nat
  step : Nat := 0
  epoch : Nat := 0
  ready : List Nat := []
  todo : List (Nat × Nat) := []
  inFlight : List (Nat × Nat) := []
  done : List (Nat × Nat) := []
  endpoints : List (Nat × Nat) := []
  gotBytes : List ((Nat × Nat) × Nat) := []
  held : List ((Nat × Nat) × Nat × List Word) := []
  waits : List ((Nat × Nat) × Nat × Nat) := []
  launch : Option Nat := none
  queued : List Nat := []
  cmds : List Nat := []
  seed : Long := 0
  nonFinite : Bool := false
  reason : Option Nat := none
  endpointCount : Nat := 0
  closing : Option Nat := none
  /-- The step was aborted here and has not begun anew: its messages are discarded (R378). -/
  aborted : Bool := false
  deriving DecidableEq, Repr

/-- A key of a reduction slot (R371). -/
structure RedKey where
  job : Nat
  step : Nat
  bucket : Nat
  shard : Nat
  deriving DecidableEq, Repr

/-- One member's contribution to a slot: the bytes received by offset, the tally and count it claimed, and whether it has
been added. -/
structure RedPart where
  rank : Nat
  pieces : List (Nat × List Byte)
  tally : Nat
  nonFinite : Nat
  added : Bool := false
  deriving DecidableEq, Repr

/-- A claimed slot of a lantern (R371 to R374). -/
structure RedSlot where
  lantern : Fin 4
  key : RedKey
  sums : List Word
  parts : List RedPart := []
  due : Nat
  deriving DecidableEq, Repr

/-- LTN_RED_STATUS's own bits (R384) and the residue aborts within the hour (R374). -/
structure RedUnit where
  ok : Bool := false
  peak : Nat := 0
  fullSeen : Bool := false
  residueSeen : Bool := false
  abortSeen : Bool := false
  aborts : List Nat := []
  deriving DecidableEq, Repr

/-- Groups, operations, jobs and slots, with HUB_GRAD_CFG and the bits [23:18] of HUB_COLL_STATUS. -/
structure CollPart where
  groups : List Group := []
  binds : List Bind := []
  earlyBinds : List EarlyBind := []
  ready : List ReadyMark := []
  ops : List CollOp := []
  jobs : List GradJob := []
  slots : List RedSlot := []
  marks : List (Nat × RedKey) := []
  red : Vector RedUnit 4 := Vector.replicate 4 {}
  gradCfg : Word := 0x006400C8#32
  seen : BitVec 6 := 0
  deriving DecidableEq, Repr

end Sys2Proof.Machine
end

