-- ==== Sys2Proof/Machine/RegName.lean ====
section
/-! DEFINITION. The registers of BAR0 by name (R387, R388). QUERY item 0x0003 gives the offsets the spec does not print, so
a register access names its register. -/
namespace Sys2Proof.Machine

/-- Dies in the order of R15: kilns 0 to 11, lanterns 12 to 15, wheels 16 and 17, the hub 18, the crock 19. -/
abbrev DieIx := Fin 20

/-- Every register the spec names, with its instance. -/
inductive Reg where
  -- chapter 13
  | hostStatus | eventStatus | eventEnable | bar2Map
  | sqBase (n : Fin 64) | sqCfg (n : Fin 64) | sqHead (n : Fin 64)
  | cqBase (n : Fin 64) | cqCfg (n : Fin 64)
  | sqDoorbell (n : Fin 64) | cqDoorbell (n : Fin 64)
  | msixEntry (v : Fin 2048) (w : Fin 4) | msixPending (w : Fin 32) | msixControl
  -- chapters 1 to 6
  | dieStatus (k : Fin 12) | numPolicy | troubleLimits | troubleStatus (k : Fin 12)
  | tileStatus (k : Fin 12) (t : Fin 16) | saccSel (k : Fin 12) | saccData (k : Fin 12)
  | fnSlotStatus | attnStatus (k : Fin 12) | ctxStatus | poolStatus (n : Fin 16)
  -- chapters 7 to 10
  | progStatus | unifiedCfg | unifiedStatus | shmemPart (k : Fin 12) | prioMap | crkMemStatus | migCfg | migStatus
  | slipStatus (k : Fin 12) | whlStatus (w : Fin 2) | mediaStatus
  -- chapters 11 and 12
  | portStatus (l : Fin 4) (p : Fin 32) | portPeer (l : Fin 4) (p : Fin 32) | linkCfg (l : Fin 4)
  | laserStatus (l : Fin 4) | fabricStatus | gradCfg | collStatus | redStatus (l : Fin 4)
  -- chapters 14 and 15
  | timeCfg | timeRate | timeNow | timeStatus | candleState | schedStatus
  | pwrCap | pwrStatus | coolantStatus
  -- chapters 16 to 18
  | startStatus | firingStatus | scrubCfg | repairStatus | ueLog | ledgerVersion
  | ctrCycle (d : DieIx) | ctrStatus (d : DieIx) | ctrSel (d : DieIx) (i : Fin 8) | ctr (d : DieIx) (i : Fin 8)
  | ctrGrant | bwCfg | debugStatus | portBw (l : Fin 4) (p : Fin 32) | meshBw (d : DieIx)
  deriving DecidableEq, Repr

/-- The 8-byte registers. -/
def Reg.is64 : Reg → Bool
  | .sqBase _ | .cqBase _ | .timeNow | .candleState | .pwrCap | .ueLog | .ctrCycle _ | .ctr _ _ | .portBw _ _ | .meshBw _ =>
    true
  | _ => false

/-- How an aligned access covers a register (R388): whole, or one 4-byte half of an 8-byte register. -/
inductive Part where
  | whole | lower | upper
  deriving DecidableEq, Repr

end Sys2Proof.Machine
end

