-- ==== Sys2Proof/Machine/Status.lean ====
section
/-! DEFINITION. The status codes of R408, numbered consecutively from the first value of each range, in the order listed. -/
namespace Sys2Proof.Machine

/-! R408, Work done. -/
def stOk : Half := 0x0000#16
def stWidened : Half := 0x0001#16
def stNumericNan : Half := 0x0002#16

/-! R408, Ended early. -/
def stCancelled : Half := 0x0010#16
def stStepRepeat : Half := 0x0011#16
def stGroupChanged : Half := 0x0012#16
def stSlipDamage : Half := 0x0013#16
def stUncorrectable : Half := 0x0014#16

/-! R408, Packets and the host. -/
def stOpcodeInvalid : Half := 0x0100#16
def stPacketFormat : Half := 0x0101#16
def stClassInvalid : Half := 0x0102#16
def stTagBusy : Half := 0x0103#16
def stTagIdle : Half := 0x0104#16
def stCancelRefused : Half := 0x0105#16
def stPreemptState : Half := 0x0106#16
def stHostAccess : Half := 0x0107#16
def stQueryItem : Half := 0x0108#16
def stQuerySpace : Half := 0x0109#16
def stResourceAbsent : Half := 0x010A#16

/-! R408, Memory and windows. -/
def stAddress : Half := 0x0200#16
def stAlignment : Half := 0x0201#16
def stMemOverlap : Half := 0x0202#16
def stAtomicTier : Half := 0x0203#16
def stPinned : Half := 0x0204#16
def stMigrateRange : Half := 0x0205#16
def stPinLimit : Half := 0x0206#16
def stWindowBusy : Half := 0x0207#16
def stWindowFull : Half := 0x0208#16
def stWindowFormat : Half := 0x0209#16
def stWindowOrder : Half := 0x020A#16
def stWindowClass : Half := 0x020B#16
def stWindowOverlap : Half := 0x020C#16
def stWindowExhausted : Half := 0x020D#16

/-! R408, Images and the loader. -/
def stProgramTableFull : Half := 0x0300#16
def stImageFormat : Half := 0x0301#16
def stImageDigest : Half := 0x0302#16
def stNumericsVersion : Half := 0x0303#16
def stKernelFormat : Half := 0x0304#16
def stRangeMethod : Half := 0x0305#16
def stShapeMenu : Half := 0x0306#16
def stLoopOrder : Half := 0x0307#16
def stGroupLimit : Half := 0x0308#16
def stGroupState : Half := 0x0309#16
def stBufferSize : Half := 0x030A#16
def stScratchpad : Half := 0x030B#16
def stChain : Half := 0x030C#16
def stTileTooLong : Half := 0x030D#16
def stVecParam : Half := 0x030E#16
def stAttnPattern : Half := 0x030F#16
def stAttnHeadDim : Half := 0x0310#16
def stPixelParam : Half := 0x0311#16
def stProgramInvalid : Half := 0x0312#16
def stProgramBusy : Half := 0x0313#16

/-! R408, Admission. -/
def stListFormat : Half := 0x0380#16
def stShapeExceedsPlan : Half := 0x0381#16
def stBoundedUnpinned : Half := 0x0382#16
def stAttnGlobals : Half := 0x0383#16
def stFnTableMismatch : Half := 0x0384#16
def stSlipUse : Half := 0x0385#16

/-! R408, Function and slip tables. -/
def stFnSlotInvalid : Half := 0x0400#16
def stFnSlotBusy : Half := 0x0401#16
def stFnSlotState : Half := 0x0402#16
def stFnTableFormat : Half := 0x0403#16
def stFnTableBounds : Half := 0x0404#16
def stFnTableSeam : Half := 0x0405#16
def stFnTableRange : Half := 0x0406#16
def stFnNotMonotone : Half := 0x0407#16
def stSlipSlotInvalid : Half := 0x0408#16
def stSlipSlotBusy : Half := 0x0409#16
def stSlipSlotState : Half := 0x040A#16
def stSlipTableFormat : Half := 0x040B#16

/-! R408, Contexts. -/
def stPoolInvalid : Half := 0x0500#16
def stPoolBusy : Half := 0x0501#16
def stPoolEmpty : Half := 0x0502#16
def stCtxFormat : Half := 0x0503#16
def stCtxInvalid : Half := 0x0504#16
def stCtxRange : Half := 0x0505#16
def stCtxNotPinned : Half := 0x0506#16
def stTableFull : Half := 0x0507#16

/-! R408, Media. -/
def stMediaCodec : Half := 0x0600#16
def stMediaParam : Half := 0x0601#16
def stMediaTableFull : Half := 0x0602#16
def stMediaCoresBusy : Half := 0x0603#16
def stMediaPoolRange : Half := 0x0604#16
def stMediaSessionInvalid : Half := 0x0605#16
def stMediaPoolEmpty : Half := 0x0606#16
def stMediaSlotBusy : Half := 0x0607#16
def stMediaStreamError : Half := 0x0608#16
def stMediaOutSpace : Half := 0x0609#16

/-! R408, Fabric and collectives. -/
def stFabricParam : Half := 0x0700#16
def stFabricBusy : Half := 0x0701#16
def stFabricIsolated : Half := 0x0702#16
def stFabricNotMember : Half := 0x0703#16
def stFabricIdConflict : Half := 0x0704#16
def stRouteUnreachable : Half := 0x0705#16
def stCollParam : Half := 0x0706#16
def stCollPath : Half := 0x0707#16
def stCollMismatch : Half := 0x0708#16
def stCollTimeout : Half := 0x0709#16
def stGroupInvalid : Half := 0x070A#16
def stGroupBusy : Half := 0x070B#16
def stGroupTableFull : Half := 0x070C#16
def stGradJobInvalid : Half := 0x070D#16
def stGradJobBusy : Half := 0x070E#16
def stGradJobFull : Half := 0x070F#16

/-! R408, Time and schedules. -/
def stCandleFormat : Half := 0x0800#16
def stCandleFull : Half := 0x0801#16
def stCandleState : Half := 0x0802#16
def stDeadline : Half := 0x0803#16
def stTimeUnlocked : Half := 0x0804#16

/-! R408, Firings, power, counters, debug. -/
def stFiringFormat : Half := 0x0900#16
def stFiringSignature : Half := 0x0901#16
def stFiringSlot : Half := 0x0902#16
def stFiringRole : Half := 0x0903#16
def stFiringNone : Half := 0x0904#16
def stPowerParam : Half := 0x0905#16
def stPowerState : Half := 0x0906#16
def stCounterParam : Half := 0x0907#16
def stDebugDenied : Half := 0x0908#16

end Sys2Proof.Machine
end

