-- ==== Sys2Proof/Machine/HostTypes.lean ====
section
/-! DEFINITION. Types of the host link: packets, replies, commands in flight, rings, MSI-X (R385 to R416). -/
namespace Sys2Proof.Machine

/-- A command packet (R402). -/
structure Packet where
  opcode : Byte
  cls : BitVec 2
  fenceBefore : Bool
  tag : Tag
  deadline : BitVec 48
  o0 : Long
  o1 : Long
  o2 : Long
  o3 : Long
  o4 : Long
  o5 : Long
  deriving DecidableEq, Repr

/-- The contents of a reply that its command fixes (R406, R407): STATUS and the 24-byte body. -/
structure Reply where
  status : Half := 0
  body : List Byte := []
  deriving DecidableEq, Repr

/-- Where a command in flight stands. waiting: it passed R403 and its own row has not carried it out; refused: R403 ends
it; running: carried out, its end is a later event; fence: a FENCE waiting under R411; after: a CANCEL or PREEMPT that
completes once another command's reply is written (R413, R414); done: its reply waits to be written. -/
inductive Phase where
  | waiting | refused | running | fence | stopped
  | after (id : Nat)
  | done
  deriving DecidableEq, Repr

/-- A command in flight: fetched, its reply not yet written (R409, R410). id rises in fetch order. core is the lamplighter
that fetched it (R512). -/
structure Cmd where
  id : Nat
  sq : Fin 64
  cq : Fin 64
  core : Nat
  holdsTag : Bool
  pkt : Packet
  phase : Phase
  reply : Reply := {}
  cancelling : Bool := false
  deriving DecidableEq, Repr

/-- A submission ring: HUB_SQn_BASE, HUB_SQn_CFG, HUB_SQn_HEAD and the latest TAIL (R393, R394, R396, R398). -/
structure Sq where
  base : Long := 0
  log2 : BitVec 5 := 0
  enable : Bool := false
  cfgErr : Bool := false
  cq : BitVec 6 := 0
  weight : BitVec 4 := 1
  classMask : BitVec 3 := 7
  head : Half := 0
  tail : Half := 0
  deriving DecidableEq, Repr

/-- A completion ring: HUB_CQn_BASE, HUB_CQn_CFG, the device's tail, the host's HEAD, the phase, the replies not yet
covered by a message and when they are to be (R393, R395, R398, R400, R401). -/
structure Cq where
  base : Long := 0
  log2 : BitVec 5 := 0
  enable : Bool := false
  cfgErr : Bool := false
  fullSeen : Bool := false
  vector : BitVec 11 := 0
  coalesceCount : Byte := 1
  coalesceUs : BitVec 4 := 0
  tail : Half := 0
  head : Half := 0
  phase : Bool := true
  uncovered : Nat := 0
  coverAt : Nat := 0
  deriving DecidableEq, Repr

/-- The 64 submission and 64 completion rings (R392). -/
structure Rings where
  sq : Vector Sq 64 := Vector.replicate 64 {}
  cq : Vector Cq 64 := Vector.replicate 64 {}
  deriving DecidableEq, Repr

/-- One entry of the MSI-X table (R387): address, data, vector control, in PCIe's layout; masked at reset as PCIe
gives it (PRESUMED, log 6). -/
structure MsixEntry where
  addrLo : Word := 0
  addrHi : Word := 0
  data : Word := 0
  control : Word := 1
  deriving DecidableEq, Repr

/-- The MSI-X capability and table. entries holds the entries that differ from their reset value, by vector. -/
structure Msix where
  enable : Bool := false
  functionMask : Bool := false
  entries : List (Nat × MsixEntry) := []
  pending : List Nat := []
  deriving DecidableEq, Repr

/-- Kinds of AER events the device logs (R391, R504, R556). -/
inductive AerKind where
  | hostRead | poisonedRead | ringEntry
  deriving DecidableEq, Repr

/-- The host link's registers and the commands in flight. -/
structure Link where
  protoErrors : Half := 0
  tagLimitSeen : Bool := false
  tagBusySeen : Bool := false
  cqFullSeen : Bool := false
  events : Byte := 0
  eventEnable : Byte := 0
  bar2Base : BitVec 18 := 0x4000
  /-- log2 of the BAR2 size in GiB, 0 to 14; 64 GiB at reset (R385). -/
  bar2Size : Nat := 6
  msix : Msix := {}
  cmds : List Cmd := []
  nextId : Nat := 0
  /-- Commands whose replies wait to be written, oldest first. -/
  replies : List Nat := []
  /-- The ring of the current round-robin turn and the packets taken in it (R399). -/
  rrRing : Fin 64 := 63
  rrTaken : Nat := 16
  /-- Lower halves held for 8-byte registers (R388), and high halves that low-half reads latched (R423), by register. -/
  holds : List (Reg × Word) := []
  latched : List (Reg × Word) := []
  deriving DecidableEq, Repr

end Sys2Proof.Machine
end

