-- ==== Sys2Proof/Config.lean ====
section
/-! DEFINITION. What an implementation fixes and the spec leaves open: opaque constants with no body. Each stands for
every value; no proof can see one. -/
namespace Sys2Proof.Config

/-- A byte of memory whose contents the spec calls undefined (R181, R391, R378, R466): epoch counts the events that
left memory undefined, addr is the device address. -/
opaque freeByte (epoch addr : Nat) : Byte

/-- A choice the spec leaves to the device (R174 context number, R206 program handle, R283 session, R434 stream, R500
four or more bits in error): the n-th such choice since reset. -/
opaque freeChoice (n : Nat) : Nat

/-- Which line of a full shared cache a new line replaces (R230 names no rule), by the cache's lines and the new line. -/
opaque cacheVictim (lines : List (Nat × Bool)) (line : Nat) : Nat

/-- A word a device computes by means the spec does not print: the n-th such word (R535 counts nothing here). -/
opaque freeWord (n : Nat) : BitVec 64

/-- R114: a numerics version's constants of a function, whose operation code R199 numbers: coefficients from 0 on, the three
parts of π/2 from 16 on, the seeds of RSQRT. -/
opaque fnConst (version : BitVec 32) (fn i : Nat) : BitVec 32

/-- R139: the parameters of a vector convolution, which no field of R199 holds: i counts kernel extents 0 to 2, strides 3 to 5,
dilations 6 to 8, padding before 9 to 11 and after 12 to 14, input extents t, h, w 15 to 17, channels per group 18. aux and
param are the operation record's fields. -/
opaque convParam (aux : Nat) (param : BitVec 32) (i : Nat) : Nat

/-- R206, R364: where in a kiln's scratchpad the loader puts a program's reservation. -/
opaque reserveOffset (handle kiln : Nat) : Nat

/-- R114, R118: the bytes of a built-in segment table, in the layout of R115 and R116. -/
opaque builtinTable (version : BitVec 32) (slot : Nat) : List Byte

/-- R37: the tile number that the stochastic values of vector units and convolution engines take; R37 numbers tiles alone. -/
opaque vectorTile : Nat

/-- R129, R138: which buffer takes a vector operation's row-status stream (stream 0) or its statistics (stream 1), for the program's
handle, the kernel and the operation's place in it: no field of R199 names them. A number that is no buffer's says that the
operation writes no such stream. -/
opaque streamBuf (handle kernel op stream : Nat) : Nat

/-- R482: the leaf key of a certificate chain that chains to the Keahal root in boot ROM, or none. -/
opaque chainLeaf (chain : List Byte) : Option Nat

/-- R345: does a certificate chain to the Keahal root, and which public key does it certify. -/
opaque certKey (cert : List Byte) : Option Nat

/-- R495: the device certificate with its authority's certificate, in DER. -/
opaque deviceCerts : List Byte

/-- R335, R495: the public key of the device's identity, as bytes. -/
opaque identityKey : List Byte

/-- R496: the signature bytes (r then s, 96 bytes) the identity key puts on a digest. -/
opaque identitySign (digest : Nat) : List Byte

/-- R495: digest of the boot ROM, the measurement of entry 0 of R496. -/
opaque bootRomDigest : Nat

/-- R280: what a coded unit says, as its standard defines it: a value for each query, in a codec (0 HEVC, 1 AV1) whose stream held the
units of the history before it, each with whether it decoded; and lists of pictures, named by unit and frame. -/
opaque decoded (codec : Nat) (history : List (List Byte × Nat)) (unit : List Byte) (query : List Nat) : Nat
opaque decodedPics (codec : Nat) (history : List (List Byte × Nat)) (unit : List Byte) (query : List Nat) : List (Nat × Nat)

/-- R281: what the encoder of a numerics version makes of frames, for a session's descriptor: the coded bytes, a value for each query and
lists of pictures. The history holds the frames coded before, each with its flags. -/
opaque encoded (params : List Nat) (history frames : List (List Byte × Nat)) (query : List Nat) : Nat
opaque encodedBytes (params : List Nat) (history frames : List (List Byte × Nat)) (query : List Nat) : List Byte
opaque encodedPics (params : List Nat) (history frames : List (List Byte × Nat)) (query : List Nat) : List (Nat × Nat)

/-- R405: the register directory of a die, whose contents the spec prints only in part; die is a QUERY INDEX code. -/
opaque regDirectory (die : Nat) : List Byte

/-- R492: what step S23 writes to HUB_NUM_POLICY (low word) and HUB_TROUBLE_LIMITS (high word) under a numerics version. -/
opaque numericsDefaults (version : BitVec 32) : BitVec 64

/-- R481: does a component list a numerics version among those it implements. Where in the component is not printed. -/
opaque implements (component : List Byte) (version : BitVec 32) : Bool

/-- R481: what an owner policy holds: the owner's public key, the digests of revoked certificates, DEBUG_ALLOWED, and whether its
transfer signature is by the owner of a key. The policy's layout is not printed. -/
opaque policyKey (policy : List Byte) : List Byte
opaque policyRevoked (policy : List Byte) : List (List Byte)
opaque policyDebug (policy : List Byte) : Bool
opaque policyTransfer (policy : List Byte) (ownerKey : Nat) : Bool

/-- R334: the fields of a role component: MODE, FABRIC_ID, n, G, g, i for indices 0 to 5. Its layout is not printed. -/
opaque roleField (role : List Byte) (i : Nat) : Nat

/-- R481: the value that a defaults component gives a register it may name, where it names it: 0 HUB_UNIFIED_CFG, 1 HUB_TIME_CFG,
2 HUB_TIME_RATE, 3 HUB_GRAD_CFG, 4 HUB_PRIO_MAP, 5 + 8 l LTN_LINK_CFG of lantern l, 6 CRK_MIG_CFG, 7 + 8 k KLN_SHMEM_PART of kiln k.
Offsets are not printed. -/
opaque defaultOf (defaults : List Byte) (register : Nat) : Option (BitVec 32)

/-- R20: spare rows and spare columns of one bank of a stack; the spec gives only their sum over a stack, 3.2 GiB. -/
opaque bankRows : Nat
opaque bankCols : Nat

end Sys2Proof.Config
end

