-- ==== Sys2Proof/Machine/Mem.lean ====
section
/-! DEFINITION. Device memory by device address: cells in one canonical form, ranges the spec calls undefined, and the
poisoned words of R503. -/
namespace Sys2Proof.Machine

/-- A range [lo, hi) of device addresses whose bytes the spec calls undefined, and the event that left it so. -/
structure URange where
  lo : Nat
  hi : Nat
  epoch : Nat
  deriving DecidableEq, Repr

/-- Everything that has a DA: the stacks, scratchpads, map memories, the crock tier and the unified window (R221). An
unlisted address reads as zero unless an undefined range holds it. poison lists word numbers (address / 8), rising. -/
structure Mem where
  cells : List Host.Cell := []
  undef : List URange := []
  poison : List Nat := []
  epoch : Nat := 0
  /-- DDR5 channels in service at the start, and the places among them of those that have failed since (R240, R513). -/
  channels : Nat := 0
  dead : List Nat := []
  /-- The KiB blocks of window addresses that lie in a failed channel. -/
  deadWin : List Nat := []
  deriving DecidableEq, Repr

/-- The byte listed at an address. -/
def cellGet (cs : List Host.Cell) (a : Nat) : Option Byte :=
  match cs.find? (fun c => c.1 == a) with
  | some c => some c.2
  | none => none

/-- What an address that is not listed, and lies in no undefined range, reads as (DESIGN CHOICE, log 2). -/
def blankByte : Byte := 0#8

/-- Put a byte at an address, keeping the list rising and free of bytes equal to what an unlisted address reads as. -/
def cellSet : List Host.Cell → Nat → Byte → List Host.Cell
  | [], a, b => if b = blankByte then [] else [(a, b)]
  | (k, v) :: r, a, b =>
    if k < a then (k, v) :: cellSet r a b
    else if k = a then (if b = blankByte then r else (a, b) :: r)
    else (if b = blankByte then (k, v) :: r else (a, b) :: (k, v) :: r)

/-- Whether an undefined range holds an address. -/
def URange.holds (u : URange) (a : Nat) : Bool := decide (u.lo ≤ a) && decide (a < u.hi)

/-- Take [lo, hi) out of one undefined range: what is left below and above. -/
def URange.cut (lo hi : Nat) (u : URange) : List URange :=
  (if u.lo < min u.hi lo then [{ u with hi := min u.hi lo }] else []) ++
  (if max u.lo hi < u.hi then [{ u with lo := max u.lo hi }] else [])

/-- Take [lo, hi) out of every undefined range. -/
def undefCut (lo hi : Nat) (us : List URange) : List URange := us.flatMap (URange.cut lo hi)

/-- Read one byte. -/
def Mem.read (m : Mem) (a : Nat) : Byte :=
  match cellGet m.cells a with
  | some b => b
  | none =>
    match m.undef.find? (fun u => u.holds a) with
    | some u => Config.freeByte u.epoch a
    | none => blankByte

/-- Write one byte; the poison marks stay. -/
def Mem.write (m : Mem) (a : Nat) (b : Byte) : Mem :=
  { m with cells := cellSet m.cells a b, undef := undefCut a (a + 1) m.undef }

/-- Read n bytes from a. -/
def Mem.readBytes (m : Mem) (a n : Nat) : List Byte := (List.range n).map fun i => m.read (a + i)

/-- The little-endian number in n bytes at a (R1). -/
def Mem.readNat (m : Mem) (a n : Nat) : Nat := leNat (m.readBytes a n)

/-- Write bytes from a upward. -/
def Mem.writeBytes (m : Mem) (a : Nat) : List Byte → Mem
  | [] => m
  | b :: bs => (m.write a b).writeBytes (a + 1) bs

/-- Make [a, a+n) read as zero. -/
def Mem.clear (m : Mem) (a n : Nat) : Mem :=
  { m with cells := m.cells.filter (fun c => !(decide (a ≤ c.1) && decide (c.1 < a + n))),
           undef := undefCut a (a + n) m.undef }

/-- Make the bytes of [a, a+n) undefined. -/
def Mem.forget (m : Mem) (a n : Nat) : Mem :=
  if n = 0 then m
  else
    { m with cells := (m.clear a n).cells,
             undef := ⟨a, a + n, m.epoch⟩ :: undefCut a (a + n) m.undef,
             epoch := m.epoch + 1 }

/-- Insert into a rising list of numbers. -/
def insertNat : Nat → List Nat → List Nat
  | x, [] => [x]
  | x, y :: ys => if y < x then y :: insertNat x ys else if y = x then y :: ys else x :: y :: ys

/-- R240, R513: does a failed channel hold an address; channels take 1 KiB of the crock tier in turn. -/
def Mem.deadAt (m : Mem) (a : Nat) : Bool :=
  (decide (0x20000000000 ≤ a) && decide (a < 0x100000000000) && m.dead.contains ((a - 0x20000000000) / 1024 % max 1 m.channels)) ||
  m.deadWin.contains (a / 1024)
/-- The first address of [a, a+n) in a failed channel: a KiB block that begins there, or a itself. -/
def Mem.firstDead (m : Mem) (a n : Nat) : Option Nat :=
  if (m.dead.isEmpty && m.deadWin.isEmpty) || n = 0 then none
  else ((a :: (List.range ((a + n - 1) / 1024 - a / 1024)).map fun i => (a / 1024 + 1 + i) * 1024).find? m.deadAt).map fun x => x / 8 * 8

/-- Whether the word that holds an address reads uncorrectable: it is poisoned, or its channel has failed. -/
def Mem.poisoned (m : Mem) (a : Nat) : Bool := m.poison.contains (a / 8) || m.deadAt a

/-- Whether any byte of [a, a+n) lies in a word that does. -/
def Mem.poisonedIn (m : Mem) (a n : Nat) : Bool :=
  (n != 0 && m.poison.any fun w => decide (8 * w < a + n) && decide (a < 8 * w + 8)) || (m.firstDead a n).isSome

/-- The first such word of [a, a+n), as the address of its first byte. -/
def Mem.firstPoison (m : Mem) (a n : Nat) : Option Nat :=
  match m.poison.find? fun w => n != 0 && decide (8 * w < a + n) && decide (a < 8 * w + 8), m.firstDead a n with
  | some w, some x => some (min (8 * w) x)
  | some w, none => some (8 * w)
  | none, x => x

/-- Mark the word that holds an address poisoned. -/
def Mem.setPoison (m : Mem) (a : Nat) : Mem := { m with poison := insertNat (a / 8) m.poison }

/-- Clear the marks of words that lie whole in [a, a+n): R503's writes of all 8 bytes. -/
def Mem.unpoisonWhole (m : Mem) (a n : Nat) : Mem :=
  { m with poison := m.poison.filter fun w => !(decide (a ≤ 8 * w) && decide (8 * w + 8 ≤ a + n)) }

/-- R503: a write through a checked path. Words covered whole lose their poison; bytes bound for a word that stays
poisoned do not land. -/
def Mem.store (m : Mem) (a : Nat) (bs : List Byte) : Mem :=
  let m1 := m.unpoisonWhole a bs.length
  (indexed bs).foldl (fun acc p => if m1.poisoned (a + p.1) then acc else acc.write (a + p.1) p.2) m1

/-- R503: does a write of [a, a+n) touch a poisoned word without covering it whole. -/
def Mem.storeStruck (m : Mem) (a n : Nat) : Bool := (m.unpoisonWhole a n).poisonedIn a n

/-- R503: the device's own move of n bytes: data as read, and every destination word that receives a byte of a poisoned
source word poisoned whole. -/
def Mem.move (m : Mem) (src dst n : Nat) : Mem :=
  let bs := m.readBytes src n
  let hit := (List.range n).filter fun i => m.poisoned (src + i)
  let m1 := (m.unpoisonWhole dst n).writeBytes dst bs
  hit.foldl (fun acc i => acc.setPoison (dst + i)) m1

/-- Whether a list of cells rises strictly and holds no byte equal to what an unlisted address reads as. -/
def cellsWf : List Host.Cell → Bool
  | [] => true
  | [c] => c.2 != blankByte
  | c :: d :: r => (c.2 != blankByte) && decide (c.1 < d.1) && cellsWf (d :: r)

/-- Whether a list of numbers rises strictly. -/
def risingNat : List Nat → Bool
  | [] => true
  | [_] => true
  | a :: b :: r => decide (a < b) && risingNat (b :: r)

/-- The canonical form of device memory: cells rising, none equal to what an unlisted address reads as, none inside an
undefined range; poison marks rising. -/
def Memory.wf (m : Mem) : Bool :=
  cellsWf m.cells && m.cells.all (fun c => !(m.undef.any fun u => u.holds c.1)) && risingNat m.poison

end Sys2Proof.Machine
end

