-- ==== Sys2Proof/Machine/MediaTypes.lean ====
section
/-! DEFINITION. Media sessions, frame pools, slot marks, codec jobs (R275 to R300). -/
namespace Sys2Proof.Machine

/-- The marks of a slot (R289). -/
structure Marks where
  write : Bool := false
  ref : Bool := false
  out : Bool := false
  inn : Bool := false
  deriving DecidableEq, Repr

/-- A session descriptor (R282). -/
structure SessDesc where
  codec : Nat
  dir : Nat
  profile : Nat
  level : Nat
  depth : Nat
  cores : Nat
  split : Nat
  wheel : Fin 2
  realtime : Bool
  randomAccess : Bool
  slots : Nat
  hostSlots : Nat
  rcMode : Nat
  width : Nat
  height : Nat
  poolBase : Nat
  keyInterval : Nat
  kbps : Nat
  qp : Nat
  deriving DecidableEq, Repr

/-- An open session (R283): marks by slot; what its codec has had (R280, R281): units or frames with a note on each, and the pictures it holds as
references, each as its slot and its name (unit or command, frame); the slot of the frame coded last; the inputs of the open group
of RANDOM_ACCESS, and whether that begins with a key frame; frames completed, inputs taken since the last key frame (KEY_INTERVAL),
releases of OUT that wait for launches (R291), the cores it reserves (R285), the command that closes it. -/
structure Session where
  num : Nat
  desc : SessDesc
  marks : List Marks
  history : List (List Byte × Nat) := []
  refs : List (Nat × Nat × Nat) := []
  last : Option Nat := none
  held : List Nat := []
  heldKey : Bool := false
  frames : Nat := 0
  sinceKey : Option Nat := none
  closing : Option Nat := none
  pending : List (Nat × List Nat) := []
  reserved : List Nat := []
  deriving DecidableEq, Repr

/-- Who asked for codec work: a command in flight, or a candle action (stream, instance, entry). -/
inductive MediaOwner where
  | cmd (id : Nat)
  | candle (stream cycle entry : Nat)
  deriving DecidableEq, Repr

/-- A MEDIA command at the media arbiter (R286): its operands; the launches admitted earlier that it waits for (R291); the session as it
stood before the command took anything; the frame it is at, the unit or the
frames it read when it began, whether a core works on the frame, its slot and its cores; the bytes and statistics made so far. repeated
marks R444's repeat of the previous frame. -/
structure MediaJob where
  id : Nat
  owner : MediaOwner
  session : Nat
  decode : Bool
  da : Nat
  length : Nat
  statsDa : Nat
  release : Nat := 0
  inSlot : Nat := 255
  forceKey : Bool := false
  flush : Bool := false
  repeated : Bool := false
  waits : List Nat := []
  before : Option Session := none
  step : Nat := 0
  unit : List Byte := []
  source : List (List Byte × Nat) := []
  started : Bool := false
  slot : Option Nat := none
  cores : List Nat := []
  bits : List Byte := []
  stats : List Byte := []
  deriving DecidableEq, Repr

/-- The hub's media table with HUB_MEDIA_STATUS's own bits (R311). -/
structure MediaPart where
  sessions : List Session := []
  jobs : List MediaJob := []
  nextJob : Nat := 0
  peak : Nat := 0
  fullSeen : Bool := false
  poolEmptySeen : Bool := false
  streamErrSeen : Bool := false
  outSpaceSeen : Bool := false
  deriving DecidableEq, Repr

/-- R288: bytes per sample, pitch, chroma offset, stride of a slot. -/
def SessDesc.sampleBytes (d : SessDesc) : Nat := if d.depth = 8 then 1 else 2
def SessDesc.pitch (d : SessDesc) : Nat := roundUp (d.width * d.sampleBytes) 256
def SessDesc.chroma (d : SessDesc) : Nat := roundUp (d.pitch * d.height) 4096
def SessDesc.planeBytes (d : SessDesc) : Nat := d.chroma + d.height / 2 * d.pitch
def SessDesc.stride (d : SessDesc) : Nat := roundUp d.planeBytes 0x200000
def SessDesc.slotDa (d : SessDesc) (k : Nat) : Nat := d.poolBase + k * d.stride
def SessDesc.poolLen (d : SessDesc) : Nat := d.slots * d.stride

/-- R282: read a descriptor's fields. -/
def parseSess (r : List Byte) : SessDesc :=
  { codec := bytesAt r 0 0, dir := bytesAt r 1 1, profile := bytesAt r 2 2, level := bytesAt r 3 3, depth := bytesAt r 4 4,
    cores := bytesAt r 5 5, split := bytesAt r 6 6, wheel := if bytesAt r 7 7 = 1 then 1 else 0,
    realtime := bit (bytesAt r 8 8) 0, randomAccess := bit (bytesAt r 8 8) 1, slots := bytesAt r 9 9,
    hostSlots := bytesAt r 10 10, rcMode := bytesAt r 11 11, width := bytesAt r 13 12, height := bytesAt r 15 14,
    poolBase := bytesAt r 21 16, keyInterval := bytesAt r 23 22, kbps := bytesAt r 27 24, qp := bytesAt r 28 28 }

/-- R283's first check, R276, R277. -/
def sessCodecOk (r : List Byte) (d : SessDesc) : Bool :=
  decide (d.dir ≤ 1) &&
  ((d.codec == 0 && ((d.profile == 1 && d.depth == 8) || (d.profile == 2 && (d.depth == 8 || d.depth == 10)))) ||
   (d.codec == 1 && d.profile == 0 && (d.depth == 8 || d.depth == 10))) && r.length == 64

/-- The level values that R282's field can name: those of the standards' level lists are not in the spec; the range is. -/
def sessLevelOk (d : SessDesc) : Bool :=
  decide (20 ≤ d.level) && decide (d.level ≤ (if d.dir = 0 && 2 ≤ d.cores then 62 else 61))

/-- R283's second check, R278, R282. -/
def sessParamOk (r : List Byte) (d : SessDesc) : Bool :=
  let enc := d.dir == 1
  [1, 2, 4].contains d.cores && decide (d.split ≤ 2) && (enc || d.split == 0) && (d.codec == 0 || d.split == 0) &&
  decide (bytesAt r 7 7 ≤ 1) && decide (bytesAt r 8 8 < 4) && (enc || !d.randomAccess) && decide (2 ≤ d.slots) &&
  decide (d.slots ≤ 32) &&
  (if enc then decide (1 ≤ d.hostSlots) && decide (d.hostSlots + 5 ≤ d.slots) else d.hostSlots == 0) &&
  (if enc then decide (d.rcMode ≤ 2) else d.rcMode == 0) &&
  d.width % 2 == 0 && d.height % 2 == 0 && decide (128 ≤ d.width) && decide (d.width ≤ 8192) && decide (128 ≤ d.height) &&
  decide (d.height ≤ 8192) && decide (d.width * d.height ≤ 33177600) &&
  (if enc && d.rcMode != 0 then decide (100 ≤ d.kbps) && decide (d.kbps ≤ 2000000) else d.kbps == 0) &&
  (if enc && d.rcMode == 0 then decide (d.qp ≤ (if d.codec = 0 then 51 else 63)) else d.qp == 0) &&
  zeroAt r 63 29 && sessLevelOk d && (!d.randomAccess || decide (8 ≤ d.hostSlots))

/-- R285: cores reserved on a wheel and the largest CORES of its other sessions, over a list of sessions. -/
def reservedCores (ss : List Session) (w : Fin 2) : Nat :=
  sumNat ((ss.filter fun s => s.desc.wheel == w && s.desc.realtime).map fun s => s.desc.cores)
def largestShared (ss : List Session) (w : Fin 2) : Nat :=
  maxNat ((ss.filter fun s => s.desc.wheel == w && !s.desc.realtime).map fun s => s.desc.cores)

/-- R285: the two conditions after an open, with n cores of the wheel in service. -/
def coresFit (ss : List Session) (w : Fin 2) (n : Nat) : Bool :=
  decide (reservedCores ss w + largestShared ss w ≤ min 4 n)

/-- R290: the lowest-numbered free codec slot. -/
def Session.freeSlot (s : Session) : Option Nat :=
  (List.range s.marks.length).find? fun k =>
    decide (s.desc.hostSlots ≤ k) && (s.marks.getD k {} == {})

def Session.mark (s : Session) (k : Nat) (f : Marks → Marks) : Session :=
  { s with marks := s.marks.set k (f (s.marks.getD k {})) }

/-- R298: a frame's statistics header. -/
def statsHeader (index display slot type bw bh flags coded : Nat) : List Byte :=
  leBytes 4 index ++ leBytes 4 display ++ leBytes 1 slot ++ leBytes 1 type ++ leBytes 2 bw ++ leBytes 2 bh ++
  leBytes 1 flags ++ leBytes 1 0 ++ leBytes 4 coded ++ List.replicate 44 0#8

/-- R298: header and records, padded to a multiple of 64. -/
def statsBlock (hdr : List Byte) (recs : List Nat) : List Byte :=
  let bs := hdr ++ recs.flatMap fun r => leBytes 8 r
  bs ++ List.replicate (roundUp bs.length 64 - bs.length) 0#8

-- Pictures and their statistics (R288, R298 to R300)

/-- R288: the rows of a picture of w × h in a slot, as (offset, bytes): luma samples, then chroma pairs with Cb first; plane is 0 luma, 1 Cb,
2 Cr. -/
def SessDesc.picture (s : SessDesc) (w h : Nat) (sample : Nat → Nat → Nat → Nat) : List (Nat × List Byte) :=
  let put (plane row col : Nat) : List Byte := leBytes s.sampleBytes (sample plane row col % 2 ^ s.depth)
  ((List.range h).map fun r => (r * s.pitch, (List.range w).flatMap fun c => put 0 r c)) ++
  (List.range (cdiv h 2)).map fun r => (s.chroma + r * s.pitch, (List.range (cdiv w 2)).flatMap fun c => put 1 r c ++ put 2 r c)

/-- A luma sample in memory, at 8-bit scale (R299). -/
def SessDesc.luma (s : SessDesc) (m : Mem) (slot row col : Nat) : Nat :=
  m.readNat (s.slotDa slot + row * s.pitch + col * s.sampleBytes) s.sampleBytes % 2 ^ s.depth / 2 ^ (s.depth - 8)

/-- Sign of a 4×4 Hadamard coefficient's term. -/
def hadSign (i j : Nat) : Int := if (i % 2 * (j % 2) + i / 2 * (j / 2)) % 2 = 0 then 1 else -1
/-- R299: the sum of a 4×4 block's absolute Hadamard coefficients. -/
def hadamard (x : Nat → Nat → Nat) : Nat :=
  sumNat ((List.range 4).flatMap fun u => (List.range 4).map fun v =>
    (((List.range 4).flatMap fun i => (List.range 4).map fun j => hadSign u i * hadSign v j * (x i j : Int)).foldl (· + ·) 0).natAbs)
/-- R299, R300: COMPLEXITY of block (bx, by) of a picture of w × h; samples outside it count nothing. -/
def complexity (w h : Nat) (luma : Nat → Nat → Nat) (bx by_ : Nat) : Nat :=
  min 0xFFF (sumNat ((List.range 4).flatMap fun a => (List.range 4).map fun b =>
    hadamard fun i j =>
      let r := 16 * by_ + 4 * a + i
      let c := 16 * bx + 4 * b + j
      if r < h && c < w then luma r c else 0) / 16)

/-- What a coded frame is, beyond its samples: its size, the slots of its references, and the coding block's data at a luma sample:
0 MVX, 1 MVY, 2 QP, 3 MODE, 4 the place of the first reference among them. -/
structure FrameInfo where
  codec : Nat
  w : Nat
  h : Nat
  slots : List Nat
  block : Nat → Nat → Nat → Nat

/-- R299, R300: the record of one block; motion, QP, MODE and REF_SLOT are those of the coding block at its sample (8, 8), or at the
nearest sample of the picture. A frame without references is intra. -/
def FrameInfo.record (f : FrameInfo) (luma : Nat → Nat → Nat) (bx by_ : Nat) : Nat :=
  let x := min (16 * bx + 8) (f.w - 1)
  let y := min (16 * by_ + 8) (f.h - 1)
  let mode := if f.slots.isEmpty then 0 else f.block x y 3 % 4
  let mv (i : Nat) : Nat := if mode = 0 then 0 else f.block x y i % 2 ^ 16
  let ref := if mode = 0 then 0x3F else f.slots.getD (f.block x y 4 % f.slots.length) 0x3F % 32
  let qp := f.block x y 2 % (if f.codec = 0 then 52 else 64)
  mv 0 + mv 1 * 2 ^ 16 + complexity f.w f.h luma bx by_ * 2 ^ 32 + qp * 2 ^ 44 + mode * 2 ^ 50 + ref * 2 ^ 52 +
    b2n (decide (f.w < 16 * bx + 16) || decide (f.h < 16 * by_ + 16)) * 2 ^ 58

/-- R298: a frame's records in row-major order. -/
def FrameInfo.records (f : FrameInfo) (s : SessDesc) (luma : Nat → Nat → Nat) : List Nat :=
  (List.range (cdiv s.height 16)).flatMap fun y => (List.range (cdiv s.width 16)).map fun x => f.record luma x y

/-- R298's block of one frame. -/
def frameStats (s : SessDesc) (index display slot type flags coded : Nat) (recs : List Nat) : List Byte :=
  statsBlock (statsHeader index display slot type (cdiv s.width 16) (cdiv s.height 16) flags coded) recs

-- What the codec says (R280, R281, R293)

/-- R280: a value of the unit that a decode session takes next: 0 its syntax, odd where it holds; 1 to 5 its profile, level, depth, width and
height; 6 its coded frames; 7 a frame's type; 8 what it shows; 10 odd where a frame suits no split; 11 a frame's sample; 12 a coding
block's data; 13 and 15 the display count of a frame and of a picture shown once more; 14 odd where a frame has film grain. -/
def Session.ask (s : Session) (unit : List Byte) (q : List Nat) : Nat := Config.decoded s.desc.codec s.history unit q
/-- R293: does a unit keep to the syntax, and to the session's profile, level, depth and size (R278). -/
def Session.unitOk (s : Session) (u : List Byte) : Bool :=
  s.ask u [0] % 2 == 1 && decide (s.ask u [1] ≤ s.desc.profile) && decide (s.ask u [2] ≤ s.desc.level) && decide (s.ask u [3] ≤ s.desc.depth) &&
  decide (1 ≤ s.ask u [4]) && decide (s.ask u [4] ≤ s.desc.width) && decide (1 ≤ s.ask u [5]) && decide (s.ask u [5] ≤ s.desc.height)
/-- Coded frames of a unit: an HEVC access unit has one, an AV1 temporal unit any number. -/
def Session.unitFrames (s : Session) (u : List Byte) : Nat := if s.desc.codec = 0 then 1 else s.ask u [6]
/-- R298: FRAME_TYPE: 0 key or IRAP, 1 inter, 2 intra. -/
def Session.frameType (s : Session) (u : List Byte) (f : Nat) : Nat := s.ask u [7, f] % 3
/-- The pictures that a frame needs as references: only an inter frame any; and those the standard keeps after it (R289). -/
def Session.needs (s : Session) (u : List Byte) (f : Nat) : List (Nat × Nat) :=
  if s.frameType u f = 1 then Config.decodedPics s.desc.codec s.history u [0, f] else []
def Session.keeps (s : Session) (u : List Byte) (f : Nat) : List (Nat × Nat) := Config.decodedPics s.desc.codec s.history u [1, f]
/-- R292: what a unit shows: nothing, its last frame, or a picture that the session holds, a hidden frame of the unit among them. -/
inductive Shown where
  | nothing
  | last
  | held (p : Nat × Nat)
  deriving DecidableEq, Repr
def Session.shown (s : Session) (u : List Byte) : Shown :=
  match s.ask u [8] % 3 with
  | 0 => .nothing
  | 1 => if s.unitFrames u = 0 then .nothing else .last
  | _ => match Config.decodedPics s.desc.codec s.history u [2] with | p :: _ => .held p | [] => .nothing

/-- R281: what the encoder's bits depend on: the descriptor's fields and the numerics version. -/
def SessDesc.encParams (d : SessDesc) (version : Word) : List Nat :=
  [d.codec, d.profile, d.level, d.depth, d.cores, d.split, b2n d.randomAccess, d.rcMode, d.width, d.height, d.keyInterval, d.kbps, d.qp, version.toNat]

-- References (R289)

/-- The slot that holds a picture as a reference. -/
def Session.slotOf (s : Session) (p : Nat × Nat) : Option Nat := (s.refs.find? fun r => r.2 == p).map (·.1)
/-- R292: the slot shown and the display count at a unit's end, last the slot of its last frame; none where it shows a picture that the
session does not hold. -/
def Session.shownAt (s : Session) (u : List Byte) (last : Option Nat) : Option (Option Nat × Nat) :=
  match s.shown u with
  | .nothing => some (none, 0)
  | .last => some (last, s.ask u [13, s.unitFrames u - 1])
  | .held p => (s.slotOf p).map fun k => (some k, s.ask u [15])

/-- R289: a frame in a slot is complete: the standard keeps some pictures, and WRITE goes. -/
def Session.frameDone (s : Session) (slot : Nat) (name : Nat × Nat) (keeps : List (Nat × Nat)) : Session :=
  let refs := (s.refs.filter (fun r => r.1 != slot) ++ [(slot, name)]).filter fun r => keeps.contains r.2
  { s with refs := refs, last := some slot,
           marks := (indexed s.marks).map fun m =>
             if m.1 < s.desc.hostSlots then m.2
             else { m.2 with ref := refs.any (fun r => r.1 == m.1), write := m.2.write && m.1 != slot } }

/-- R290, R293, R296: the session as it was before a command, but for what earlier commands' releases have done since; keep tells whether the
command's own releases stand. -/
def Session.undo (s before : Session) (own : List Nat) (keep : Bool) : Session :=
  let gone := (before.pending.filter fun p => !s.pending.contains p).map (·.1)
  let marks := (indexed before.marks).map fun m => if gone.contains m.1 || (keep && own.contains m.1) then { m.2 with out := false } else m.2
  { before with marks := marks, closing := s.closing, pending := if keep then s.pending else before.pending.filter s.pending.contains }

end Sys2Proof.Machine
end

