-- ==== Sys2Proof/Machine/PowerTypes.lean ====
section
/-! DEFINITION. Types of power, coolant, ember, pins and sideband (R448 to R471, R536 to R551). -/
namespace Sys2Proof.Machine

/-- Power, clocks, coolant and ember. Clocks are in units of 100 MHz: cap the clock the power cap allows each kiln, heat the
clock R461 allows each die (R15's order). stages has a bit per conversion stage in service. samples are the averages of the
last whole milliseconds in W, newest first. stateOf: 0 RUN, 1 ENTERING, 2 EMBER, 3 EXITING. -/
structure PowerPart where
  hostCap : Half := 6000
  hostWindow : Half := 10
  boardCap : Half := 6000
  boardWindow : Half := 10
  state : BitVec 2 := 0
  shmemRetained : Bool := false
  wakeSource : BitVec 2 := 0
  cap : Vector Nat 12 := Vector.replicate 12 33
  heat : Vector Nat 20 := Vector.replicate 20 33
  temps : Vector Nat 20 := Vector.replicate 20 0
  capUnmetSeen : Bool := false
  fastLimitSeen : Bool := false
  boardMemLost : Bool := false
  inputW : Half := 0
  samples : List Nat := []
  belowFor : Nat := 0
  fastUntil : Option Nat := none
  inlet : Byte := 0
  outlet : Byte := 0
  flow : Byte := 0
  flowReported : Bool := false
  warnSeen : Bool := false
  throttleSeen : Bool := false
  tripLast : Bool := false
  stages : BitVec 16 := 0xFFFF
  tripLatch : Bool := false
  inputLossLatch : Bool := false
  tripRecorded : Bool := false
  inputMv : Nat := 48000
  inputMa : Nat := 0
  emberCmds : List Nat := []
  runCmds : List Nat := []
  pendingWake : Option (BitVec 2) := none
  boardMemPower : Bool := true
  flrPending : Bool := false
  deriving DecidableEq, Repr

/-- A JTAG instruction (R549). -/
inductive JtagInstr where
  | idcode | bypass | samplePreload | extest | clamp | highz
  | debugHalt (mask : BitVec 12)
  | debugContinue (mask : BitVec 12)
  deriving DecidableEq, Repr

/-- The pins and sideband (R538 to R549). A pin's field is true while its line is high. -/
structure Pins where
  input : Bool := true
  alwaysOn : Bool := true
  perstN : Bool := false
  wakeN : Bool := true
  pwrGood : Bool := false
  thermTripN : Bool := true
  sbAlertN : Bool := true
  ethPhyRstN : Bool := false
  i3c : Bool := false
  sbAddr : BitVec 2 := 0
  jtag : JtagInstr := .idcode
  powered : Bool := false
  deriving DecidableEq, Repr

end Sys2Proof.Machine
end

