-- ==== Sys2Proof/Machine/StartTypes.lean ====
section
/-! DEFINITION. Types of the start, flash, firings, the sherd log and the health ledger (R472 to R498, R505 to R520). -/
namespace Sys2Proof.Machine

/-- A record of the sherd log (R478), but for CHECK, which its bytes fix. -/
structure Sherd where
  start : Nat
  step : Nat
  outcome : Nat
  method : Nat := 0
  consec : Nat := 0
  detail : Nat := 0
  unit : Nat := 0xFF
  event : Nat := 0
  time : Nat := 0
  deriving DecidableEq, Repr

/-- A commit record (R486), but for its check. -/
structure CommitRec where
  seq : Nat
  isRevert : Bool
  slot : Fin 8
  targetSeq : Nat
  digest : List Byte
  deriving DecidableEq, Repr

/-- A repair to record (R515): kind, unit, element, detail. -/
structure Repair where
  kind : Nat
  unit : Nat
  element : Nat
  detail : Nat
  deriving DecidableEq, Repr

/-- A ledger record (R514), but for its check. -/
structure LedgerRec where
  version : Nat
  rep : Repair
  start : Nat
  time : Nat
  deriving DecidableEq, Repr

/-- The two copies of a firing slot (R472): the bytes stored, empty where the slot is erased. -/
structure FlashSlot where
  primary : List Byte := []
  mirror : List Byte := []
  deriving DecidableEq, Repr

/-- The external flash (R472, R514): its capacity, the commit areas, the sherd log, the two ledger areas and the eight
firing slots. -/
structure Flash where
  capacity : Nat := 0x10000000
  areaA : List CommitRec := []
  areaB : List CommitRec := []
  sherds : List Sherd := []
  ledger : Vector (List LedgerRec) 2 := Vector.replicate 2 []
  slots : Vector FlashSlot 8 := Vector.replicate 8 {}
  deriving DecidableEq, Repr

/-- A staged source (R484). -/
structure Staged where
  da : Nat
  len : Nat
  digest : List Byte
  deriving DecidableEq, Repr

/-- A component of a firing (R481). -/
structure Component where
  kind : Nat
  signer : Nat
  offset : Nat
  size : Nat
  digest : List Byte
  deriving DecidableEq, Repr

/-- The firing that runs (R491): its slot, its header's fields, its components and what they fix. -/
structure ActiveFiring where
  slot : Fin 8
  commitSeq : Nat
  numerics : Word
  ownerDigest : List Byte
  revoked : List (List Byte) := []
  debugAllowed : Bool := false
  components : List Component
  deriving DecidableEq, Repr

/-- An SRAM row that fails step S09: its memory as R515's ELEMENT codes it, in the die's QUERY code, the physical tile of a tile buffer, and the
row. -/
structure SramFail where
  memory : Nat
  unit : Nat
  tile : Nat
  row : Nat
  deriving DecidableEq, Repr

/-- A DRAM row that fails step S12: its stack, die, bank and row as R515's DETAIL has them, the column and the bits that read wrong, and the
2 MiB slot that holds it. -/
structure DramFail where
  stack : Fin 24
  row : Nat
  col : Nat
  upset : BitVec 80
  slot : Nat
  deriving DecidableEq, Repr

/-- A spare row, column or lane in use (R20): the record of it (R515), and, of a DRAM row, the column and the bits for which it was
repaired. -/
structure SpareUse where
  rep : Repair
  col : Nat := 0
  upset : BitVec 80 := 0
  deriving DecidableEq, Repr

/-- What a port's training found (R327, R475 step S21). -/
structure PortTrained where
  port : Fin 128
  engine : Nat
  good : BitVec 9
  deriving DecidableEq, Repr

/-- What a DIMM's SPD says (R238, R239): its kind, ECC, ranks, capacity in GiB, and the speeds it supports as codes of
CRK_MEM_STATUS. -/
structure Dimm where
  mrdimm : Bool
  ecc : Bool := true
  ranks : Nat := 2
  gib : Nat
  speeds : List Nat
  deriving DecidableEq, Repr

/-- R238: the speeds the table lists for a population, highest first, as codes of CRK_MEM_STATUS. -/
def tableSpeeds (mrdimm : Bool) (perChannel : Nat) : List Nat :=
  if mrdimm then [6, 5] else if perChannel = 1 then [4, 3, 1] else [2, 1]
/-- R238: the table lists the DIMM's ranks and capacity. -/
def Dimm.listed (x : Dimm) : Bool :=
  x.ecc && (if x.mrdimm then [2, 4] else [1, 2]).contains x.ranks &&
  (if x.mrdimm then [64, 96, 128] else [32, 48, 64, 96, 128]).contains x.gib

/-- The DIMMs of each channel, the channels that fail training after the alternates, and how many speeds of the table the alternates
went down (R238 to R240). -/
structure CrockFound where
  dimms : Vector (List Dimm) 12 := Vector.replicate 12 []
  failed : BitVec 12 := 0
  lowered : Nat := 1
  deriving DecidableEq, Repr

def CrockFound.channel (x : CrockFound) (c : Nat) : List Dimm := x.dimms.toList.getD c []
def channelGib (l : List Dimm) : Nat := l.foldl (fun n (y : Dimm) => n + y.gib) 0
def channelSpeeds (l : List Dimm) : List Nat :=
  match l with
  | [] => []
  | y :: _ => tableSpeeds y.mrdimm l.length
/-- R239: a channel holds one or two DIMMs of one type that the table lists, each of which supports a speed of the table. -/
def channelOk (l : List Dimm) : Bool :=
  (l.length == 1 || l.length == 2) && l.all fun y =>
    y.listed && (l.all fun z => z.mrdimm == y.mrdimm) && (channelSpeeds l).any fun v => y.speeds.contains v
/-- R239: the channels left before training: those that hold what the table allows, with the capacity of the lowest of them. -/
def CrockFound.served (x : CrockFound) : List Nat :=
  let ok := (List.range 12).filter fun c => channelOk (x.channel c)
  ok.filter fun c => channelGib (x.channel c) == channelGib (x.channel (ok.headD 0))
/-- R239: the speeds the table lists for every channel left, highest first, from the common speed down; none where no speed suits
them all (DEDUCED, log 45). -/
def CrockFound.ladder (x : CrockFound) : List Nat :=
  let cs := x.served
  let all := (channelSpeeds (x.channel (cs.headD 0))).filter fun v => cs.all fun c => (channelSpeeds (x.channel c)).contains v
  all.dropWhile fun v => !(cs.all fun c => (x.channel c).all fun (y : Dimm) => y.speeds.contains v)

/-- What a start step found (R475, R507): what its tests and training failed, by step. Only the step's own fields count. -/
structure Findings where
  detail : Nat := 0
  unit : Nat := 0xFF
  identity : Bool := false
  lampsFailed : List (Fin 9) := []
  stagesFailed : BitVec 16 := 0
  diesFailed : List (Fin 20) := []
  tilesFailed : List (Fin 12 × Fin 18) := []
  softmaxFailed : List (Fin 12 × Fin 8) := []
  vectorFailed : List (Fin 14 × Fin 2) := []
  stacksFailed : List (Fin 24) := []
  rowsFailed : List SramFail := []
  lanesFailed : List (Fin 24 × Nat × Nat) := []
  dramFailed : List DramFail := []
  crock : CrockFound := {}
  codecsFailed : List (Fin 2 × Fin 4) := []
  enginesFailed : List (Fin 2) := []
  feedsLow : List (Fin 4 × Fin 18) := []
  feedsFailed : List (Fin 4 × Fin 18) := []
  ports : List PortTrained := []
  authOk : List (Fin 128) := []
  enginesBad : List (Fin 4 × Fin 34) := []
  /-- At a 16th start under R477: the primary method, tried first, succeeded. -/
  primaryOk : Bool := false
  deriving DecidableEq, Repr

/-- The start sequence and the firings (R474 to R497). state: 0 STARTING, 1 READY, 2 HELD, 3 RECOVERY, 4 WAITING. alternates and
skips have bit n − 1 for step Sn. beganUs is when the start began. -/
structure StartPart where
  step : Nat := 0
  state : BitVec 3 := 0
  selfStarts : Nat := 0
  selfStartDue : Bool := false
  identityOk : Bool := false
  alternates : BitVec 24 := 0
  skips : BitVec 24 := 0
  fallback : Bool := false
  startNo : Nat := 0
  beganUs : Nat := 0
  started : Bool := false
  flash : Flash := {}
  staged : Vector (Option Staged) 8 := Vector.replicate 8 none
  selected : Option (Fin 8) := none
  active : Option ActiveFiring := none
  recovery : Bool := false
  committed : BitVec 8 := 0
  conflictSeen : Bool := false
  interruptedSeen : Bool := false
  /-- What this start's tests have put out of service: dies, stacks, physical tiles (R507). -/
  diesOut : List (Fin 20) := []
  stacksOut : List (Fin 24) := []
  tilesOut : List (Fin 12 × Fin 18) := []
  deriving DecidableEq, Repr

/-- A lamplighter core (R512). -/
structure Lamp where
  ok : Bool := false
  spare : Bool := false
  deriving DecidableEq, Repr

/-- HUB_UE_LOG (R520). -/
structure UeLog where
  location : BitVec 48 := 0
  unit : Byte := 0
  where_ : BitVec 4 := 0
  struck : Bool := false
  multiple : Bool := false
  valid : Bool := false
  deriving DecidableEq, Repr

/-- Repair: HUB_SCRUB_CFG, HUB_REPAIR_STATUS's own bits, HUB_UE_LOG, lamplighters, standing repairs and those not yet
recorded, the spare rows, columns and lanes in use, words that the last scrub pass corrected as (WHERE, unit, location), retired slots as (stack, slot). takeover names the
stopped core whose commands the spare takes. -/
structure RepairPart where
  scrubCfg : Word := 0x00000A08#32
  quarantineSeen : Bool := false
  spareOutSeen : Bool := false
  unitOutSeen : Bool := false
  ledgerFull : Bool := false
  ledgerEmptyStart : Bool := false
  ue : UeLog := {}
  lamps : Vector Lamp 9 := Vector.replicate 9 {}
  takeover : Option (Fin 9) := none
  ledgerVersion : Nat := 0
  activeArea : Fin 2 := 0
  standing : List LedgerRec := []
  unwritten : List Repair := []
  spares : List SpareUse := []
  corrected : List (Nat × Nat × Nat) := []
  retired : List (Nat × Nat) := []
  /-- Until the next start: tile sequencers that failed, of kilns 0 to 11 and wheels 12 and 13, and stacks whose controller did
  (R513). -/
  seqFailed : List Nat := []
  stacksFailed : List (Fin 24) := []
  deriving DecidableEq, Repr

end Sys2Proof.Machine
end

