-- ==== Sys2Proof/Machine/TimeTypes.lean ====
section
/-! DEFINITION. Types of the time unit and the candle streams (R417 to R447). -/
namespace Sys2Proof.Machine

/-- The master a PTP clock follows, by the fields of its Announce that the best master clock algorithm compares, in order. -/
structure PtpMaster where
  priority1 : Nat
  clockClass : Nat
  accuracy : Nat
  variance : Nat
  priority2 : Nat
  identity : Nat
  steps : Nat
  deriving DecidableEq, Repr

/-- A PTP message reaching the clock (R422). Times are nanoseconds since the SMPTE epoch; a two-step Sync gives its time in
the Follow_Up. -/
inductive PtpMsg where
  | announce (domain : Nat) (m : PtpMaster)
  | sync (identity : Nat) (origin arrival : Nat) (twoStep : Bool)
  | followUp (identity : Nat) (origin : Nat)
  | delayResp (identity : Nat) (sent received : Nat)
  deriving DecidableEq, Repr

/-- The PTP clock: the masters heard, the one followed, the arrival of the Sync that waits for its Follow_Up and the phase it
found, and the delay from slave to master in ns. -/
structure Ptp where
  master : Option PtpMaster := none
  heard : List PtpMaster := []
  syncArrival : Option Nat := none
  syncPhase : Nat := 0
  slaveToMaster : Int := 0
  deriving DecidableEq, Repr

/-- The time unit (R417 to R424). phase is the candle phase, acc the part of a phase unit counted so far, in units of
1 / (DEN × 10^9). num and den are the last valid rate. slew is the phase error still to be slewed, in ns. -/
structure TimePart where
  cfg : Word := 0x7F3C0A00#32
  rate : Word := 0x00010018#32
  num : Nat := 24
  den : Nat := 1
  phase : BitVec 48 := 0
  acc : Nat := 0
  slew : Int := 0
  state : BitVec 2 := 0
  trefPresent : Bool := false
  pulsePresent : Bool := false
  ptpPresent : Bool := false
  stepSeen : Bool := false
  unlockSeen : Bool := false
  rateErr : Bool := false
  phaseErr : BitVec 16 := 0
  lockedOnce : Bool := false
  goodSince : Option Nat := none
  holdTo : Nat := 0
  ptp : Ptp := {}
  deriving DecidableEq, Repr

/-- An entry of a candle table (R432). -/
structure CandleEntry where
  frameOffset : Nat
  phase : Nat
  action : Nat
  group : Nat
  lag : Nat
  pass : Nat
  target : Nat
  mode : Nat
  listCount : Nat
  listStride : Nat
  listDa : Nat
  seed : Long
  deriving DecidableEq, Repr

/-- A candle table (R431). -/
structure CandleTable where
  cycleFrames : Nat
  repeatLate : Bool
  requireLock : Bool
  budgetMarked : Bool
  reportCq : Fin 64
  entries : List CandleEntry
  deriving DecidableEq, Repr

/-- A group instance (R441 to R444): passes completed and whether one stopped; the delivered pass once CUTOFF fired; whether
its DELIVER has ended, and with success. -/
structure GroupInst where
  cycle : Nat
  group : Nat
  completed : List Nat := []
  stopped : Bool := false
  open_ : List Nat := []
  delivered : Option Nat := none
  late : Bool := false
  widened : Bool := false
  escalated : Bool := false
  repeated : Bool := false
  deliverDone : Bool := false
  deriving DecidableEq, Repr

/-- An action that has fired and has not reported (R437 to R439): its entry and cycle, the frame it was due at, the flag bits
of its firing (bits 4 and 6 of FLAGS), and the launch it runs. A DELIVER waits with ready false. -/
structure CandleAct where
  entry : Nat
  cycle : Nat
  due : Nat
  flags : Nat
  launch : Option Nat := none
  /-- A DELIVER that has fired and has not started (R443), with the pointer-list DAs of its record. -/
  holds : Bool := false
  record : List Nat := []
  deriving DecidableEq, Repr

/-- A stream (R431 to R446): state 0 FREE, 1 LOADED, 2 ARMED, 3 DRAINING; the next action to fire as (cycle, entry); the last
cycle once draining; fired launches not yet reported, in firing order. -/
structure Stream where
  state : BitVec 2 := 0
  table : Option CandleTable := none
  f0 : Nat := 0
  cycle : Nat := 0
  entry : Nat := 0
  last : Option Nat := none
  insts : List GroupInst := []
  acts : List CandleAct := []
  /-- The phases between which a forward step jumped (R437). -/
  stepped : Option (Nat × Nat) := none
  disarm : Option Nat := none
  deriving DecidableEq, Repr

/-- The streams, the reports that wait to be posted, and HUB_SCHED_STATUS's own bits (R447): bits [5:0] and
LAST_LATE_STREAM. -/
structure CandlePart where
  streams : Vector Stream 32 := Vector.replicate 32 {}
  reports : List (Fin 64 × List Byte) := []
  seen : BitVec 6 := 0
  lastLate : BitVec 5 := 0
  deriving DecidableEq, Repr

end Sys2Proof.Machine
end

