-- ==== Sys2Proof/Machine/EventTypes.lean ====
section
/-! DEFINITION. Operand types of the events: atomics, scrub reads, failing elements, transfers that fail (R17, R231, R505,
R513). -/
namespace Sys2Proof.Machine

/-- The atomic operations (R231). -/
inductive AtomicOp where
  | add | sub | smin | smax | umin | umax | and | or | xor | swap | cas | fadd | fmin | fmax | lineFadd
  deriving DecidableEq, Repr

/-- An atomic that reaches its home cache: width 32 or 64 bits, operand, compare value, and the sixteen words of a
LINE_FADD. upset lists flipped bits of the codewords read, by word address. -/
structure AtomicReq where
  op : AtomicOp
  wide : Bool
  da : Nat
  operand : Long
  compare : Long
  line : List Word
  acquire : Bool
  release : Bool
  deriving DecidableEq, Repr

/-- A codeword the scrubber reads (R505): WHERE and UNIT in R520's codes, its location (a DA where the memory has one), the
bits that read flipped, and where the word lies: its row, as R515's DETAIL numbers it (of a stack DRAM die, bank and row), and its
column. -/
structure ScrubRead where
  where_ : Nat
  unit : Nat
  location : Nat
  upset : BitVec 80
  row : Nat
  col : Nat
  deriving DecidableEq, Repr

/-- An element that fails (R513): the elements of R20 and R21 that its table lists. -/
inductive Element where
  | tile (k : Fin 12) (phys : Fin 18)
  | sramRow (where_ unit row : Nat)
  | dramRow (stack : Fin 24) (slot row : Nat)
  | bondLane (stack : Fin 24) (group lane : Nat)
  | wavelength (port : Fin 128) (w : Fin 9)
  | engine (lantern : Fin 4) (engine : Fin 34)
  | lamplighter (c : Fin 9)
  | sequencer (die : Fin 14)
  | dramController (stack : Fin 24)
  | codecCore (wheel : Fin 2) (core : Fin 4)
  | ddrChannel (c : Fin 12)
  | timeUnit
  | hostPort
  deriving DecidableEq, Repr

/-- Whose transfer a failed mesh flit ends (R17): a launch, a command in flight by tag, a read or a write of the host, a frame of the
media arbiter (a command's or a candle action's), an atomic, a scrubber's read, or a move of the device's own (migration, window
streaming, copy on write) that was to write a word of a DA. -/
inductive MeshIssuer where
  | launch (id : Nat)
  | command (tag : Tag)
  | hostRead
  | hostWrite
  | media (job : Nat)
  | atomic
  | scrubber
  | move (da : Nat)
  deriving DecidableEq, Repr

end Sys2Proof.Machine
end

