-- ==== Sys2Proof/Syntax.lean ====
section
/-! DEFINITION. The commands of the block: one constructor for each row of the opcode table. -/
namespace Sys2Proof
open Sys2Proof.Machine

/-- A command or event that reaches the device. -/
inductive Instr where
  /-- PERST_N_ASSERT (R540). -/
  | perstNAssert (us : Nat)
  /-- PERST_N_RELEASE (R474). -/
  | perstNRelease (straps : BitVec 2)
  /-- START_STEP_COMPLETE (R475). -/
  | startStepComplete (ok : Bool) (f : Findings)
  /-- COOLANT_RECHECK (R475). -/
  | coolantRecheck (inlet : Byte) (flow : Byte)
  /-- SELF_START (R476). -/
  | selfStart
  /-- FUNCTION_LEVEL_RESET (R386). -/
  | functionLevelReset
  /-- LINK_DOWN (R386). -/
  | linkDown
  /-- REGISTER_WRITE (R2). -/
  | registerWrite (r : Reg) (p : Part) (v : Long)
  /-- REGISTER_PROTOCOL_ERROR (R388). -/
  | registerProtocolError (read : Bool) (n : Nat)
  /-- REG64_LOWER_HALF_WRITE (R388). -/
  | reg64LowerHalfWrite (r : Reg) (v : Word)
  /-- REG64_LOW_HALF_READ (R423). -/
  | reg64LowHalfRead (r : Reg)
  /-- RING_BASE_WRITE (R397). -/
  | ringBaseWrite (cq : Bool) (n : Fin 64) (v : Long)
  /-- SQ_ENABLE (R397). -/
  | sqEnable (n : Fin 64) (v : Word)
  /-- SQ_DISABLE (R397). -/
  | sqDisable (n : Fin 64) (v : Word)
  /-- CQ_ENABLE (R397). -/
  | cqEnable (n : Fin 64) (v : Word)
  /-- CQ_DISABLE (R397). -/
  | cqDisable (n : Fin 64) (v : Word)
  /-- SQ_DOORBELL (R398). -/
  | sqDoorbell (n : Fin 64) (v : Word)
  /-- CQ_DOORBELL (R398). -/
  | cqDoorbell (n : Fin 64) (v : Word)
  /-- PACKET_FETCH (R399). -/
  | packetFetch (n : Fin 64) (entry : BitVec 512)
  /-- SQ_ENTRY_READ_ERROR (R556). -/
  | sqEntryReadError (n : Fin 64)
  /-- OPCODE_INVALID_PACKET (R403). -/
  | opcodeInvalidPacket
  /-- REPLY_WRITE (R400). -/
  | replyWrite (cq : Fin 64)
  /-- MSIX_COALESCE_TIMEOUT (R401). -/
  | msixCoalesceTimeout (cq : Fin 64)
  /-- MSIX_UNMASK (R401). -/
  | msixUnmask (v : Option (Fin 2048))
  /-- BAR2_READ (R389). -/
  | bar2Read (off : Nat) (len : Nat) (upsets : List (Nat × BitVec 80))
  /-- BAR2_WRITE (R389). -/
  | bar2Write (off : Nat) (bytes : List Byte)
  /-- NOP (R404). -/
  | nop (tag : Tag)
  /-- FENCE (R411). -/
  | fence (tag : Tag)
  /-- QUERY (R405). -/
  | query (tag : Tag)
  /-- PROGRAM_LOAD (R206). -/
  | programLoad (tag : Tag)
  /-- PROGRAM_UNLOAD (R208). -/
  | programUnload (tag : Tag)
  /-- LAUNCH (R213). -/
  | launch (tag : Tag)
  /-- LAUNCH_LIST (R405). -/
  | launchList (tag : Tag)
  /-- LAUNCH_COMPLETE (R64). -/
  | launchComplete (id : Nat)
  /-- PREEMPT (R412). -/
  | preempt (tag : Tag)
  /-- RESUME (R412). -/
  | resume (tag : Tag)
  /-- CANCEL (R413). -/
  | cancel (tag : Tag)
  /-- MEM_COPY (R247). -/
  | memCopy (tag : Tag) (host : List Byte) (failRow : Option Nat)
  /-- MEM_FILL (R247). -/
  | memFill (tag : Tag)
  /-- MIGRATE (R245). -/
  | migrate (tag : Tag)
  /-- PIN (R246). -/
  | pin (tag : Tag)
  /-- UNPIN (R246). -/
  | unpin (tag : Tag)
  /-- WINDOW_STREAM (R249). -/
  | windowStream (tag : Tag)
  /-- WINDOW_CLOSE (R251). -/
  | windowClose (tag : Tag)
  /-- CTX_CREATE (R174). -/
  | ctxCreate (tag : Tag)
  /-- CTX_CREATE_POOL (R170). -/
  | ctxCreatePool (tag : Tag)
  /-- CTX_FORK (R183). -/
  | ctxFork (tag : Tag)
  /-- CTX_DESTROY (R187). -/
  | ctxDestroy (tag : Tag)
  /-- CTX_DESTROY_POOL (R172). -/
  | ctxDestroyPool (tag : Tag)
  /-- CTX_TRIM (R186). -/
  | ctxTrim (tag : Tag)
  /-- FN_TABLE_LOAD (R121). -/
  | fnTableLoad (tag : Tag)
  /-- FN_TABLE_CHECK_COMPLETE (R123). -/
  | fnTableCheckComplete (slot : Fin 8)
  /-- FN_TABLE_RELEASE (R124). -/
  | fnTableRelease (tag : Tag)
  /-- SLIP_TABLE_LOAD (R262). -/
  | slipTableLoad (tag : Tag)
  /-- SLIP_TABLE_RELEASE (R263). -/
  | slipTableRelease (tag : Tag)
  /-- BARRIER (R358). -/
  | barrier (tag : Tag)
  /-- BROADCAST (R358). -/
  | broadcast (tag : Tag)
  /-- REDUCE (R359). -/
  | reduce (tag : Tag)
  /-- ALLREDUCE (R359). -/
  | allreduce (tag : Tag)
  /-- REDUCE_SCATTER (R358). -/
  | reduceScatter (tag : Tag)
  /-- ALLGATHER (R358). -/
  | allgather (tag : Tag)
  /-- ALLTOALL (R358). -/
  | alltoall (tag : Tag)
  /-- SEND (R358). -/
  | send (tag : Tag)
  /-- RECV (R358). -/
  | recv (tag : Tag)
  /-- GRAD_CONTRIBUTE (R369). -/
  | gradContribute (tag : Tag)
  /-- GROUP_BIND (R354). -/
  | groupBind (tag : Tag)
  /-- GROUP_RELEASE (R356). -/
  | groupRelease (tag : Tag)
  /-- GRAD_JOB_OPEN (R368). -/
  | gradJobOpen (tag : Tag)
  /-- GRAD_JOB_CLOSE (R381). -/
  | gradJobClose (tag : Tag)
  /-- MEDIA_OPEN (R283). -/
  | mediaOpen (tag : Tag)
  /-- MEDIA_DECODE (R292). -/
  | mediaDecode (tag : Tag)
  /-- MEDIA_ENCODE (R294). -/
  | mediaEncode (tag : Tag)
  /-- MEDIA_CLOSE (R287). -/
  | mediaClose (tag : Tag)
  /-- CODEC_FRAME_COMPLETE (R289). -/
  | codecFrameComplete (job : Nat) (frame : Nat)
  /-- SLOT_RELEASE_EFFECT (R291). -/
  | slotReleaseEffect (session : Nat)
  /-- CANDLE_LOAD (R434). -/
  | candleLoad (tag : Tag)
  /-- CANDLE_ARM (R435). -/
  | candleArm (tag : Tag)
  /-- CANDLE_DISARM (R440). -/
  | candleDisarm (tag : Tag)
  /-- CANDLE_STREAM_FREED (R440). -/
  | candleStreamFreed (k : Fin 32)
  /-- CANDLE_LAUNCH (R438). -/
  | candleLaunch (k : Fin 32)
  /-- CANDLE_MEDIA_DECODE (R437). -/
  | candleMediaDecode (k : Fin 32)
  /-- CANDLE_MEDIA_ENCODE (R444). -/
  | candleMediaEncode (k : Fin 32)
  /-- CUTOFF (R442). -/
  | cutoff (k : Fin 32)
  /-- DELIVER (R443). -/
  | deliver (k : Fin 32)
  /-- FIRING_STAGE (R484). -/
  | firingStage (tag : Tag)
  /-- FIRING_COMMIT (R485). -/
  | firingCommit (tag : Tag) (flashOk : Bool)
  /-- FIRING_REVERT (R490). -/
  | firingRevert (tag : Tag)
  /-- ATTEST (R496). -/
  | attest (tag : Tag)
  /-- POWER_STATE_EMBER (R468). -/
  | powerStateEmber (tag : Tag)
  /-- POWER_STATE_RUN (R470). -/
  | powerStateRun (tag : Tag)
  /-- EMBER_EXIT_COMPLETE (R470). -/
  | emberExitComplete
  /-- POWER_CAP (R453). -/
  | powerCap (tag : Tag)
  /-- FABRIC_JOIN (R347). -/
  | fabricJoin (tag : Tag)
  /-- FABRIC_LEAVE (R348). -/
  | fabricLeave (tag : Tag)
  /-- LEAVE_DRAIN_TIMEOUT (R348). -/
  | leaveDrainTimeout
  /-- LEAVE_FORWARD_END (R348). -/
  | leaveForwardEnd
  /-- ROUTE_QUERY (R342). -/
  | routeQuery (tag : Tag)
  /-- COUNTER_PROGRAM (R529). -/
  | counterProgram (tag : Tag)
  /-- COUNTER_SNAPSHOT (R529). -/
  | counterSnapshot (tag : Tag)
  /-- COUNTER_STOP (R529). -/
  | counterStop (tag : Tag)
  /-- COUNTER_CLEAR (R529). -/
  | counterClear (tag : Tag)
  /-- DEBUG_ENTER (R532). -/
  | debugEnter (tag : Tag)
  /-- DEBUG_EXIT (R534). -/
  | debugExit (tag : Tag)
  /-- HALT (R533). -/
  | halt (tag : Tag)
  /-- CONTINUE (R533). -/
  | continue_ (tag : Tag)
  /-- DUMP (R533). -/
  | dump (tag : Tag) (bytes : List Byte)
  /-- HEALTH_QUERY (R518). -/
  | healthQuery (tag : Tag)
  /-- SACC_CAPTURE (R104). -/
  | saccCapture (k : Fin 12) (v : Word)
  /-- UE_LOG_CLEAR (R520). -/
  | ueLogClear
  /-- COUNTERS_RESUME (R527). -/
  | countersResume (d : DieIx)
  /-- CTR_SEL_WRITE (R524). -/
  | ctrSelWrite (d : DieIx) (i : Fin 8) (v : Word)
  /-- COUNTER_OVERFLOW (R526). -/
  | counterOverflow (d : DieIx) (i : Fin 8)
  /-- BW_WINDOW_CLOSE (R531). -/
  | bwWindowClose
  /-- SHMEM_PART_REQUEST (R229). -/
  | shmemPartRequest (k : Fin 12) (v : Word)
  /-- SHMEM_PART_APPLY (R229). -/
  | shmemPartApply (k : Fin 12)
  /-- TIME_CFG_WRITE (R418). -/
  | timeCfgWrite (v : Word)
  /-- TIME_RATE_WRITE (R419). -/
  | timeRateWrite (v : Word)
  /-- TIME_LOCK (R420). -/
  | timeLock
  /-- TIME_REFERENCE_LOSS (R420). -/
  | timeReferenceLoss
  /-- HOLDOVER_EXPIRY (R420). -/
  | holdoverExpiry
  /-- TIME_REFERENCE_RETURN (R420). -/
  | timeReferenceReturn
  /-- TPULSE_EDGE (R544). -/
  | tpulseEdge (errNs : Int) (inLimits : Bool)
  /-- PTP_MESSAGE (R422). -/
  | ptpMessage (m : PtpMsg)
  /-- POWER_CAP_TICK (R455). -/
  | powerCapTick (watts : Nat)
  /-- FAST_POWER_LIMIT (R456). -/
  | fastPowerLimit
  /-- FAST_LIMIT_RELEASE (R456). -/
  | fastLimitRelease
  /-- INPUT_VOLTAGE_LOSS (R449). -/
  | inputVoltageLoss
  /-- STAGE_OUT_OF_REGULATION (R450). -/
  | stageOutOfRegulation (i : Fin 16)
  /-- THERMAL_WARN (R461). -/
  | thermalWarn (inlet : Byte) (flow : Byte) (temps : List Nat)
  /-- THERMAL_THROTTLE_TICK (R461). -/
  | thermalThrottleTick (d : DieIx) (temp : Nat)
  /-- THERMAL_TRIP (R462). -/
  | thermalTrip
  /-- DIE_COMPARATOR_TRIP (R542). -/
  | dieComparatorTrip (d : DieIx)
  /-- BOARD_POWER_CAP (R453). -/
  | boardPowerCap (cap : Half) (window : Half)
  /-- BOARD_WAKE (R470). -/
  | boardWake
  /-- WAKE_N_TIMEOUT (R470). -/
  | wakeNTimeout
  /-- MCTP_TELEMETRY_READ (R459). -/
  | mctpTelemetryRead
  /-- BOARD_MEMORY_POWER_LOSS (R466). -/
  | boardMemoryPowerLoss
  /-- I3C_ENTDAA (R548). -/
  | i3cEntdaa
  /-- JTAG_INSTRUCTION (R549). -/
  | jtagInstruction (i : JtagInstr)
  /-- TILE_EXECUTION_START (R226). -/
  | tileExecutionStart (k : Fin 12) (t : Fin 16) (launch : Nat)
  /-- TILE_READY_MOVE (R226). -/
  | tileReadyMove (k : Fin 12) (t : Fin 16) (launch : Nat) (ix : Nat) (side : Fin 3)
  /-- TILE_EXECUTION_END (R55). -/
  | tileExecutionEnd (k : Fin 12) (t : Fin 16) (residueFail : Bool)
  /-- CHAIN_SEGMENT_ARRIVE (R98). -/
  | chainSegmentArrive (launch : Nat) (run : Nat) (segment : Nat)
  /-- PIPELINE_EXECUTION_END (R160). -/
  | pipelineExecutionEnd (k : Fin 12) (p : Fin 8) (launch : Nat) (residueFail : Bool)
  /-- VECTOR_EXECUTION_END (R110). -/
  | vectorExecutionEnd (die : Fin 14) (unit : Fin 2) (launch : Nat) (ix : Nat) (regFails : Nat)
  /-- PIXEL_EXECUTION_END (R306). -/
  | pixelExecutionEnd (w : Fin 2) (launch : Nat) (ix : Nat) (residueFail : Bool)
  /-- ATOMIC (R233). -/
  | atomic (r : AtomicReq)
  /-- MESH_RETRY_EXHAUSTED (R17). -/
  | meshRetryExhausted (who : MeshIssuer)
  /-- SCRUB_TICK (R505). -/
  | scrubTick (r : ScrubRead)
  /-- LANE_REPAIR (R511). -/
  | laneRepair (stack : Fin 24) (group : Nat) (lane : Nat) (codewords : Nat)
  /-- ELEMENT_FAILURE (R513). -/
  | elementFailure (e : Element)
  /-- LAMPLIGHTER_WATCHDOG (R512). -/
  | lamplighterWatchdog (c : Fin 9)
  /-- LAMPLIGHTER_TAKEOVER (R512). -/
  | lamplighterTakeover
  /-- LEDGER_RECORD_WRITE (R517). -/
  | ledgerRecordWrite
  /-- MIGRATION_EPOCH_END (R243). -/
  | migrationEpochEnd
  /-- UNIT_MOVE_COMPLETE (R242). -/
  | unitMoveComplete (ix : Nat)
  /-- WINDOW_USE_FILLED (R250). -/
  | windowUseFilled (w : Fin 8)
  /-- SLIP_BLOCK_HEADER_READ (R264). -/
  | slipBlockHeaderRead (k : Fin 12) (launch : Nat) (buf : Nat) (unit : Nat)
  /-- SLIP_BLOCK_DECODED (R267). -/
  | slipBlockDecoded (k : Fin 12)
  /-- SLIP_DAMAGE_REREAD (R269). -/
  | slipDamageReread (k : Fin 12)
  /-- FORERUNNER_BLOCK_DECODED (R271). -/
  | forerunnerBlockDecoded (k : Fin 12) (launch : Nat) (buf : Nat) (unit : Nat)
  /-- LINK_HELLO (R333). -/
  | linkHello (p : Fin 128) (h : Hello)
  /-- HELLO_INTERVAL_TICK (R333). -/
  | helloIntervalTick
  /-- NEIGHBOUR_DEAD (R333). -/
  | neighbourDead (p : Fin 128)
  /-- DATA_FLIT_RECEIVE (R320). -/
  | dataFlitReceive (p : Fin 128) (f : Flit) (corrected : List Nat) (bad : Bool)
  /-- IDLE_FLIT_RECEIVE (R318). -/
  | idleFlitReceive (p : Fin 128) (f : Flit) (corrected : List Nat) (bad : Bool)
  /-- LINK_RETRY (R320). -/
  | linkRetry (p : Fin 128) (seq : BitVec 12)
  /-- ABORT_FLIT (R323). -/
  | abortFlit (p : Fin 128) (vc : BitVec 2) (src : NodeId) (msgId : BitVec 12)
  /-- ROUTE_FLIT (R341). -/
  | routeFlit (p : Fin 128) (r : RouteBody)
  /-- AUTH_FLIT (R345). -/
  | authFlit (p : Fin 128) (a : AuthBody)
  /-- AUTH_RETRY_TIMER (R346). -/
  | authRetryTimer (p : Fin 128)
  /-- LANE_BER_WINDOW_END (R325). -/
  | laneBerWindowEnd (p : Fin 128)
  /-- SPARE_REQUEST (R326). -/
  | spareRequest (p : Fin 128) (lane : Fin 8)
  /-- SPARE_READY (R326). -/
  | spareReady (p : Fin 128) (lane : Fin 8)
  /-- LANE_LOST (R327). -/
  | laneLost (p : Fin 128) (w : Fin 9)
  /-- RETRAIN_COMPLETE (R328). -/
  | retrainComplete (p : Fin 128) (good : BitVec 9) (ok : Bool)
  /-- LASER_FEED_FAIL (R315). -/
  | laserFeedFail (l : Fin 4) (feed : Fin 18) (failed : Bool)
  /-- MESSAGE_ACK_TIMEOUT (R324). -/
  | messageAckTimeout (l : Fin 4) (msgId : BitVec 12)
  /-- NO_ROUTE_TIMEOUT (R341). -/
  | noRouteTimeout (p : Fin 128) (vc : BitVec 2)
  /-- ELECTION_TIMEOUT (R335). -/
  | electionTimeout
  /-- MEMBERSHIP_EVENT (R350). -/
  | membershipEvent (e : MemberEvent)
  /-- HELD_MESSAGE_TIMEOUT (R351). -/
  | heldMessageTimeout (i : Nat)
  /-- BIND_MESSAGE (R354). -/
  | bindMessage (i : Nat)
  /-- READY_MESSAGE (R360). -/
  | readyMessage (i : Nat)
  /-- COLL_DATA_MESSAGE (R362). -/
  | collDataMessage (i : Nat)
  /-- CHAIN_MESSAGE (R363). -/
  | chainMessage (i : Nat)
  /-- CONTRIB_MESSAGE (R373). -/
  | contribMessage (i : Nat) (residueFails : Nat)
  /-- RESULT_MESSAGE (R373). -/
  | resultMessage (i : Nat)
  /-- ENDPOINT_MESSAGE (R372). -/
  | endpointMessage (i : Nat)
  /-- COLL_ABORT_MESSAGE (R378). -/
  | collAbortMessage (i : Nat)
  /-- COLL_TIMEOUT (R360). -/
  | collTimeout (id : Nat)
  /-- STEP_TIMEOUT (R377). -/
  | stepTimeout (job : Nat) (bucket : Nat) (shard : Nat)
  /-- INPUT_POWER_APPLIED (R539). -/
  | inputPowerApplied
  /-- LASER_FEED_RESTORED (R315). -/
  | laserFeedRestored (l : Fin 4) (feed : Fin 18)
  /-- SPARE_WAVELENGTH_TRAINED (R326). -/
  | spareWavelengthTrained (p : Fin 128) (lane : Fin 8)
  deriving DecidableEq, Repr

end Sys2Proof
end

