-- ==== Sys2Proof/Decode.lean ====
section
/-! DEFINITION. The command that a word spells by the opcode table's bits. The table gives no row any bits: commands reach
the block as pins, register accesses, packets and events, so no word spells one. The fields of a packet's 64 bytes (R402)
are read in Machine/Rings.lean. -/
namespace Sys2Proof

/-- No row of the table has bits. -/
def decodeTableWord (nbits w : Nat) : Option Instr :=
  match nbits, w with
  | _, _ => none

end Sys2Proof
end

