-- ==== Sys2Proof/Machine/Ecdsa.lean ====
section
/-! DEFINITION. ECDSA over the curve P-384 (R345, R482, R496): the spec names the algorithm, its standard gives the curve (PRESUMED,
log 46). A public key is x · 2^384 + y. -/
namespace Sys2Proof.Machine

def p384 : Nat := 2 ^ 384 - 2 ^ 128 - 2 ^ 96 + 2 ^ 32 - 1
def p384N : Nat :=
  0xFFFFFFFFFFFFFFFFFFFFFFFFFFFFFFFFFFFFFFFFFFFFFFFFC7634D81F4372DDF581A0DB248B0A77AECEC196ACCC52973
def p384B : Nat :=
  0xB3312FA7E23EE7E4988E056BE3F82D19181D9C6EFE8141120314088F5013875AC656398D8A2ED19D2A85C8EDD3EC2AEF
def p384Gx : Nat :=
  0xAA87CA22BE8B05378EB1C71EF320AD746E1D3B628BA79B9859F741E082542A385502F25DBF55296C3A545E3872760AB7
def p384Gy : Nat :=
  0x3617DE4A96262C6F5D9E98BF9292DC29F8F41DBD289A147CE9DA3113B5F0B8C00A60B1CE1D7E819D7A431D7C90EA0E5F

def subP (a b : Nat) : Nat := (a + p384 - b % p384) % p384
def fmulP (a b : Nat) : Nat := a * b % p384

/-- x to the e modulo m, for e below 2^384. -/
def powMod (m x e : Nat) : Nat :=
  (List.range 384).foldr (fun i acc => let q := acc * acc % m; if e.testBit i then q * x % m else q) 1 % m

/-- A point in Jacobian coordinates; z = 0 is the point at infinity. -/
structure EcPoint where
  x : Nat
  y : Nat
  z : Nat
  deriving DecidableEq, Repr

def EcPoint.double (a : EcPoint) : EcPoint :=
  let yy := fmulP a.y a.y
  let s := 4 * fmulP a.x yy % p384
  let zz := fmulP a.z a.z
  let m := 3 * fmulP (subP a.x zz) (a.x + zz) % p384
  let x := subP (fmulP m m) (2 * s)
  { x := x, y := subP (fmulP m (subP s x)) (8 * fmulP yy yy), z := 2 * fmulP a.y a.z % p384 }

def EcPoint.add (a b : EcPoint) : EcPoint :=
  if a.z = 0 then b
  else if b.z = 0 then a
  else
    let za := fmulP a.z a.z
    let zb := fmulP b.z b.z
    let u1 := fmulP a.x zb
    let u2 := fmulP b.x za
    let s1 := fmulP a.y (fmulP zb b.z)
    let s2 := fmulP b.y (fmulP za a.z)
    if u1 = u2 then (if s1 = s2 then a.double else { x := 1, y := 1, z := 0 })
    else
      let h := subP u2 u1
      let r := subP s2 s1
      let hh := fmulP h h
      let v := fmulP u1 hh
      let hhh := fmulP h hh
      let x := subP (fmulP r r) (hhh + 2 * v)
      { x := x, y := subP (fmulP r (subP v x)) (fmulP s1 hhh), z := fmulP h (fmulP a.z b.z) }

/-- k times a point, for k below 2^384. -/
def EcPoint.times (k : Nat) (a : EcPoint) : EcPoint :=
  (List.range 384).foldr (fun i acc => let d := acc.double; if k.testBit i then d.add a else d) { x := 1, y := 1, z := 0 }

/-- The point of a public key lies on the curve. -/
def onCurve (x y : Nat) : Bool :=
  decide (x < p384) && decide (y < p384) && fmulP y y == (fmulP (fmulP x x) x + p384B + 3 * (p384 - x)) % p384

/-- Does the signature (r, s) over a SHA-384 digest verify under a public key. -/
def ecdsaVerifies (key digest r s : Nat) : Bool :=
  let qx := key / 2 ^ 384
  let qy := key % 2 ^ 384
  decide (1 ≤ r) && decide (r < p384N) && decide (1 ≤ s) && decide (s < p384N) && onCurve qx qy &&
  (let w := powMod p384N s (p384N - 2)
   let a := (EcPoint.times (digest * w % p384N) { x := p384Gx, y := p384Gy, z := 1 }).add
     (EcPoint.times (r * w % p384N) { x := qx, y := qy, z := 1 })
   a.z != 0 && fmulP a.x (powMod p384 (fmulP a.z a.z) (p384 - 2)) % p384N == r)

end Sys2Proof.Machine
end

