-- ==== Sys2Proof/Machine/Saggar.lean ====
section
/-! DEFINITION. The saggar (80,64) code of R499 and the decoder of R500, bit for bit. -/
namespace Sys2Proof.Machine

/-- A polynomial over GF(2) as a number: bit k is the coefficient of x^k. Product by shift and exclusive or; fuel is the
number of bits of the second factor. -/
def gfMul : Nat → Nat → Nat → Nat
  | 0, _, _ => 0
  | n + 1, a, b => (if b % 2 = 1 then a else 0) ^^^ gfMul n (2 * a) (b / 2)

/-- Remainder of a polynomial of degree below d + n by one of degree d. -/
def gfMod (g d : Nat) : Nat → Nat → Nat
  | 0, a => a
  | n + 1, a => gfMod g d n (if a.testBit (d + n) then a ^^^ (g <<< n) else a)

/-- R499: the minimal polynomial of α, a root of x^7 + x + 1. -/
def minPoly1 : Nat := 0b10000011
/-- R499: the minimal polynomial of α^3. -/
def minPoly3 : Nat := 0b10101011
/-- R499: g(x) = (x + 1)^2 · M1(x) · M3(x), of degree 16. -/
def saggarGen : Nat := gfMul 8 (gfMul 8 (gfMul 2 0b11 0b11) minPoly1) minPoly3

/-- R499: the check bits of 64 data bits. -/
def saggarCheck (data : Nat) : Nat := gfMod saggarGen 16 64 (data <<< 16)

/-- R499: the codeword, data in bits [63:0] and check bits in [79:64]. -/
def saggarEncode (data : Nat) : Nat := data + saggarCheck data <<< 64

/-- The syndrome: zero exactly on codewords. -/
def saggarSyndrome (w : Nat) : Nat := saggarCheck (w % 2 ^ 64) ^^^ (w >>> 64)

/-- R500's outcomes. -/
inductive SaggarOut where
  | clean (data : Nat)
  | corrected (data : Nat) (bits : List Nat)
  | uncorrectable
  deriving DecidableEq, Repr

/-- The error patterns of one or two of the 80 bits. -/
def onePatterns : List (List Nat) := (List.range 80).map fun i => [i]
def twoPatterns : List (List Nat) := (pairs (List.range 80)).map fun p => [p.1, p.2]

def flipBits (bits : List Nat) (w : Nat) : Nat := bits.foldl (fun a i => a ^^^ 2 ^ i) w

/-- R500: clean, corrected in one or two bits, or uncorrectable. -/
def saggarDecode (w : Nat) : SaggarOut :=
  if saggarSyndrome w = 0 then .clean (w % 2 ^ 64)
  else
    match (onePatterns ++ twoPatterns).find? (fun p => saggarSyndrome (flipBits p w) = 0) with
    | some p => .corrected (flipBits p w % 2 ^ 64) p
    | none => .uncorrectable

/-- R503: the codeword a device's own move writes for a poisoned word: check bits with 64, 65 and 66 inverted. -/
def saggarPoison (data : Nat) : Nat := flipBits [64, 65, 66] (saggarEncode data)

end Sys2Proof.Machine
end

