-- ==== Sys2Proof/Machine/CounterTypes.lean ====
section
/-! DEFINITION. Types of the counter blocks, bandwidth windows and debug mode (R521 to R535). -/
namespace Sys2Proof.Machine

/-- One programmable counter (R523, R525). -/
structure Ctr where
  event : Byte := 0
  filter : BitVec 10 := 0x3FF
  enable : Bool := false
  chain : Bool := false
  freeze : Bool := false
  user : Bool := false
  count : BitVec 48 := 0
  ovf : Bool := false
  deriving DecidableEq, Repr

/-- A die's counter block (R521 to R527). -/
structure CtrBlock where
  cycle : Long := 0
  frozen : Bool := false
  ctrs : Vector Ctr 8 := Vector.replicate 8 {}
  deriving DecidableEq, Repr

/-- Bytes in the running bandwidth window and what the last close latched, in each direction (R531), in bytes and in units of
256 B. -/
structure BwMeter where
  out : Nat := 0
  inn : Nat := 0
  latchOut : Word := 0
  latchIn : Word := 0
  deriving DecidableEq, Repr

/-- Counters, bandwidth windows, debug mode. bwLeft is what is left of the running window, in µs. -/
structure CtrPart where
  blocks : Vector CtrBlock 20 := Vector.replicate 20 {}
  grant : BitVec 20 := 0
  bwCfg : Half := 0x03E8
  bwLeft : Nat := 1000
  portBw : Vector BwMeter 128 := Vector.replicate 128 {}
  meshBw : Vector BwMeter 20 := Vector.replicate 20 {}
  debugMode : Bool := false
  debugEntered : Bool := false
  deniedSeen : Bool := false
  deriving DecidableEq, Repr

end Sys2Proof.Machine
end

