-- ==== Sys2Proof/Machine/Fp.lean ====
section
/-! DEFINITION. Exact dyadic values, rounding to nearest even and the FP32 operations (R26-R28, R35, R36, R108). -/
namespace Sys2Proof.Machine

/-- A value of any format of R26: a NaN, an infinity, or the exact number ±m·2^e (zero keeps its sign). -/
inductive FV where
  | nan
  | inf (neg : Bool)
  | fin (neg : Bool) (m : Nat) (e : Int)
  deriving DecidableEq, Repr

/-- How a format spends its top codes (R26). -/
inductive Specials where
  | ieee     -- Inf and NaN in the all-ones exponent
  | e4m3     -- NaN only, at all ones
  | none     -- neither
  deriving DecidableEq, Repr

/-- A scalar format of R26. -/
structure Fmt where
  ebits : Nat
  mbits : Nat
  bias : Int
  specials : Specials
  deriving DecidableEq, Repr

/-- The scalar formats of R26's table. -/
def fp32 : Fmt := ⟨8, 23, 127, .ieee⟩
def bf16 : Fmt := ⟨8, 7, 127, .ieee⟩
def fp16 : Fmt := ⟨5, 10, 15, .ieee⟩
def e4m3 : Fmt := ⟨4, 3, 7, .e4m3⟩
def e5m2 : Fmt := ⟨5, 2, 15, .ieee⟩
def e2m3 : Fmt := ⟨2, 3, 1, .none⟩
def e3m2 : Fmt := ⟨3, 2, 3, .none⟩
def e2m1 : Fmt := ⟨2, 1, 1, .none⟩
/-- The 21-bit short accumulator of R80. -/
def shortFmt : Fmt := ⟨8, 12, 127, .ieee⟩

/-- Bits of a code of the format. -/
def Fmt.width (f : Fmt) : Nat := 1 + f.ebits + f.mbits

/-- The largest exponent field that holds finite numbers. -/
def Fmt.emaxField (f : Fmt) : Nat :=
  match f.specials with
  | .ieee => 2 ^ f.ebits - 2
  | _ => 2 ^ f.ebits - 1

/-- Magnitude code (sign removed) of the largest finite value, R26's column. -/
def Fmt.maxMag (f : Fmt) : Nat :=
  match f.specials with
  | .ieee => (2 ^ f.ebits - 1) * 2 ^ f.mbits - 1
  | .e4m3 => 2 ^ (f.ebits + f.mbits) - 2
  | .none => 2 ^ (f.ebits + f.mbits) - 1

/-- The exponent of the last place of a subnormal. -/
def Fmt.qmin (f : Fmt) : Int := 1 - f.bias - f.mbits

/-- The canonical NaN of R28, sign clear. Formats without a NaN code have none; 0 stands there. -/
def Fmt.nanCode (f : Fmt) : Nat :=
  match f.specials with
  | .ieee => (2 ^ f.ebits - 1) * 2 ^ f.mbits + 2 ^ (f.mbits - 1)
  | .e4m3 => 2 ^ (f.ebits + f.mbits) - 1
  | .none => 0

/-- The code of +Inf, for formats that have it. -/
def Fmt.infCode (f : Fmt) : Nat := (2 ^ f.ebits - 1) * 2 ^ f.mbits

/-- The sign bit of a code. -/
def Fmt.signBit (f : Fmt) : Nat := 2 ^ (f.ebits + f.mbits)

/-- R26: the value a code stands for. In the 4- and 6-bit formats a negative-zero code reads as zero (R29). -/
def Fmt.decode (f : Fmt) (code : Nat) : FV :=
  let neg := bit code (f.ebits + f.mbits)
  let e := field code (f.ebits + f.mbits - 1) f.mbits
  let m := code % 2 ^ f.mbits
  let num : FV :=
    if e = 0 then .fin (if f.specials = .none && m = 0 then false else neg) m f.qmin
    else .fin neg (2 ^ f.mbits + m) ((e : Int) - 1 + f.qmin)
  match f.specials with
  | .ieee => if e = 2 ^ f.ebits - 1 then (if m = 0 then .inf neg else .nan) else num
  | .e4m3 => if e = 2 ^ f.ebits - 1 && m = 2 ^ f.mbits - 1 then .nan else num
  | .none => num

/-- Number of bits of a magnitude. -/
def bitLen (m : Nat) : Nat := if m = 0 then 0 else Nat.log2 m + 1

/-- Divide by 2^k and round to nearest, ties to even (R35). -/
def shiftRne (m k : Nat) : Nat :=
  let q := m >>> k
  let r := m % 2 ^ k
  if 2 * r > 2 ^ k then q + 1
  else if 2 * r = 2 ^ k && k ≠ 0 then q + q % 2
  else q

/-- Round m·2^e to p bits of precision with a last place no lower than 2^qmin: the units of that place, and its
exponent. -/
def roundTo (p : Nat) (qmin : Int) (m : Nat) (e : Int) : Nat × Int :=
  let q := max (e + (bitLen m : Int) - (p : Int)) qmin
  if q ≤ e then (m <<< (e - q).toNat, q) else (shiftRne m (q - e).toNat, q)

/-- Magnitude code of u units of 2^q, where u has at most mbits+2 bits and q ≥ qmin; it may exceed maxMag. -/
def Fmt.magOf (f : Fmt) (u : Nat) (q : Int) : Nat :=
  if u = 0 then 0
  else (q - f.qmin).toNat * 2 ^ f.mbits + u

/-- Counts of a conversion's events: saturation, infinity and NaN results (R36, R28). -/
structure ConvEv where
  sat : Nat := 0
  inf : Nat := 0
  nan : Nat := 0
  flush : Nat := 0
  deriving DecidableEq, Repr

def ConvEv.add (a b : ConvEv) : ConvEv := ⟨a.sat + b.sat, a.inf + b.inf, a.nan + b.nan, a.flush + b.flush⟩

/-- The events of R50 together. -/
def ConvEv.total (a : ConvEv) : Nat := a.sat + a.inf + a.nan + a.flush

/-- The rounded magnitude code of a finite value, before the overflow rule. -/
def Fmt.roundMag (f : Fmt) (m : Nat) (e : Int) : Nat :=
  let r := roundTo (f.mbits + 1) f.qmin m e
  f.magOf r.1 r.2

/-- Does R36 keep Inf on overflow: FP32 and the short accumulator (R81). -/
def Fmt.overflowsToInf (f : Fmt) : Bool := f.mbits = 23 || f.mbits = 12

/-- R35, R36, R28, R29: a conversion to the format, with its events. An FP32 overflow and an input of ±Inf count an Inf event in place
of a saturation event (DEDUCED, log 128); R50 counts the NaN that an Inf becomes in E4M3 too. -/
def Fmt.convert (f : Fmt) (v : FV) : Nat × ConvEv :=
  match v with
  | .nan => (f.nanCode, { nan := 1 })
  | .inf neg =>
    match f.specials with
    | .ieee => (f.infCode + (if neg then f.signBit else 0), { inf := 1 })
    | .e4m3 => (f.nanCode, { inf := 1, nan := 1 })
    | .none => (f.maxMag + (if neg then f.signBit else 0), { inf := 1 })
  | .fin neg m e =>
    let mag := f.roundMag m e
    let s := if neg then f.signBit else 0
    if mag > f.maxMag then
      if f.overflowsToInf then (f.infCode + s, { inf := 1 }) else (f.maxMag + s, { sat := 1 })
    else if mag = 0 && f.specials = .none then (0, {})
    else (mag + s, {})

/-- The code alone. -/
def Fmt.encode (f : Fmt) (v : FV) : Nat := (f.convert v).1

/-- FP32 codes as words. -/
def toV (x : Word) : FV := fp32.decode x.toNat
/-- Round once to FP32, overflow to Inf (R36). -/
def ofV (v : FV) : Word := BitVec.ofNat 32 (fp32.encode v)
/-- The canonical FP32 NaN (R28). -/
def qnan : Word := 0x7FC00000#32

def isNaN (x : Word) : Bool := toV x == .nan
def isInf (x : Word) : Bool := match toV x with | .inf _ => true | _ => false
def isFinite (x : Word) : Bool := match toV x with | .fin .. => true | _ => false
/-- The sign bit of an FP32 code. -/
def signOf (x : Word) : Bool := x.msb

/-- A finite value as units of 2^q for q no higher than its exponent. -/
def unitsAt (q : Int) (neg : Bool) (m : Nat) (e : Int) : Int :=
  let u : Int := ((m <<< (e - q).toNat : Nat) : Int)
  if neg then -u else u

/-- The exact value ±|i|·2^q; a zero takes the given sign. -/
def finOfInt (i : Int) (q : Int) (zneg : Bool) : FV :=
  if i = 0 then .fin zneg 0 q else .fin (decide (i < 0)) i.natAbs q

def negV : FV → FV
  | .nan => .nan
  | .inf n => .inf (!n)
  | .fin n m e => .fin (!n) m e

/-- The exact sum. A zero sum is -0 only from two -0 operands, as round to nearest gives. -/
def addV : FV → FV → FV
  | .nan, _ => .nan
  | _, .nan => .nan
  | .inf a, .inf b => if a = b then .inf a else .nan
  | .inf a, _ => .inf a
  | _, .inf b => .inf b
  | .fin a m e, .fin b n f =>
    let q := min e f
    finOfInt (unitsAt q a m e + unitsAt q b n f) q (m = 0 && n = 0 && a && b)

/-- The exact product; zero times infinity is NaN (R76). -/
def mulV : FV → FV → FV
  | .nan, _ => .nan
  | _, .nan => .nan
  | .inf a, .inf b => .inf (a != b)
  | .inf a, .fin b n _ => if n = 0 then .nan else .inf (a != b)
  | .fin a m _, .inf b => if m = 0 then .nan else .inf (a != b)
  | .fin a m e, .fin b n f => .fin (a != b) (m * n) (e + f)

/-- Compare two values that are not NaN, -0 equal to +0. -/
def ltV : FV → FV → Bool
  | .nan, _ => false
  | _, .nan => false
  | .inf a, .inf b => a && !b
  | .inf a, .fin .. => a
  | .fin .., .inf b => !b
  | .fin a m e, .fin b n f =>
    let q := min e f
    decide (unitsAt q a m e < unitsAt q b n f)

def eqV : FV → FV → Bool
  | .nan, _ => false
  | _, .nan => false
  | .inf a, .inf b => a == b
  | .inf _, .fin .. => false
  | .fin .., .inf _ => false
  | .fin a m e, .fin b n f =>
    let q := min e f
    decide (unitsAt q a m e = unitsAt q b n f)

def isZeroV : FV → Bool
  | .fin _ m _ => m == 0
  | _ => false

def absV : FV → FV
  | .nan => .nan
  | .inf _ => .inf false
  | .fin _ m e => .fin false m e

/-- The integer square root, bit by bit: r grows from the top bit down. -/
def isqrtGo (n : Nat) : Nat → Nat → Nat
  | 0, r => r
  | k + 1, r =>
    let t := r + 2 ^ k
    if t * t ≤ n then isqrtGo n k t else isqrtGo n k r
def isqrt (n : Nat) : Nat := isqrtGo n (bitLen n / 2 + 1) 0

/-- The quotient to well over FP32's precision with a sticky last bit, so that rounding it once to FP32 is correct. -/
def divV : FV → FV → FV
  | .nan, _ => .nan
  | _, .nan => .nan
  | .inf _, .inf _ => .nan
  | .inf a, .fin b _ _ => .inf (a != b)
  | .fin a _ _, .inf b => .fin (a != b) 0 0
  | .fin a m e, .fin b n f =>
    if n = 0 then (if m = 0 then .nan else .inf (a != b))
    else
      let k := bitLen n + 40
      let q := (m <<< k) / n
      let r := (m <<< k) % n
      .fin (a != b) (2 * q + (if r = 0 then 0 else 1)) (e - f - k - 1)

/-- The square root likewise (R113: -0 gives -0, a negative gives NaN). -/
def sqrtV : FV → FV
  | .nan => .nan
  | .inf neg => if neg then .nan else .inf false
  | .fin neg m e =>
    if m = 0 then .fin neg 0 0
    else if neg then .nan
    else
      let odd := e % 2
      let m' := (if odd = 0 then m else 2 * m) <<< 120
      let e' := (if odd = 0 then e else e - 1) - 120
      let r := isqrt m'
      .fin false (2 * r + (if r * r = m' then 0 else 1)) (e' / 2 - 1)

-- FP32 operations of R108: each rounds once, to nearest even.
def fadd (a b : Word) : Word := ofV (addV (toV a) (toV b))
def fneg (a : Word) : Word := ofV (negV (toV a))
def fsub (a b : Word) : Word := ofV (addV (toV a) (negV (toV b)))
def fmul (a b : Word) : Word := ofV (mulV (toV a) (toV b))
/-- FMA rounds once on the exact a×b+c. -/
def ffma (a b c : Word) : Word := ofV (addV (mulV (toV a) (toV b)) (toV c))
def fdiv (a b : Word) : Word := ofV (divV (toV a) (toV b))
def fsqrt (a : Word) : Word := ofV (sqrtV (toV a))
def fabs (a : Word) : Word := ofV (absV (toV a))

/-- The order of MIN and MAX: -0 below +0 (R108). -/
def fless (a b : Word) : Bool :=
  ltV (toV a) (toV b) || (isZeroV (toV a) && isZeroV (toV b) && signOf a && !signOf b)
def fmax (a b : Word) : Word := if isNaN a || isNaN b then qnan else if fless a b then b else a
def fmin (a b : Word) : Word := if isNaN a || isNaN b then qnan else if fless b a then b else a

/-- A natural number exactly or rounded once to FP32. -/
def natF (n : Nat) : Word := ofV (.fin false n 0)
def one32 : Word := 0x3F800000#32
def ninf : Word := 0xFF800000#32
def pinf : Word := 0x7F800000#32

/-- The IEEE order of finite and infinite FP32 codes as integers: ascending codes for ascending values. -/
def orderOf (x : Word) : Int := if x.msb then -((x.toNat % 2 ^ 31 : Nat) : Int) else (x.toNat : Int)

end Sys2Proof.Machine
end

