-- ==== Sys2Proof/Machine/Quant.lean ====
section
/-! DEFINITION. Formats of buffers and blocks: decoding, scale choice, quantisation, outliers, rotation, stochastic
rounding (R29-R48, R70, R71). -/
namespace Sys2Proof.Machine

/-- Buffer formats in the codes of R196. -/
inductive BFmt where
  | fp32 | bf16 | fp16 | fp8e4m3 | fp8e5m2 | mxfp8e4m3 | mxfp8e5m2 | mxfp6e2m3 | mxfp6e3m2 | mxfp4 | gz4
  deriving DecidableEq, Repr

/-- R196's format codes. -/
def BFmt.ofCode : Nat → Option BFmt
  | 0 => some .fp32 | 1 => some .bf16 | 2 => some .fp16 | 3 => some .fp8e4m3 | 4 => some .fp8e5m2
  | 5 => some .mxfp8e4m3 | 6 => some .mxfp8e5m2 | 7 => some .mxfp6e2m3 | 8 => some .mxfp6e3m2
  | 9 => some .mxfp4 | 10 => some .gz4 | _ => none

/-- The scalar or element format. -/
def BFmt.elem : BFmt → Fmt
  | .fp32 => Machine.fp32 | .bf16 => Machine.bf16 | .fp16 => Machine.fp16
  | .fp8e4m3 | .mxfp8e4m3 => e4m3 | .fp8e5m2 | .mxfp8e5m2 => e5m2
  | .mxfp6e2m3 => e2m3 | .mxfp6e3m2 => e3m2 | .mxfp4 | .gz4 => e2m1

/-- Whether the format is stored in blocks of 32 with a scale (R30). -/
def BFmt.isBlock : BFmt → Bool
  | .mxfp8e4m3 | .mxfp8e5m2 | .mxfp6e2m3 | .mxfp6e3m2 | .mxfp4 | .gz4 => true
  | _ => false

/-- Element width in bits. -/
def BFmt.bits (f : BFmt) : Nat := f.elem.width

/-- Element bytes per block of 32, R30's table; for a scalar format, bytes of 32 elements. -/
def BFmt.blockBytes (f : BFmt) : Nat := 32 * f.bits / 8

/-- Bytes of one element of a scalar format. -/
def BFmt.elemBytes (f : BFmt) : Nat := f.bits / 8

/-- A wide scalar format of R57 and R552. -/
def BFmt.isWide : BFmt → Bool
  | .fp32 | .bf16 | .fp16 => true
  | _ => false

/-- Widths rank of R552: 4, 6, 8, 16, 32 bits. -/
def BFmt.widthRank (f : BFmt) : Nat := f.bits

/-- R32: an E8M0 scale. -/
def e8m0 (c : Nat) : FV := if c = 0xFF then .nan else .fin false 1 ((c : Int) - 127)

/-- R33: a GZ4 scale; none for a zero block. -/
def gz4Scale (c : Nat) : Option FV :=
  if c = 0 then none
  else if c < 4 || c = 0xFF then some .nan
  else some (.fin false (4 + c % 4) ((c / 4 : Nat) - 31 - 2))

/-- R34: a GZ4 side record. -/
structure Side where
  val0 : Nat := 0
  val1 : Nat := 0
  idx0 : Nat := 0
  idx1 : Nat := 0
  count : Nat := 0
  rsv : Nat := 0
  deriving DecidableEq, Repr

/-- R34's bit layout. -/
def Side.ofNat (x : Nat) : Side :=
  { val0 := field x 15 0, val1 := field x 31 16, idx0 := field x 36 32, idx1 := field x 41 37,
    count := field x 43 42, rsv := field x 47 44 }

def Side.toNat (s : Side) : Nat :=
  s.val0 + s.val1 <<< 16 + s.idx0 <<< 32 + s.idx1 <<< 37 + s.count <<< 42 + s.rsv <<< 44

/-- R34: a record that makes its block decode to NaN: COUNT 3, or two outliers out of order. -/
def Side.invalid (s : Side) : Bool := s.count = 3 || (s.count = 2 && decide (s.idx1 ≤ s.idx0))

/-- One stored block: element codes, scale byte, side record if the tensor has a side stream. -/
structure Block where
  codes : List Nat
  scale : Nat
  side : Option Side := none
  deriving DecidableEq, Repr

/-- R31: element codes of a block's element bytes, packed from bit 0 upward. -/
def unpackElems (f : BFmt) (bs : List Byte) : List Nat :=
  let x := leNat bs
  (List.range 32).map fun i => field x ((i + 1) * f.bits - 1) (i * f.bits)

/-- R31: the reverse. -/
def packElems (f : BFmt) (codes : List Nat) : List Byte :=
  leBytes f.blockBytes (foldIdx (fun i acc c => acc + c <<< (i * f.bits)) 0 codes)

/-- R30, R32-R34: the 32 exact values of a stored block, and whether a NaN block, an invalid scale or an invalid side
record was read (R49). -/
def Block.decode (f : BFmt) (b : Block) : List FV :=
  let scale : Option FV := if f = .gz4 then gz4Scale b.scale else some (e8m0 b.scale)
  let main (c : Nat) : FV :=
    match scale with
    | none => .fin false 0 0
    | some s => mulV (f.elem.decode c) s
  let vals := b.codes.map main
  match b.side with
  | none => if scale = some .nan then b.codes.map (fun _ => .nan) else vals
  | some sd =>
    if scale = some .nan || sd.invalid then b.codes.map (fun _ => .nan)
    else
      let v1 := if sd.count ≥ 1 then vals.set sd.idx0 (bf16.decode sd.val0) else vals
      if sd.count ≥ 2 then v1.set sd.idx1 (bf16.decode sd.val1) else v1

/-- a·2^k exactly. -/
def scaleV (v : FV) (k : Int) : FV :=
  match v with
  | .fin n m e => .fin n m (e + k)
  | w => w

/-- elem_max of R38 as a value, from the format's largest finite code. -/
def elemMax (f : BFmt) : FV := f.elem.decode f.elem.maxMag
/-- elem_emax of R38. -/
def elemEmax : BFmt → Int
  | .mxfp4 | .gz4 | .mxfp6e2m3 => 2
  | .mxfp6e3m2 => 4
  | .mxfp8e4m3 | .fp8e4m3 => 8
  | _ => 15

/-- floor(log2 |v|) of a non-zero finite value. -/
def floorLog2V : FV → Int
  | .fin _ m e => (Nat.log2 m : Int) + e
  | _ => 0

/-- The first GZ4 scale code from c on whose largest element reaches amax (R38); fuel covers 0x04 to 0xFE. -/
def gz4Pick (amax : FV) : Nat → Nat → Option Nat
  | 0, _ => none
  | k + 1, c =>
    match gz4Scale c with
    | some s => if !(ltV (mulV (.fin false 6 0) s) amax) then some c else gz4Pick amax k (c + 1)
    | none => gz4Pick amax k (c + 1)

/-- R38: the scale code, and whether the block saturates. floorRule is MX_SCALE_RULE; amax the largest magnitude of the
elements that are not outliers. -/
def selectScale (f : BFmt) (floorRule : Bool) (anyNonFinite : Bool) (amax : FV) : Nat × Bool :=
  if anyNonFinite then (0xFF, false)
  else if isZeroV amax then (0, false)
  else if f = .gz4 then
    match gz4Pick amax 251 4 with
    | some c => (c, false)
    | none => (0xFE, true)
  else
    let l := floorLog2V amax
    let e0 : Int := l - elemEmax f
    let e : Int :=
      if floorRule then e0
      else if !(ltV (scaleV (elemMax f) e0) amax) then e0 else e0 + 1
    if e > 127 then (254, true)
    else if e < -127 then (0, false)
    else ((e + 127).toNat, false)

/-- A non-NaN scale as a value; a zero block's is zero. -/
def scaleOf (f : BFmt) (c : Nat) : FV :=
  if f = .gz4 then (gz4Scale c).getD (.fin false 0 0) else e8m0 c

/-- R39: the element code of a value under a scale, by comparing |x| with the scale times each midpoint, ties to the
even code; the flag says the value lay beyond elem_max times the scale. A zero keeps the
sign in the 8-bit formats alone (R27, R29). Dividing by a scale that is not a power of two
is never done: midpoints are compared exactly. -/
def roundElem (f : BFmt) (s x : FV) : Nat × Bool :=
  let neg := match x with | .fin n _ _ => n | .inf n => n | .nan => false
  let lims := List.range (f.elem.maxMag)
  -- midpoint between codes c and c+1, times two, is the sum of their magnitudes
  let mag := lims.foldl (fun best c =>
    let mid2 := mulV s (addV (f.elem.decode c) (f.elem.decode (c + 1)))
    let x2 := scaleV (absV x) 1
    if ltV mid2 x2 || (eqV mid2 x2 && c % 2 = 1) then c + 1 else best) 0
  let beyond := ltV (mulV s (elemMax f)) (absV x)
  (if mag = 0 && f.elem.specials = .none then 0 else mag + (if neg then f.elem.signBit else 0), beyond)

/-- A quantised block with its events. -/
structure QBlock where
  block : Block
  ev : ConvEv
  deriving DecidableEq, Repr

/-- R47: indices of the outliers among valid elements, ascending; ratio is OUTLIER_RATIO in eighths, at least 0x10 (R52).
valid gives the elements that take part. -/
def outliers (ratio : Nat) (valid : List Bool) (xs : List FV) : List Nat :=
  let cand := (indexed (xs.zip valid)).filterMap fun p => if p.2.2 then some (p.1, p.2.1) else none
  let srt := sortBy (fun a b => !(ltV (absV a.2) (absV b.2))) cand
  match srt with
  | a1 :: a2 :: a3 :: _ =>
    let lim := mulV (.fin false (max ratio 0x10) (-3)) (absV a3.2)
    let o1 := if ltV lim (absV a1.2) then [a1.1] else []
    let o2 := if ltV lim (absV a2.2) then [a2.1] else []
    sortBy (fun a b => decide (a ≤ b)) (o1 ++ o2)
  | _ => []

/-- R38-R43, R47: quantise 32 values into a block. outl says GZ4 with outliers enabled; invalid elements (beyond the
extent) enter as +0 and take no part. -/
def quantBlock (f : BFmt) (outl floorRule : Bool) (ratio : Nat) (valid : List Bool) (xs0 : List FV) : QBlock :=
  let xs := xs0.zipWith (fun x v => if v then x else .fin false 0 0) valid
  let bad := xs.any fun x => match x with | .fin .. => false | _ => true
  let outs := if outl && !bad then outliers ratio valid xs else []
  let main := (indexed xs).map fun p => if outs.contains p.1 then FV.fin false 0 0 else p.2
  let amax := main.foldl (fun a x => if ltV a (absV x) then absV x else a) (.fin false 0 0)
  let sc := selectScale f floorRule bad amax
  if bad then
    { block := { codes := xs.map (fun _ => 0), scale := 0xFF, side := if outl then some {} else none },
      ev := { nan := 1 } }
  else
    let s := scaleOf f sc.1
    let es := if isZeroV amax then main.map (fun _ => (0, false)) else main.map (roundElem f s)
    let side : Option Side :=
      if outl then
        let g (k : Nat) : Nat × Nat :=
          match outs[k]? with
          | some i => (bf16.encode (xs.getD i .nan), i)
          | none => (0, 0)
        some { val0 := (g 0).1, idx0 := (g 0).2, val1 := (g 1).1, idx1 := (g 1).2, count := outs.length }
      else none
    let clamped := (es.filter (·.2)).length
    let sideSat := sumNat (outs.map fun i => (bf16.convert (xs.getD i .nan)).2.sat)
    let satEv := (if sc.2 then 1 + clamped else 0) + sideSat
    let anyIn := xs.any fun x => !isZeroV x
    let sideZero := outs.all fun i => bf16.encode (xs.getD i .nan) % 0x8000 = 0
    let allZero := es.all (fun p => p.1 % f.elem.signBit = 0) && sideZero
    { block := { codes := es.map (·.1), scale := sc.1, side := side },
      ev := { sat := satEv, flush := if anyIn && allZero then 1 else 0 } }

/-- R45: the splitmix64 function. -/
def splitmix64 (z0 : BitVec 64) : BitVec 64 :=
  let z := z0 + 0x9E3779B97F4A7C15#64
  let z := (z ^^^ (z >>> 30)) * 0xBF58476D1CE4E5B9#64
  let z := (z ^^^ (z >>> 27)) * 0x94D049BB133111EB#64
  z ^^^ (z >>> 31)

/-- R45: is the sign of position i along K negative. -/
def rotNeg (seed : BitVec 64) (i : Nat) : Bool := (splitmix64 (seed + BitVec.ofNat 64 i)).msb

/-- R44: the rotation group size of a width: its largest power-of-two divisor, capped at 8,192. -/
def rotGroup (w : Nat) : Nat :=
  (List.range 14).foldl (fun g k => if w % 2 ^ k = 0 && w ≠ 0 then 2 ^ k else g) 1

/-- One stage of R46's fast Walsh-Hadamard transform at distance 2^k, each sum rounded to FP32. -/
def whtStage (k : Nat) (xs : List Word) : List Word :=
  (indexed xs).map fun p =>
    let i := p.1
    if bit i k then fsub (xs.getD (i - 2 ^ k) 0) p.2 else fadd p.2 (xs.getD (i + 2 ^ k) 0)

/-- R46: y = H·(d ⊙ x) over one group whose first position along K is base. -/
def rotate (seed : BitVec 64) (base : Nat) (xs : List Word) : List Word :=
  let d := (indexed xs).map fun p => if rotNeg seed (base + p.1) then fneg p.2 else p.2
  (List.range (Nat.log2 xs.length)).foldl (fun acc k => whtStage k acc) d

/-- R37: the 16-bit random value for element n of tile t under a launch seed. -/
def srRandom (seed : BitVec 64) (t n : Nat) : Nat :=
  (splitmix64 (seed + BitVec.ofNat 64 (t <<< 40) + BitVec.ofNat 64 n)).toNat % 2 ^ 16

/-- R36: stochastic rounding of a magnitude by 16 discarded bits against r, then the code with R36's overflow. -/
def Fmt.convertSr (f : Fmt) (r : Nat) (v : FV) : Nat × ConvEv :=
  match v with
  | .fin neg m e =>
    let q := max (e + (bitLen m : Int) - ((f.mbits + 1 : Nat) : Int)) f.qmin
    if q ≤ e then f.convert v
    else
      let d := (q - e).toNat
      let u := m >>> d
      let rest := m % 2 ^ d
      let frac := if d ≥ 16 then rest >>> (d - 16) else rest <<< (16 - d)
      let u' := if r < frac then u + 1 else u
      let mag := f.magOf u' q
      let s := if neg then f.signBit else 0
      if mag > f.maxMag then (f.maxMag + s, { sat := 1 })
      else if mag = 0 && f.specials = .none then (0, {})
      else (mag + s, {})
  | w => f.convert w

/-- R70, R71: quantise 32 gradient values into an MXFP8 block: the scale of R38, each element divided by its power-of-two
scale exactly and rounded stochastically with the values rs, or to nearest even when GRAD_SR is 0. -/
def quantGrad (f : BFmt) (sr floorRule : Bool) (rs : List Nat) (xs : List FV) : QBlock :=
  if !sr then quantBlock f false floorRule 0x20 (xs.map fun _ => true) xs
  else
    let bad := xs.any fun x => match x with | .fin .. => false | _ => true
    let amax := xs.foldl (fun a x => if ltV a (absV x) then absV x else a) (.fin false 0 0)
    let sc := selectScale f floorRule bad amax
    if bad then { block := { codes := xs.map (fun _ => 0), scale := 0xFF }, ev := { nan := 1 } }
    else
      let k : Int := (sc.1 : Int) - 127
      let es := if isZeroV amax then xs.map (fun _ => (0, ({} : ConvEv))) else xs.zipWith (fun x r => f.elem.convertSr r (scaleV x (-k))) rs
      let clamped := (es.filter fun p => p.2.sat ≠ 0).length
      let allZero := es.all fun p => p.1 % f.elem.signBit = 0
      { block := { codes := es.map (·.1), scale := sc.1 },
        ev := { sat := if sc.2 then 1 + clamped else 0,
                flush := if (xs.any fun x => !isZeroV x) && allZero then 1 else 0 } }

end Sys2Proof.Machine
end

