-- ==== Sys2Proof/Machine/Ctx.lean ====
section
/-! DEFINITION. Context pages: pools, the context table, page tables, frame preparation, fork, trim, destroy (R167 to R191).
-/
namespace Sys2Proof.Machine

/-- A defined page pool (R170, R171): refs lists the frames whose reference count is not zero, rising. -/
structure Pool where
  frameKiB : Nat
  frameBase : Nat
  frameLen : Nat
  tabBase : Nat
  tabLen : Nat
  pinned : Bool
  refs : List (Nat × Nat) := []
  deriving DecidableEq, Repr

/-- One of the 16 pool places with the sticky bit of HUB_POOLn_STATUS (R193). -/
structure PoolSlot where
  pool : Option Pool := none
  emptySeen : Bool := false
  deriving DecidableEq, Repr

/-- A context's entry (R173) with its page table as mapped entries (layer, group, page) to FRAME (R176), and the 2 MiB unit
it last took a frame from (R190). -/
structure Ctx where
  num : Nat
  pool : Fin 16
  layers : Nat
  groups : Nat
  hdCode : Nat
  fmtCode : Nat
  capacity : Nat
  length : Nat := 0
  table : List ((Nat × Nat × Nat) × Nat) := []
  lastUnit : Option Nat := none
  deriving DecidableEq, Repr

/-- An operation the context arbiter holds (R188): who carries it, the context, whether it writes, and whether it has been
taken. owner is a command id for FORK, TRIM and DESTROY and a launch id for launches. -/
structure ArbOp where
  launch : Bool
  owner : Nat
  ctx : Nat
  write : Bool
  taken : Bool
  deriving DecidableEq, Repr

/-- The hub's context state. destroying lists contexts whose CTX_DESTROY the arbiter has taken. -/
structure CtxPart where
  pools : Vector PoolSlot 16 := Vector.replicate 16 {}
  ctxs : List Ctx := []
  peak : Nat := 0
  tableFullSeen : Bool := false
  forcedSeen : Bool := false
  arb : List ArbOp := []
  destroying : List Nat := []
  deriving DecidableEq, Repr

/-- R152's head dimensions by code, none for the reserved codes. -/
def headDim : Nat → Option Nat
  | 0 => some 64 | 1 => some 96 | 2 => some 128 | 3 => some 192 | 4 => some 256 | _ => none

/-- R168's context formats by code: the buffer format and whether side records exist. -/
def ctxFmt : Nat → Option (BFmt × Bool)
  | 0 => some (.bf16, false) | 1 => some (.fp16, false)
  | 2 => some (.mxfp8e4m3, false) | 3 => some (.mxfp8e5m2, false)
  | 4 => some (.mxfp6e2m3, false) | 5 => some (.mxfp6e3m2, false)
  | 6 => some (.mxfp4, false) | 7 => some (.gz4, false) | 8 => some (.gz4, true)
  | _ => none

/-- Bytes of one token row in the element, scale and side streams of a frame (R167). -/
def rowBytes (f : BFmt) (side : Bool) (d : Nat) : List Nat :=
  [d * f.bits / 8, if f.isBlock then d / 32 else 0, if side then 6 * (d / 32) else 0]

/-- The six streams of a frame as (offset, bytes per row), K then V (R167). -/
def frameStreams (f : BFmt) (side : Bool) (d : Nat) : List (Nat × Nat) :=
  ((rowBytes f side d ++ rowBytes f side d).foldl
    (fun (p : Nat × List (Nat × Nat)) w => (p.1 + 128 * w, p.2 ++ [(p.1, w)])) (0, [])).2

/-- R168: frame size of a context format in KiB. -/
def frameKiBOf (f : BFmt) (side : Bool) (d : Nat) : Nat :=
  cdiv (sumNat ((frameStreams f side d).map fun p => 128 * p.2)) 1024

/-- The streams of a context's frames; none for codes out of range. -/
def Ctx.streams (c : Ctx) : List (Nat × Nat) :=
  match headDim c.hdCode, ctxFmt c.fmtCode with
  | some d, some (f, s) => frameStreams f s d
  | _, _ => []

/-- R169: frames in each 2 MiB unit. -/
def Pool.perUnit (p : Pool) : Nat := 2048 / p.frameKiB
/-- Frames of the pool. -/
def Pool.frames (p : Pool) : Nat := p.frameLen / 0x200000 * p.perUnit
/-- Address of a frame (R169). -/
def Pool.da (p : Pool) (f : Nat) : Nat :=
  p.frameBase + f / p.perUnit * 0x200000 + f % p.perUnit * (p.frameKiB * 1024)
/-- The reference count of a frame. -/
def Pool.count (p : Pool) (f : Nat) : Nat :=
  match p.refs.find? (fun r => r.1 == f) with
  | some r => r.2
  | none => 0
/-- R193: frames on the free list. -/
def Pool.free (p : Pool) : Nat := p.frames - p.refs.length
/-- R171: bytes of metadata of a pool with n frames. -/
def poolMeta (n : Nat) : Nat := roundUp (8 * n) 0x200000

/-- Set a frame's count, keeping the list rising and free of zero counts. -/
def setCount : List (Nat × Nat) → Nat → Nat → List (Nat × Nat)
  | [], f, n => if n = 0 then [] else [(f, n)]
  | (g, c) :: r, f, n =>
    if g < f then (g, c) :: setCount r f n
    else if g = f then (if n = 0 then r else (f, n) :: r)
    else (if n = 0 then (g, c) :: r else (f, n) :: (g, c) :: r)

def Pool.addRef (p : Pool) (f : Nat) : Pool := { p with refs := setCount p.refs f (p.count f + 1) }
def Pool.dropRef (p : Pool) (f : Nat) : Pool := { p with refs := setCount p.refs f (p.count f - 1) }

/-- The frame mapped at a page. -/
def Ctx.frameAt (c : Ctx) (y k p : Nat) : Option Nat :=
  match c.table.find? (fun e => e.1 == (y, k, p)) with
  | some e => some e.2
  | none => none

/-- The index of a page-table entry (R176), by which entries are kept rising. -/
def Ctx.index (c : Ctx) (key : Nat × Nat × Nat) : Nat := (key.1 * c.groups + key.2.1) * c.capacity + key.2.2

/-- Map a page to a frame. -/
def Ctx.map (c : Ctx) (key : Nat × Nat × Nat) (f : Nat) : Ctx :=
  { c with table := insertBy (fun a b => decide (c.index a.1 ≤ c.index b.1)) (key, f)
                      (c.table.filter fun e => e.1 != key) }

/-- The (layer, group) pairs of a context. -/
def Ctx.heads (c : Ctx) : List (Nat × Nat) :=
  (List.range c.layers).flatMap fun y => (List.range c.groups).map fun k => (y, k)

/-- What the context operations work on: memory, the context state, the count of device choices made. -/
structure CtxEnv where
  mem : Mem
  cx : CtxPart
  ctr : Nat
  deriving DecidableEq, Repr

def CtxPart.poolOf (x : CtxPart) (n : Fin 16) : Option Pool := (x.pools.get n).pool
def CtxPart.setPool (x : CtxPart) (n : Fin 16) (p : Option Pool) : CtxPart :=
  { x with pools := x.pools.set n { x.pools.get n with pool := p } }
def CtxPart.markEmpty (x : CtxPart) (n : Fin 16) : CtxPart :=
  { x with pools := x.pools.set n { x.pools.get n with emptySeen := true } }
def CtxPart.find (x : CtxPart) (n : Nat) : Option Ctx := x.ctxs.find? fun c => c.num == n
def CtxPart.put (x : CtxPart) (c : Ctx) : CtxPart :=
  { x with ctxs := insertBy (fun a b => decide (a.num ≤ b.num)) c (x.ctxs.filter fun e => e.num != c.num) }

/-- R190: the free frames among which the device may choose: the first class of its list that is not empty. inStack says
whether the unit that holds an address lies in stacked DRAM. -/
def frameClass (p : Pool) (last : Option Nat) (inStack : Nat → Bool) : List Nat :=
  let free := (List.range p.frames).filter fun f => p.count f = 0
  let unitOf (f : Nat) : Nat := f / p.perUnit
  let c1 := free.filter fun f => last == some (unitOf f)
  let c2 := free.filter fun f => inStack (p.da f) && !(p.refs.any fun r => unitOf r.1 == unitOf f)
  let c3 := free.filter fun f => inStack (p.da f)
  if !c1.isEmpty then c1 else if !c2.isEmpty then c2 else if !c3.isEmpty then c3 else free

/-- R178, R190: take a free frame for a context, clear it and map it. Within the class the choice is the device's, a free
value. -/
def newFrame (inStack : Nat → Bool) (c : Ctx) (key : Nat × Nat × Nat) (e : CtxEnv) : CtxEnv × Ctx × Nat :=
  match e.cx.poolOf c.pool with
  | none => (e, c, 0)
  | some p =>
    let cls := frameClass p c.lastUnit inStack
    let f := cls.getD (Config.freeChoice e.ctr % cls.length) 0
    let c' := { c.map key f with lastUnit := some (f / p.perUnit) }
    ({ e with mem := (e.mem.clear (p.da f) (p.frameKiB * 1024)).unpoisonWhole (p.da f) (p.frameKiB * 1024),
              cx := (e.cx.setPool c.pool (some (p.addRef f))).put c', ctr := e.ctr + 1 }, c', f)

/-- Clear rows r0 and above of a frame (R180, R186). -/
def clearRows (m : Mem) (da : Nat) (streams : List (Nat × Nat)) (r0 : Nat) : Mem :=
  streams.foldl (fun acc s => (acc.clear (da + s.1 + r0 * s.2) ((128 - r0) * s.2)).unpoisonWhole (da + s.1 + r0 * s.2) ((128 - r0) * s.2)) m

/-- Copy rows below r of a frame into a cleared one, poison with them (R180, R184, R503). -/
def copyRows (m : Mem) (src dst : Nat) (streams : List (Nat × Nat)) (r : Nat) : Mem :=
  streams.foldl (fun acc s => acc.move (src + s.1) (dst + s.1) (r * s.2)) m

/-- Give every row range of a page undefined contents (R181 after a cancel). -/
def forgetRows (m : Mem) (da : Nat) (streams : List (Nat × Nat)) (r0 r1 : Nat) : Mem :=
  streams.foldl (fun acc s => acc.forget (da + s.1 + r0 * s.2) ((r1 - r0) * s.2)) m

/-- Drop a page's reference and its mapping. -/
def unmapPage (n : Nat) (key : Nat × Nat × Nat) (x : CtxPart) : CtxPart :=
  match x.find n with
  | none => x
  | some c =>
    match c.frameAt key.1 key.2.1 key.2.2, x.poolOf c.pool with
    | some f, some p =>
      (x.setPool c.pool (some (p.dropRef f))).put { c with table := c.table.filter fun e => e.1 != key }
    | _, _ => x

/-- The pages that cover positions [a, b). -/
def pagesOf (a b : Nat) : List Nat := if a < b then (List.range (cdiv b 128 - a / 128)).map (· + a / 128) else []

/-- The pages a write of [w0, w1) prepares (R180). -/
def preparePages (len w0 w1 : Nat) : List Nat :=
  if w0 < w1 then pagesOf (min w0 (max len w0)) w1 else []

/-- R181: what a launch's preparation takes so far: frames needed, pages that have theirs as (context, layer, group, page), and frames
that lost a reference to a copy. -/
structure FrameNeed where
  frames : Nat := 0
  done : List (Nat × Nat × Nat × Nat) := []
  left : List Nat := []
  deriving DecidableEq, Repr

/-- One page more: it needs a frame where it has none, or where its frame is still shared. -/
def FrameNeed.page (p : Pool) (c : Ctx) (key : Nat × Nat × Nat) (x : FrameNeed) : FrameNeed :=
  if x.done.contains (c.num, key) then x
  else
    match c.frameAt key.1 key.2.1 key.2.2 with
    | none => { x with frames := x.frames + 1, done := (c.num, key) :: x.done }
    | some f =>
      if 1 < p.count f - x.left.count f then { frames := x.frames + 1, done := (c.num, key) :: x.done, left := f :: x.left } else x

/-- The pages of an entry in every layer and group. -/
def FrameNeed.pages (p : Pool) (c : Ctx) (pgs : List Nat) (x : FrameNeed) : FrameNeed :=
  pgs.foldl (fun x pg => c.heads.foldl (fun x h => x.page p c (h.1, h.2, pg)) x) x

/-- R180: prepare one page of one layer and group. The flag says a copy on write was made. -/
def preparePage (inStack : Nat → Bool) (n : Nat) (len : Nat) (key : Nat × Nat × Nat) (e : CtxEnv) : CtxEnv :=
  match e.cx.find n with
  | none => e
  | some c =>
    match e.cx.poolOf c.pool with
    | none => e
    | some p =>
      let keep := min 128 (len - 128 * key.2.2)
      match c.frameAt key.1 key.2.1 key.2.2 with
      | none => (newFrame inStack c key e).1
      | some f =>
        if p.count f > 1 then
          let r := newFrame inStack c key e
          match r.1.cx.poolOf c.pool with
          | none => r.1
          | some p' =>
            { r.1 with mem := copyRows r.1.mem (p.da f) (p.da r.2.2) c.streams keep,
                       cx := r.1.cx.setPool c.pool (some (p'.dropRef f)) }
        else { e with mem := clearRows e.mem (p.da f) c.streams keep }

/-- R180: prepare pages in every layer and group of a context. -/
def prepareCtx (inStack : Nat → Bool) (n len : Nat) (pages : List Nat) (e : CtxEnv) : CtxEnv :=
  match e.cx.find n with
  | none => e
  | some c =>
    pages.foldl (fun acc pg => c.heads.foldl (fun acc h => preparePage inStack n len (h.1, h.2, pg) acc) acc) e

/-- Bytes of a page table (R176). -/
def tableBytes (layers groups cap : Nat) : Nat := 4 * (layers * groups * cap)

/-- R174, R183: does the pool's table region have room for another page table. -/
def tableRoom (x : CtxPart) (n : Fin 16) (p : Pool) (need : Nat) : Bool :=
  let used := sumNat ((x.ctxs.filter fun c => c.pool == n).map fun c => tableBytes c.layers c.groups c.capacity)
  decide (poolMeta p.frames + used + need ≤ p.tabLen)

/-- R176: the word of a page table's entry: FRAME, and MAPPED in bit 31. -/
def pageEntry : Option Nat → Nat
  | some f => f % 2 ^ 28 + 2 ^ 31
  | none => 0

/-- Where a context's page table begins in the table region, after the metadata: tables lie one after another by context number
(DESIGN CHOICE, log 141). -/
def CtxPart.tableOff (x : CtxPart) (p : Pool) (c : Ctx) : Nat :=
  poolMeta p.frames + sumNat ((x.ctxs.filter fun e => e.pool == c.pool && decide (e.num < c.num)).map fun e =>
    tableBytes e.layers e.groups e.capacity)

/-- A page table in memory (R176): zeros, and the entries of the pages that are mapped. -/
def Ctx.putTable (a : Nat) (c : Ctx) (m : Mem) : Mem :=
  let n := tableBytes c.layers c.groups c.capacity
  (c.table.filter fun e => decide (4 * c.index e.1 + 4 ≤ n)).foldl (fun m e => m.writeBytes (a + 4 * c.index e.1) (leBytes 4 (pageEntry (some e.2))))
    ((m.clear a n).unpoisonWhole a n)

/-- The page tables of a pool's contexts in its table region. -/
def CtxPart.putTables (x : CtxPart) (n : Fin 16) (m : Mem) : Mem :=
  match x.poolOf n with
  | none => m
  | some p =>
    (x.ctxs.filter fun c => c.pool == n).foldl (fun m c =>
      if x.tableOff p c + tableBytes c.layers c.groups c.capacity ≤ p.tabLen then c.putTable (p.tabBase + x.tableOff p c) m else m) m

/-- The number the device gives a new context: free among those not in use (R174). -/
def newCtxNum (x : CtxPart) (ctr : Nat) : Nat :=
  let free := (List.range 16384).filter fun n => !(x.ctxs.any fun c => c.num == n)
  free.getD (Config.freeChoice ctr % free.length) 0

/-- Track one more context, with the peak of R192. -/
def CtxPart.add (x : CtxPart) (c : Ctx) : CtxPart :=
  let x' := x.put c
  { x' with peak := max x'.peak x'.ctxs.length }

/-- R174: the checks in order. -/
def ctxCreateCheck (x : CtxPart) (pool : Fin 16) (layers groups hd fmt cap : Nat) : Half :=
  match x.poolOf pool with
  | none => stPoolInvalid
  | some p =>
    match headDim hd, ctxFmt fmt with
    | some d, some (f, s) =>
      if layers = 0 || layers > 256 || groups = 0 || groups > 64 || cap = 0 || cap > 131072 ||
         frameKiBOf f s d > p.frameKiB then stCtxFormat
      else if x.ctxs.length ≥ 16384 then stTableFull
      else if !tableRoom x pool p (tableBytes layers groups cap) then stPoolEmpty
      else stOk
    | _, _ => stCtxFormat

/-- R183, R184: the pages a fork maps, with whether each needs a forced copy. -/
def forkPages (p : Pool) (c : Ctx) (f : Nat) : List ((Nat × Nat × Nat) × Nat × Bool) :=
  c.heads.flatMap fun h => (List.range (cdiv f 128)).filterMap fun pg =>
    match c.frameAt h.1 h.2 pg with
    | some fr => some ((h.1, h.2, pg), fr, decide (p.count fr ≥ 65535))
    | none => none

/-- R183: the checks in order; the copies a fork makes come with a success. -/
def ctxForkCheck (x : CtxPart) (parent f cap : Nat) : Half × Nat :=
  match x.find parent with
  | none => (stCtxInvalid, 0)
  | some c =>
    if f > c.length || cap < cdiv f 128 || cap = 0 || cap > 131072 then (stCtxRange, 0)
    else if x.ctxs.length ≥ 16384 then (stTableFull, 0)
    else
      match x.poolOf c.pool with
      | none => (stPoolEmpty, 0)
      | some p =>
        let copies := ((forkPages p c f).filter fun e => e.2.2).length
        if !tableRoom x c.pool p (tableBytes c.layers c.groups cap) || copies > p.free then (stPoolEmpty, 0)
        else (stOk, copies)

/-- R183, R184: map the parent's pages into the child, with private copies where a count is full. -/
def forkMap (inStack : Nat → Bool) (child f : Nat) (pages : List ((Nat × Nat × Nat) × Nat × Bool)) (e : CtxEnv) : CtxEnv :=
  pages.foldl (fun acc pg =>
    match acc.cx.find child with
    | none => acc
    | some c =>
      match acc.cx.poolOf c.pool with
      | none => acc
      | some p =>
        if pg.2.2 then
          let r := newFrame inStack c pg.1 acc
          { r.1 with mem := copyRows r.1.mem (p.da pg.2.1) (p.da r.2.2) c.streams (min 128 (f - 128 * pg.1.2.2)) }
        else
          { acc with cx := (acc.cx.setPool c.pool (some (p.addRef pg.2.1))).put (c.map pg.1 pg.2.1) }) e

/-- R186: unmap pages at and beyond ⌈n/128⌉, clear the rows of a private last page, set the length. -/
def trimCtx (num n : Nat) (e : CtxEnv) : CtxEnv :=
  match e.cx.find num with
  | none => e
  | some c =>
    let gone := (c.table.filter fun t => decide (t.1.2.2 ≥ cdiv n 128)).map (·.1)
    let x := gone.foldl (fun acc k => unmapPage num k acc) e.cx
    let m :=
      if n % 128 = 0 then e.mem
      else
        match x.poolOf c.pool with
        | none => e.mem
        | some p =>
          c.heads.foldl (fun acc h =>
            match c.frameAt h.1 h.2 (n / 128) with
            | some f => if p.count f = 1 then clearRows acc (p.da f) c.streams (n % 128) else acc
            | none => acc) e.mem
    match x.find num with
    | none => { e with mem := m, cx := x }
    | some c' => { e with mem := m, cx := x.put { c' with length := n } }

/-- R187: unmap every page and free the entry. -/
def destroyCtx (num : Nat) (x : CtxPart) : CtxPart :=
  match x.find num with
  | none => x
  | some c =>
    let x' := (c.table.map (·.1)).foldl (fun acc k => unmapPage num k acc) x
    { x' with ctxs := x'.ctxs.filter (fun c => c.num != num), destroying := x'.destroying.filter (· != num) }

/-- R188: may an operation be taken: every earlier operation of the context that is a write, or for a write every earlier
one, has left. -/
def arbFree (earlier : List ArbOp) (ctx : Nat) (write : Bool) : Bool :=
  earlier.all fun o => o.ctx != ctx || (!write && !o.write)

end Sys2Proof.Machine
end

