-- ==== Sys2Proof/Machine/RefFn.lean ====
section
/-! DEFINITION. The exact values of the built-in functions, rounded once to FP32, against which R111 measures error (R111 to
R113). They are evaluated in fixed point with 512 fraction bits, far beyond what rounding to FP32 asks for (DEDUCED, log 125). -/
namespace Sys2Proof.Machine

/-- Fraction bits of the fixed-point numbers below; a number is an integer of units of 2^-512. -/
def fxBits : Nat := 512
def fxOne : Int := (2 ^ fxBits : Nat)
/-- π and ln 2 in fixed point. -/
def fxPi : Int :=
  0x3243f6a8885a308d313198a2e03707344a4093822299f31d0082efa98ec4e6c89452821e638d01377be5466cf34e90c6cc0ac29b7c97c50dd3f84d5b5b5470917
def fxLn2 : Int :=
  0xb17217f7d1cf79abc9e3b39803f2f6af40f343267298b62d8a0d175b8baafa2be7b876206debac98559552fb4afa1b10ed2eae35c138214427573b291169b825

def fxMul (a b : Int) : Int := a * b / fxOne
def fxDiv (a b : Int) : Int := if b = 0 then 0 else a * fxOne / b
/-- A finite value in fixed point; FP32 values down to 2^-149 are exact. -/
def fxOf : FV → Int
  | .fin n m e =>
    let u : Nat := if 0 ≤ e + fxBits then m <<< (e + fxBits).toNat else m >>> (-(e + fxBits)).toNat
    if n then -(u : Int) else (u : Int)
  | _ => 0
/-- A fixed-point number, cut short, as a value: a last bit marks what was cut. -/
def fxVal (v : Int) : FV := .fin (decide (v < 0)) (2 * v.natAbs + 1) (-(fxBits : Int) - 1)
/-- √(a / b) in fixed point. -/
def fxSqrt (a b : Nat) : Int := (isqrt (a * 2 ^ (2 * fxBits) / max 1 b) : Nat)

/-- Σ x^k / k! for 0 ≤ x < 1. -/
def fxExpSeries (x : Int) : Int :=
  ((List.range 120).foldl (fun (p : Int × Int) (k : Nat) => let t := fxMul p.2 x / ((k : Int) + 1); (p.1 + t, t)) (fxOne, fxOne)).1
/-- e^x as a significand in fixed point and a power of two. -/
def fxExp (x : Int) : Int × Int :=
  let n := x / fxLn2
  (fxExpSeries (x - n * fxLn2), n)
/-- The same as one fixed-point number, for x at most 0 or a little above. -/
def fxExpSmall (x : Int) : Int :=
  let p := fxExp x
  if p.2 < -2000 then 0 else if 0 ≤ p.2 then p.1 * (2 ^ (min p.2.toNat 2000) : Nat) else p.1 / (2 ^ (-p.2).toNat : Nat)
/-- 1 / (1 + e^-x). -/
def fxSigmoid (x : Int) : Int :=
  let w := fxExpSmall (if x < 0 then x else -x)
  if x < 0 then fxDiv w (fxOne + w) else fxDiv fxOne (fxOne + w)

/-- ln f for 1 ≤ f < 2, by the series of atanh. -/
def fxLog (f : Int) : Int :=
  let s := fxDiv (f - fxOne) (f + fxOne)
  let q := fxMul s s
  2 * ((List.range 180).foldl (fun (p : Int × Int) (k : Nat) => (p.1 + p.2 / (2 * (k : Int) + 1), fxMul p.2 q)) (0, s)).1

/-- sin x and cos x for 0 ≤ x < 2. -/
def fxSin (x : Int) : Int :=
  let q := fxMul x x
  ((List.range 80).foldl (fun (p : Int × Int) (k : Nat) =>
    (p.1 + p.2, -(fxMul p.2 q / ((2 * (k : Int) + 2) * (2 * (k : Int) + 3))))) (0, x)).1
def fxCos (x : Int) : Int :=
  let q := fxMul x x
  ((List.range 80).foldl (fun (p : Int × Int) (k : Nat) =>
    (p.1 + p.2, -(fxMul p.2 q / ((2 * (k : Int) + 1) * (2 * (k : Int) + 2))))) (0, fxOne)).1
/-- sin of x turned on by quarters of a turn, for any x ≥ 0. -/
def fxCircle (turn : Nat) (x : Int) : Int :=
  let q := 2 * x / fxPi
  let r := (2 * x - q * fxPi) / 2
  match (q + turn) % 4 with
  | 0 => fxSin r
  | 1 => fxCos r
  | 2 => -fxSin r
  | _ => -fxCos r

/-- Σ (-1)^n x^n / (n! (2n + 1)). -/
def fxErfSeries (x : Int) : Int :=
  ((List.range 700).foldl (fun (p : Int × Int) (k : Nat) =>
    (p.1 + p.2 / (2 * (k : Int) + 1), -(fxMul p.2 x / ((k : Int) + 1)))) (0, fxOne)).1

/-- The exact value of a function of R112 on a finite input, but for what is cut beyond 512 fraction bits; op is R199's code. -/
def refValue (op : Nat) (v : FV) : FV :=
  match v with
  | .fin neg m e =>
    let x := fxOf v
    let a : Int := x.natAbs
    let times (s : Int) : FV := mulV v (fxVal s)
    let signed (s : Int) : FV := fxVal (if neg then -s else s)
    match op with
    | 0x0F => -- RSQRT
      let p : Nat × Int := if e % 2 = 0 then (m, e) else (2 * m, e - 1)
      .fin false (2 * isqrt (2 ^ 1024 / max 1 p.1) + 1) (-513 - p.2 / 2)
    | 0x17 => let p := fxExp x; scaleV (fxVal p.1) p.2 -- EXP
    | 0x18 => let n := x / fxOne; scaleV (fxVal (fxExpSeries (fxMul (x - n * fxOne) fxLn2))) n -- EXP2
    | 0x19 | 0x1A => -- LOG, LOG2
      let k := (bitLen m : Int) - 1
      let y := fxLog (fxOf (.fin false m (-k))) + (e + k) * fxLn2
      fxVal (if op = 0x19 then y else fxDiv y fxLn2)
    | 0x1B => signed (fxCircle 0 a)
    | 0x1C => fxVal (fxCircle 1 a)
    | 0x1D => let w := fxExpSmall (-(2 * a)); signed (fxDiv (fxOne - w) (fxOne + w)) -- TANH
    | 0x1E => fxVal (fxSigmoid x)
    | 0x1F => signed (fxMul (fxMul (2 * a) (fxSqrt (2 ^ fxBits) fxPi.toNat)) (fxErfSeries (fxMul a a))) -- ERF
    | 0x20 => -- GELU_ERF: x Φ(x)
      times (fxOne / 2 + fxMul (fxMul x (fxSqrt (2 ^ fxBits) (2 * fxPi.toNat))) (fxErfSeries (fxMul x x / 2)))
    | 0x21 => -- GELU_TANH
      let cube := fxMul (fxMul x x) x * 44715 / 1000000
      times (fxSigmoid (fxMul (2 * (x + cube)) (fxSqrt (2 ^ (fxBits + 1)) fxPi.toNat)))
    | _ => times (fxSigmoid x) -- SILU
  | w => w

/-- R111: the exact function value rounded to FP32 to nearest. -/
def refFn (op : Nat) (x : Word) : Word := ofV (refValue op (toV x))

/-- R112: the largest error of a function, in ulp. -/
def fnUlps (op : Nat) : Nat := if op = 0x0F || op ≤ 0x1A then 1 else if op ≤ 0x1F then 2 else 3

/-- One ulp of a finite FP32 value, as an exact value (R111). -/
def ulpOf (x : Word) : FV :=
  let e := field x.toNat 30 23
  .fin false 1 ((max e 1 : Nat) - 150 : Int)

/-- Two FP32 values differ by at most n ulp of the second. -/
def withinUlp (n : Nat) (a b : Word) : Bool :=
  isFinite a && isFinite b && !(ltV (mulV (.fin false n 0) (ulpOf b)) (absV (addV (toV a) (negV (toV b)))))

end Sys2Proof.Machine
end

