-- ==== Sys2Proof/Machine/Functions.lean ====
section
/-! DEFINITION. Segment tables and the built-in functions: R112's methods with the numerics version's constants, held to R111's
bounds, and the built-in tables of slots 0 to 5 (R111 to R121). -/
namespace Sys2Proof.Machine

/-- A segment record (R116). -/
structure Seg where
  lo : Word
  centre : Word
  deg : Nat
  a : List Word
  deriving DecidableEq, Repr

/-- A segment table: header fields of R115 and its segments. -/
structure SegTable where
  tableId : Nat
  hi : Word
  pivot : Word
  symmetry : Nat
  mono : Nat
  seamUlp : Nat
  lowTail : Nat
  highTail : Nat
  lowValue : Word
  highValue : Word
  negInf : Word
  posInf : Word
  segs : List Seg
  /-- The 64 header bytes as loaded, which QUERY returns (R405). -/
  header : List Byte
  deriving DecidableEq, Repr

/-- Word i of a record's bytes. -/
def wordAt (bs : List Byte) (lo : Nat) : Word := BitVec.ofNat 32 (bytesAt bs (lo + 3) lo)

/-- R115, R116: read a table; none where the format check of R121 fails. -/
def parseSegTable (bs : List Byte) : Option SegTable :=
  let n := bytesAt bs 3 2
  let recs := (List.range n).map fun k => slice bs (64 + 48 * k) 48
  let seg (r : List Byte) : Seg :=
    { lo := wordAt r 0, centre := wordAt r 4, deg := bytesAt r 8 8, a := (List.range 8).map fun j => wordAt r (12 + 4 * j) }
  let segOk (r : List Byte) : Bool :=
    let s := seg r
    decide (s.deg ≤ 7) && zeroAt r 11 9 && zeroAt r 47 44 && (s.a.drop (s.deg + 1)).all (· == 0#32)
  if bytesAt bs 1 0 == 1 && decide (1 ≤ n) && decide (n ≤ 64) && bs.length == 64 + 48 * n && bytesAt bs 7 4 != 0 &&
     decide (bytesAt bs 16 16 ≤ 2) && decide (bytesAt bs 17 17 ≤ 3) && decide (bytesAt bs 18 18 ≤ 15) &&
     decide (bytesAt bs 20 20 ≤ 3) && decide (bytesAt bs 21 21 ≤ 3) && zeroAt bs 19 19 && zeroAt bs 23 22 &&
     zeroAt bs 63 40 && recs.all segOk then
    some { tableId := bytesAt bs 7 4, hi := wordAt bs 8, pivot := wordAt bs 12, symmetry := bytesAt bs 16 16,
           mono := bytesAt bs 17 17, seamUlp := bytesAt bs 18 18, lowTail := bytesAt bs 20 20,
           highTail := bytesAt bs 21 21, lowValue := wordAt bs 24, highValue := wordAt bs 28, negInf := wordAt bs 32,
           posInf := wordAt bs 36, segs := recs.map seg, header := bs.take 64 }
  else none

/-- R117: a segment's polynomial by Horner's rule. -/
def segPoly (s : Seg) (x : Word) : Word :=
  let u := fsub x s.centre
  (List.range s.deg).foldl (fun p j => ffma p u (s.a.getD (s.deg - 1 - j) 0)) (s.a.getD s.deg 0)

/-- R117: a tail. -/
def segTail (mode : Nat) (v b : Word) (s : Seg) (x : Word) : Word :=
  match mode with
  | 0 => v
  | 1 => segPoly s b
  | 2 => x
  | _ => ffma v (fsub x b) (segPoly s b)

/-- FP32 order of two codes that are not NaN. -/
def flt (a b : Word) : Bool := ltV (toV a) (toV b)

/-- R117: the value of a segment table. -/
def segFn (t : SegTable) (x0 : Word) : Word :=
  if isNaN x0 then qnan
  else if x0 = ninf then t.negInf
  else if x0 = pinf then t.posInf
  else
    let neg := t.symmetry != 0 && signOf x0
    let x := if neg then fneg x0 else x0
    match t.segs with
    | [] => qnan
    | f :: rest =>
      let last := rest.getLastD f
      let y :=
        if flt x f.lo then segTail t.lowTail t.lowValue f.lo f x
        else if !(flt x t.hi) then segTail t.highTail t.highValue t.hi last x
        else segPoly ((f :: rest).foldl (fun acc s => if flt x s.lo then acc else s) f) x
      if neg && t.symmetry == 1 then fneg y else y

/-- R121: the bounds check. -/
def segBoundsOk (t : SegTable) : Bool :=
  let fin := [t.hi, t.pivot, t.lowValue, t.highValue] ++ t.segs.flatMap fun s => s.lo :: s.centre :: s.a
  fin.all isFinite && !isNaN t.negInf && !isNaN t.posInf &&
  ((t.segs.zip (t.segs.drop 1)).all fun p => flt p.1.lo p.2.lo) &&
  (match t.segs.getLast? with | some s => flt s.lo t.hi | none => false) &&
  (t.symmetry == 0 || (match t.segs.head? with | some s => s.lo == 0#32 | none => false)) &&
  (t.symmetry != 2 || t.mono == 0 || (t.mono == 3 && t.pivot == 0#32))

/-- R121: the seam check; a symmetric table's low tail, which R117 never uses, is left out (DEDUCED, log 129). -/
def segSeamsOk (t : SegTable) : Bool :=
  let seams := (t.segs.zip (t.segs.drop 1)).all fun p => withinUlp t.seamUlp (segPoly p.1 p.2.lo) (segPoly p.2 p.2.lo)
  let tailOk (mode : Nat) (v b : Word) (s : Seg) : Bool :=
    if mode = 0 || mode = 2 then withinUlp t.seamUlp (segTail mode v b s b) (segPoly s b) else true
  match t.segs with
  | [] => false
  | f :: rest =>
    seams && (t.symmetry != 0 || tailOk t.lowTail t.lowValue f.lo f) && tailOk t.highTail t.highValue t.hi (rest.getLastD f)

/-- The FP32 codes of a finite range in ascending order of value: orders from a up to but not including b. -/
def codeOfOrder (i : Int) : Word :=
  if i < 0 then BitVec.ofNat 32 ((-i).toNat + 0x80000000) else BitVec.ofNat 32 i.toNat
def codesBetween (a b : Word) : List Word :=
  let lo := orderOf a
  (List.range (orderOf b - lo).toNat).map fun (i : Nat) => codeOfOrder (lo + (i : Int))

/-- R121: every finite input of the range gives a finite result. -/
def segRangeOk (t : SegTable) : Bool :=
  match t.segs.head? with
  | none => false
  | some f => (codesBetween f.lo t.hi).all fun x => isFinite (segFn t x)

/-- R121: results follow MONO over the range and into and along each tail: every finite input, or the non-negative ones for a
symmetric table, in ascending order. -/
def segMonoOk (t : SegTable) : Bool :=
  if t.mono = 0 then true
  else
    let lo : Word := if t.symmetry = 0 then 0xFF7FFFFF#32 else 0#32
    let xs := codesBetween lo pinf
    (xs.zip (xs.drop 1)).all fun p =>
      let y0 := segFn t p.1
      let y1 := segFn t p.2
      match t.mono with
      | 1 => !(flt y1 y0)
      | 2 => !(flt y0 y1)
      | _ => if flt p.1 t.pivot && !(flt t.pivot p.2) then !(flt y0 y1)
             else if flt p.1 t.pivot then !(flt y0 y1) else !(flt y1 y0)

/-- Built-in functions by the operation codes of R199. -/
def builtinExact (op : Nat) (x : Word) : Option Word :=
  let z := isZeroV (toV x)
  if isNaN x then some qnan
  else
    match op with
    | 0x17 => -- EXP
      if z then some one32 else if x = pinf then some pinf else if x = ninf then some 0#32
      else if flt 0x42B17217#32 x then some pinf
      else if flt x 0xC2CFF1B4#32 then some 0#32 else none
    | 0x18 => -- EXP2
      if z then some one32 else if x = pinf then some pinf else if x = ninf then some 0#32
      else if !(flt x 0x43000000#32) then some pinf
      else if !(flt 0xC3160000#32 x) then some 0#32
      else
        match toV x with
        | .fin n m e =>
          let i : Int := unitsAt 0 n m (max e 0)
          if e ≥ 0 then some (ofV (.fin false 1 i))
          else if m % 2 ^ (-e).toNat = 0 then
            let k : Int := (m / 2 ^ (-e).toNat : Nat)
            some (ofV (.fin false 1 (if n then -k else k)))
          else none
        | _ => none
    | 0x19 | 0x1A => -- LOG, LOG2
      if x = one32 then some 0#32 else if z then some ninf else if x = pinf then some pinf
      else if signOf x then some qnan else none
    | 0x1B => if z then some x else if isInf x then some qnan else none -- SIN
    | 0x1C => if z then some one32 else if isInf x then some qnan else none -- COS
    | 0x1D => if isInf x then some (if signOf x then 0xBF800000#32 else one32)
              else if !(flt x 0x41100000#32) then some one32
              else if !(flt 0xC1100000#32 x) then some 0xBF800000#32 else none -- TANH, R118 slot 0
    | 0x1E => if !(flt x 0x418C0000#32) then some one32
              else if flt x 0xC2D00000#32 then some 0#32 else none -- SIGMOID, slot 1
    | 0x1F => if !(flt x 0x40800000#32) then some one32
              else if !(flt 0xC0800000#32 x) then some 0xBF800000#32 else none -- ERF, slot 2
    | 0x20 | 0x21 => if !(flt x 0x41200000#32) then some x
              else if flt x 0xC1680000#32 then some 0x80000000#32 else none -- GELU forms, slots 3 and 4
    | 0x22 => if !(flt x 0x418C0000#32) then some x
              else if flt x 0xC2DC0000#32 then some 0x80000000#32 else none -- SILU, slot 5
    | _ => none

/-- R112: Horner's rule with one FMA per coefficient, lowest coefficient first. -/
def horner (cs : List Word) (x : Word) : Word :=
  match cs.reverse with
  | [] => 0#32
  | c :: r => r.foldl (fun p a => ffma p x a) c

/-- An FP32 value times a power of two, rounded once. -/
def fldexp (x : Word) (n : Int) : Word := ofV (scaleV (toV x) n)
/-- An integer as FP32, and a value to the nearest integer with ties to even. -/
def intF (n : Int) : Word := ofV (.fin (decide (n < 0)) n.natAbs 0)
def rintV : FV → Int
  | .fin n m e =>
    let u := if 0 ≤ e then m <<< e.toNat else shiftRne m (-e).toNat
    if n then -(u : Int) else (u : Int)
  | _ => 0
/-- Coefficients i to i + n - 1 of a function. -/
def fnCoefs (ver : Word) (fn i n : Nat) : List Word := (List.range n).map fun j => Config.fnConst ver fn (i + j)

/-- ln 2 to 16 significant bits, and what is left of it (R112). -/
def ln2High : Word := 0x3F317200#32
def ln2Low : Word := 0x35BFBE8E#32

/-- R112: EXP2 and EXP. -/
def exp2Method (ver x : Word) : Word :=
  let n := rintV (toV x)
  fldexp (horner (fnCoefs ver 0x18 0 7) (fsub x (intF n))) n
def expMethod (ver x : Word) : Word :=
  let n := rintV (toV (fmul x 0x3FB8AA3B#32))
  let r := ffma (intF (-n)) ln2Low (ffma (intF (-n)) ln2High x)
  fldexp (horner (fnCoefs ver 0x17 0 8) r) n

/-- R112: LOG (0x19) and LOG2 (0x1A): x = m × 2^e with m in [√½, √2). -/
def logMethod (ver : Word) (fn : Nat) (x : Word) : Word :=
  match toV x with
  | .fin _ m e =>
    let k := (bitLen m : Int) - 1
    let m1 := ofV (.fin false m (-k))
    let up := flt 0x3FB504F3#32 m1
    let f := if up then fldexp m1 (-1) else m1
    let n := e + k + b2n up
    let s := fdiv (fsub f one32) (fadd f one32)
    let p := fmul s (horner (fnCoefs ver fn 0 5) (fmul s s))
    if fn = 0x1A then fadd p (intF n) else ffma (intF n) ln2High (ffma (intF n) ln2Low p)
  | _ => qnan

/-- R112: SIN and COS: turn is 0 for SIN and 1 for COS. -/
def circleMethod (ver : Word) (turn : Nat) (x : Word) : Word :=
  let far := flt 0x47800000#32 (fabs x)
  let k : Int := if far then (2 * fxOf (toV x) + fxPi / 2) / fxPi else rintV (toV (fmul x 0x3F22F983#32))
  let part (i : Nat) (y : Word) : Word := ffma (intF (-k)) (Config.fnConst ver 0x1B (16 + i)) y
  let r := if far then ofV (fxVal ((2 * fxOf (toV x) - k * fxPi) / 2)) else part 2 (part 1 (part 0 x))
  let q := fmul r r
  let sine := fmul r (horner (fnCoefs ver 0x1B 0 5) q)
  let cosine := horner (fnCoefs ver 0x1C 0 5) q
  match (k + turn) % 4 with
  | 0 => sine
  | 1 => cosine
  | 2 => fneg sine
  | _ => fneg cosine

/-- R112: RSQRT: a seed chosen by nine bits of the input, then two Newton steps. -/
def rsqrtMethod (ver x : Word) : Word :=
  match toV x with
  | .fin _ m e =>
    let k := (bitLen m : Int) - 1
    let n := (e + k) / 2
    let y := ofV (.fin false m (-k + (e + k - 2 * n)))
    let ix := (e + k - 2 * n).toNat * 256 + field y.toNat 22 15
    let step (g : Word) : Word := ffma (fmul 0x3F000000#32 g) (ffma (fneg (fmul y g)) g one32) g
    fldexp (step (step (Config.fnConst ver 0x0F ix))) (-n)
  | _ => qnan

/-- R111, R112: a result held to its function's error bound: one outside it, or of the other sign, is no result that the numerics
version can give, and the correctly rounded value stands for it (log 119). -/
def heldTo (fn : Nat) (x raw : Word) : Word :=
  let r := refFn fn x
  if withinUlp (fnUlps fn) raw r && signOf raw == signOf r then raw else r

/-- R118: what the manual fixes of a built-in slot's table. -/
structure BuiltinRow where
  symmetry : Nat
  lo : Word
  hi : Word
  lowValue : Word
  highTail : Nat
  highValue : Word
  negInf : Word
  posInf : Word
  mono : Nat
  deriving DecidableEq, Repr

def builtinRow (slot : Nat) : BuiltinRow :=
  let half (lo hi : Word) : BuiltinRow := ⟨0, lo, hi, 0x80000000#32, 2, 0#32, 0x80000000#32, pinf, 3⟩
  match slot with
  | 0 => ⟨1, 0#32, 0x41100000#32, 0#32, 0, one32, 0xBF800000#32, one32, 1⟩
  | 1 => ⟨0, 0xC2D00000#32, 0x418C0000#32, 0#32, 0, one32, 0#32, one32, 1⟩
  | 2 => ⟨1, 0#32, 0x40800000#32, 0#32, 0, one32, 0xBF800000#32, one32, 1⟩
  | 3 | 4 => half 0xC1680000#32 0x41200000#32
  | _ => half 0xC2DC0000#32 0x418C0000#32

/-- R118, R119: does a table stand in a built-in slot: R118's fixed fields, SEAM_ULP 0, every check of R121, degree 7, PIVOT where
the output is least, and every result within R112's error. -/
def builtinOk (slot : Nat) (t : SegTable) : Bool :=
  let r := builtinRow slot
  let inputs := codesBetween r.lo r.hi
  t.symmetry == r.symmetry && t.hi == r.hi && t.mono == r.mono && t.seamUlp == 0 && t.lowTail == 0 && t.lowValue == r.lowValue &&
  t.highTail == r.highTail && t.highValue == r.highValue && t.negInf == r.negInf && t.posInf == r.posInf &&
  (match t.segs.head? with | some s => s.lo == r.lo | none => false) && t.segs.all (·.deg == 7) &&
  segBoundsOk t && segSeamsOk t && segRangeOk t && segMonoOk t &&
  (t.mono != 3 || inputs.all fun x => !flt (segFn t x) (segFn t t.pivot)) &&
  inputs.all fun x => withinUlp (fnUlps (0x1D + slot)) (segFn t x) (refFn (0x1D + slot) x)

/-- R114, R118: the table of a built-in slot under a numerics version; none where the constants the model leaves open make no such
table. -/
def builtinTable (ver : Word) (slot : Nat) : Option SegTable :=
  match parseSegTable (Config.builtinTable ver slot) with
  | some t => if builtinOk slot t then some t else none
  | none => none

/-- R118: the header QUERY returns for a built-in slot: SEG_COUNT, TABLE_ID and PIVOT are the numerics version's. -/
def builtinHeader (ver : Word) (slot : Nat) : List Byte :=
  let r := builtinRow slot
  let bs := Config.builtinTable ver slot
  let w (x : Word) : List Byte := leBytes 4 x.toNat
  leBytes 2 1 ++ leBytes 2 ((bytesAt bs 3 2 + 63) % 64 + 1) ++ leBytes 4 (max 1 (bytesAt bs 7 4)) ++ w r.hi ++ leBytes 4 (bytesAt bs 15 12) ++
  leBytes 1 r.symmetry ++ leBytes 1 r.mono ++ leBytes 2 0 ++ leBytes 1 0 ++ leBytes 1 r.highTail ++ leBytes 2 0 ++ w r.lowValue ++
  w r.highValue ++ w r.negInf ++ w r.posInf ++ List.replicate 24 0#8
def builtinTableId (ver : Word) (slot : Nat) : Nat := bytesAt (builtinHeader ver slot) 7 4

/-- R111 to R114, R118, R119: a built-in function. -/
def builtinFn (ver : Word) (op : Nat) (x : Word) : Word :=
  match builtinExact op x with
  | some y => y
  | none =>
    match op with
    | 0x17 => heldTo op x (expMethod ver x)
    | 0x18 => heldTo op x (exp2Method ver x)
    | 0x19 | 0x1A => heldTo op x (logMethod ver op x)
    | 0x1B => heldTo op x (circleMethod ver 0 x)
    | 0x1C => heldTo op x (circleMethod ver 1 x)
    | _ => match builtinTable ver (op - 0x1D) with
      | some t => segFn t x
      | none => refFn op x

def frecip (x : Word) : Word := fdiv one32 x

/-- R112, R113: RSQRT. -/
def frsqrt (ver : Word) (x : Word) : Word :=
  if isNaN x then qnan
  else if x = 0#32 then pinf
  else if x = 0x80000000#32 then ninf
  else if x = pinf then 0#32
  else if signOf x then qnan
  else heldTo 0x0F x (rsqrtMethod ver x)

def fexp (ver : Word) (x : Word) : Word := builtinFn ver 0x17 x

end Sys2Proof.Machine
end

