-- ==== Sys2Proof/Machine/Image.lean ====
section
/-! DEFINITION. Welic images: the header, sections and records of R194 to R205 as data, and their reading from bytes. -/
namespace Sys2Proof.Machine

/-- A buffer record (R196). exts are EXTENT0 to EXTENT3, strides STRIDE1 to STRIDE3. -/
structure Buf where
  kind : Nat
  fmt : BFmt
  outliers : Bool
  listed : Bool
  rank : Nat
  tscale : Word
  exts : List Nat
  strides : List Nat
  base : Nat
  scaleOff : Nat
  sideOff : Nat
  home : Nat
  level : Nat
  deriving DecidableEq, Repr

/-- A kernel record (R198). Index fields keep 0xFFFF for none. -/
structure Kernel where
  kind : Nat
  markFmt : Nat
  wideFmt : Nat
  range : Nat
  promote : Nat
  flags : Nat
  layer : Nat
  rotSeed : Long
  bufA : Nat
  bufB : Nat
  bufOut : Nat
  bufAux : Nat
  shape : Nat
  loop : Nat
  chain : Nat
  auxIndex : Nat
  auxCount : Nat
  fnref : Nat
  mMax : Nat
  nMax : Nat
  kMax : Nat
  entryMax : Nat
  execK : Nat
  kilnMask : Nat
  tileMask : Nat
  deriving DecidableEq, Repr

/-- A loop-order record (R202). -/
structure Loop where
  order : Nat
  flags : Nat
  stepM : Nat
  stepN : Nat
  stepK : Nat
  deriving DecidableEq, Repr

/-- One member of a chain (R205). -/
structure ChainMember where
  rank : Nat
  kiln : Nat
  tile : Nat
  deriving DecidableEq, Repr

/-- A chain record (R205). -/
structure Chain where
  scope : Nat
  group : Nat
  members : List ChainMember
  deriving DecidableEq, Repr

/-- A vector-operation record (R199). -/
structure VecOp where
  op : Nat
  flags : Nat
  src0 : Nat
  src1 : Nat
  dst : Nat
  aux : Nat
  fnSlot : Nat
  param : Word
  deriving DecidableEq, Repr

/-- A function reference (R199). -/
structure FnRef where
  slot : Nat
  tableId : Nat
  deriving DecidableEq, Repr

/-- An image as the device holds it. patterns and pixels keep their records' bytes; chapters 5 and 10 read them. -/
structure Image where
  size : Nat
  numerics : Word
  layerCount : Nat
  classes : Nat
  bufs : List Buf := []
  kernels : List Kernel := []
  loops : List Loop := []
  patterns : List (List Byte) := []
  chains : List Chain := []
  vecOps : List VecOp := []
  pixels : List (List Byte) := []
  fnRefs : List FnRef := []
  deriving DecidableEq, Repr

/-- The index value that means none. -/
def noIx : Nat := 0xFFFF

/-- R195: record sizes by section type. -/
def sectionSize : Nat → Nat
  | 1 => 64 | 2 => 96 | 3 => 16 | 4 => 64 | 5 => 272 | 6 => 16 | 7 => 128 | 8 => 8 | _ => 0

/-- One section-table entry (R195). -/
structure Section_ where
  type : Nat
  rsv : Nat
  count : Nat
  offset : Nat
  deriving DecidableEq, Repr

/-- The section table of an image's bytes. -/
def sectionTable (bs : List Byte) (n : Nat) : List Section_ :=
  (List.range n).map fun i =>
    let e := slice bs (128 + 16 * i) 16
    { type := bytesAt e 1 0, rsv := bytesAt e 3 2, count := bytesAt e 7 4, offset := bytesAt e 15 8 }

/-- Byte ranges taken by the header, the table and the sections, for the overlap rule of R195. -/
def sectionRanges (tab : List Section_) : List (Nat × Nat) :=
  (0, 128 + 16 * tab.length) :: tab.map fun s => (s.offset, s.count * sectionSize s.type)

/-- R195 as far as it needs no record. -/
def sectionsOk (size kernelCount : Nat) (tab : List Section_) : Bool :=
  tab.all (fun s => decide (1 ≤ s.type) && decide (s.type ≤ 8) && s.rsv == 0 && s.offset % 64 == 0 &&
    decide (s.offset + s.count * sectionSize s.type ≤ size)) &&
  (pairs (tab.map (·.type))).all (fun p => p.1 != p.2) &&
  (pairs (sectionRanges tab)).all (fun p => p.1.2 == 0 || p.2.2 == 0 || !overlaps p.1.1 p.1.2 p.2.1 p.2.2) &&
  [1, 2, 3].all (fun t => tab.any fun s => s.type == t) &&
  tab.all (fun s => s.type != 2 || s.count == kernelCount)

/-- The records of one section type, as byte lists. -/
def recordsOf (bs : List Byte) (tab : List Section_) (t : Nat) : List (List Byte) :=
  match tab.find? fun s => s.type == t with
  | none => []
  | some s => (List.range s.count).map fun i => slice bs (s.offset + i * sectionSize t) (sectionSize t)

/-- R196: one buffer record; none where a code or reserved byte is out of range. -/
def parseBuf (r : List Byte) : Option Buf :=
  match BFmt.ofCode (bytesAt r 1 1) with
  | none => none
  | some fmt =>
    let kind := bytesAt r 0 0
    let flags := bytesAt r 2 2
    let rank := bytesAt r 3 3
    let exts := (List.range 4).map fun i => bytesAt r (11 + 4 * i) (8 + 4 * i)
    let strides := (List.range 3).map fun i => bytesAt r (29 + 6 * i) (24 + 6 * i)
    let b : Buf :=
      { kind := kind, fmt := fmt, outliers := bit flags 0, listed := bit flags 1, rank := rank,
        tscale := BitVec.ofNat 32 (bytesAt r 7 4), exts := exts, strides := strides, base := bytesAt r 47 42,
        scaleOff := bytesAt r 53 48, sideOff := bytesAt r 59 54, home := bytesAt r 60 60, level := bytesAt r 61 61 }
    let scaleFmt := fmt == .fp8e4m3 || fmt == .fp8e5m2
    let ok :=
      decide (kind ≤ 4) && decide (flags < 4) && decide (1 ≤ rank) && decide (rank ≤ 4) &&
      (scaleFmt || b.tscale == 0#32) &&
      (indexed exts).all (fun p => decide (1 ≤ p.2) && (decide (p.1 < rank) || p.2 == 1)) &&
      (indexed strides).all (fun p => decide (p.1 + 1 < rank) || p.2 == 0) &&
      (!b.listed || b.base == 0) && (!b.outliers || fmt == .gz4) &&
      (fmt.isBlock || b.scaleOff == 0) && (b.outliers || b.sideOff == 0) &&
      decide (b.level ≤ 3) &&
      (if b.level = 2 then b.home == 0xFF else if b.level = 3 then decide (b.home ≤ 1) else decide (b.home ≤ 11)) &&
      zeroAt r 63 62
    if ok then some b else none

/-- R198: one kernel record, with its reserved bytes checked. -/
def parseKernel (r : List Byte) : Option Kernel :=
  if zeroAt r 25 25 && zeroAt r 95 58 && r.length = 96 then
    some { kind := bytesAt r 0 0, markFmt := bytesAt r 1 1, wideFmt := bytesAt r 2 2, range := bytesAt r 3 3,
           promote := bytesAt r 4 4, flags := bytesAt r 5 5, layer := bytesAt r 7 6,
           rotSeed := BitVec.ofNat 64 (bytesAt r 15 8), bufA := bytesAt r 17 16, bufB := bytesAt r 19 18,
           bufOut := bytesAt r 21 20, bufAux := bytesAt r 23 22, shape := bytesAt r 24 24, loop := bytesAt r 27 26,
           chain := bytesAt r 29 28, auxIndex := bytesAt r 31 30, auxCount := bytesAt r 33 32,
           fnref := bytesAt r 35 34, mMax := bytesAt r 39 36, nMax := bytesAt r 43 40, kMax := bytesAt r 47 44,
           entryMax := bytesAt r 51 48, execK := bytesAt r 53 52, kilnMask := bytesAt r 55 54,
           tileMask := bytesAt r 57 56 }
  else none

/-- R202: one loop-order record; none where a reserved byte is not zero or ORDER is no code. What it may say at its level is R206's own
check. -/
def parseLoop (r : List Byte) : Option Loop :=
  if zeroAt r 3 2 && decide (bytesAt r 0 0 ≤ 5) then
    some { order := bytesAt r 0 0, flags := bytesAt r 1 1, stepM := bytesAt r 7 4, stepN := bytesAt r 11 8, stepK := bytesAt r 15 12 }
  else none

/-- R205: one chain record; none where a reserved byte or an unused member is not zero, or SCOPE is no code. A count outside 2 to 64
leaves a chain that ST_CHAIN refuses: its member list is then too short. -/
def parseChain (r : List Byte) : Option Chain :=
  let n := bytesAt r 0 0
  let mem := (List.range 64).map fun i =>
    ({ rank := bytesAt r (17 + 4 * i) (16 + 4 * i), kiln := bytesAt r (18 + 4 * i) (18 + 4 * i),
       tile := bytesAt r (19 + 4 * i) (19 + 4 * i) } : ChainMember)
  if zeroAt r 15 4 && decide (bytesAt r 1 1 ≤ 1) &&
     (mem.drop n).all (fun m => m.rank == 0 && m.kiln == 0 && m.tile == 0) then
    some { scope := bytesAt r 1 1, group := bytesAt r 3 2, members := if n ≤ 64 then mem.take n else [] }
  else none

/-- R199: one vector-operation record; none for an unknown OP, a reserved byte, or FLAGS an operation does not take. -/
def parseVecOp (r : List Byte) : Option VecOp :=
  let op := bytesAt r 0 0
  let fl := bytesAt r 1 1
  if decide (1 ≤ op) && decide (op ≤ 0x2A) && zeroAt r 11 11 &&
     (if op = 0x09 then decide (fl ≤ 2) else fl == 0) then
    some { op := op, flags := fl, src0 := bytesAt r 3 2, src1 := bytesAt r 5 4, dst := bytesAt r 7 6,
           aux := bytesAt r 9 8, fnSlot := bytesAt r 10 10, param := BitVec.ofNat 32 (bytesAt r 15 12) }
  else none

/-- R199: one function reference. -/
def parseFnRef (r : List Byte) : Option FnRef :=
  if zeroAt r 3 1 && decide (bytesAt r 0 0 ≤ 15) then some { slot := bytesAt r 0 0, tableId := bytesAt r 7 4 } else none

/-- Every element, or none. -/
def allSome {α : Type} : List (Option α) → Option (List α)
  | [] => some []
  | none :: _ => none
  | some x :: r =>
    match allSome r with
    | some xs => some (x :: xs)
    | none => none

/-- R206's second check: header fields before the digest. -/
def headerOk (bs : List Byte) (len : Nat) : Bool :=
  decide (128 ≤ len) && bytesAt bs 3 0 == 0x434C4557 && bytesAt bs 5 4 == 1 && zeroAt bs 79 25 &&
  bytesAt bs 15 8 == len

/-- R194: the digest of an image is taken with its own field zero. -/
def digestOk (bs : List Byte) : Bool :=
  let z := bs.take 80 ++ List.replicate 48 0#8 ++ bs.drop 128
  sha384 z == slice bs 80 48

/-- R195, R196, R198, R199, R205: read the whole image; none is ST_IMAGE_FORMAT. -/
def parseImage (bs : List Byte) : Option Image :=
  let nsec := bytesAt bs 7 6
  let layers := bytesAt bs 21 20
  let nk := bytesAt bs 23 22
  let classes := bytesAt bs 24 24
  let tab := sectionTable bs nsec
  if !(decide (1 ≤ nsec) && decide (nsec ≤ 16) && decide (1 ≤ layers) && decide (layers ≤ 4096) && decide (1 ≤ nk) &&
       decide (nk ≤ 16384) && decide (classes < 8) && decide (128 + 16 * nsec ≤ bs.length) &&
       sectionsOk bs.length nk tab) then none
  else
    match allSome ((recordsOf bs tab 1).map parseBuf), allSome ((recordsOf bs tab 2).map parseKernel),
          allSome ((recordsOf bs tab 5).map parseChain), allSome ((recordsOf bs tab 6).map parseVecOp),
          allSome ((recordsOf bs tab 8).map parseFnRef), allSome ((recordsOf bs tab 3).map parseLoop) with
    | some bufs, some kernels, some chains, some vecOps, some fnRefs, some loops =>
      some { size := bs.length, numerics := BitVec.ofNat 32 (bytesAt bs 19 16), layerCount := layers,
             classes := classes, bufs := bufs, kernels := kernels,
             loops := loops, patterns := recordsOf bs tab 4, chains := chains,
             vecOps := vecOps, pixels := recordsOf bs tab 7, fnRefs := fnRefs }
    | _, _, _, _, _, _ => none

/-- A buffer by index. -/
def Image.buf (im : Image) (i : Nat) : Option Buf := im.bufs[i]?
/-- The loop records D, S, B, G of a kernel (R198, R202). -/
def Image.loopsOf (im : Image) (k : Kernel) : Option (Loop × Loop × Loop × Loop) :=
  match im.loops[k.loop]?, im.loops[k.loop + 1]?, im.loops[k.loop + 2]?, im.loops[k.loop + 3]? with
  | some d, some s, some b, some g => some (d, s, b, g)
  | _, _, _, _ => none

/-- Stride of dimension i (0 is contiguous and has none). -/
def Buf.stride (b : Buf) (i : Nat) : Nat := b.strides.getD (i - 1) 0
def Buf.ext (b : Buf) (i : Nat) : Nat := b.exts.getD i 1

/-- Bytes dimension 0 spans in the element stream for an extent. -/
def Buf.row0 (b : Buf) (e0 : Nat) : Nat :=
  if b.fmt.isBlock then cdiv e0 32 * b.fmt.blockBytes else e0 * b.fmt.elemBytes

/-- Bytes the element stream spans for given extents (R196). -/
def Buf.elemSpan (b : Buf) (exts : List Nat) : Nat :=
  if exts.any (· == 0) then 0
  else b.row0 (exts.getD 0 1) +
    sumNat ((List.range 3).map fun i => (exts.getD (i + 1) 1 - 1) * b.strides.getD i 0)

/-- A stride of the scale stream or the side stream, whose record is rec bytes (R196). -/
def Buf.auxStride (b : Buf) (rec i : Nat) : Nat := b.stride i / b.fmt.blockBytes * rec

/-- Bytes a scale or side stream spans. -/
def Buf.auxSpan (b : Buf) (rec : Nat) (exts : List Nat) : Nat :=
  if exts.any (· == 0) then 0
  else cdiv (exts.getD 0 1) 32 * rec +
    sumNat ((List.range 3).map fun i => (exts.getD (i + 1) 1 - 1) * b.auxStride rec (i + 1))

/-- The streams of a buffer at an element base, for given extents, as (address, bytes). -/
def Buf.ranges (b : Buf) (base : Nat) (exts : List Nat) : List (Nat × Nat) :=
  [(base, b.elemSpan exts)] ++
  (if b.fmt.isBlock then [(base + b.scaleOff, b.auxSpan 1 exts)] else []) ++
  (if b.outliers then [(base + b.sideOff, b.auxSpan 6 exts)] else [])

/-- R197: alignment and strides. -/
def Buf.aligned (b : Buf) : Bool :=
  let unit := if b.fmt.isBlock then b.fmt.blockBytes else b.fmt.elemBytes
  let dims := List.range (b.rank - 1)
  let spanBelow (i : Nat) : Nat := if i = 0 then b.row0 (b.ext 0) else b.ext i * b.strides.getD (i - 1) 0
  b.base % 64 == 0 && b.scaleOff % 64 == 0 && b.sideOff % 64 == 0 &&
    dims.all fun i => (b.strides.getD i 0) % unit == 0 && decide (spanBelow i ≤ b.strides.getD i 0)

/-- Index of a buffer among the LISTED ones (R212). -/
def Image.listedIx (im : Image) (i : Nat) : Nat := ((im.bufs.take i).filter fun b => b.listed).length

/-- The tile list of a kernel (R198): ascending kiln, then ascending logical tile. -/
def Kernel.tileList (k : Kernel) : List (Nat × Nat) :=
  ((List.range 12).filter fun i => bit k.kilnMask i).flatMap fun i =>
    ((List.range 16).filter fun t => bit k.tileMask t).map fun t => (i, t)

/-- R553: the vector-unit list as (die, unit): dies 0 to 11 kilns with two units, 16 and 17 wheels with one. -/
def Kernel.vecList (k : Kernel) : List (Nat × Nat) :=
  (((List.range 12).filter fun i => bit k.kilnMask i).flatMap fun i => [(i, 0), (i, 1)]) ++
  (((List.range 2).filter fun w => bit k.kilnMask (12 + w)).map fun w => (16 + w, 0))

/-- R200: arrangement a × b of a shape code. -/
def shapeAB : Nat → Option (Nat × Nat)
  | 0 => some (1, 1) | 1 => some (1, 2) | 2 => some (2, 1) | 3 => some (2, 2) | 4 => some (1, 4) | 5 => some (4, 1)
  | 6 => some (2, 4) | 7 => some (4, 2) | 8 => some (1, 8) | 9 => some (8, 1) | _ => none
/-- R200: the group block M × N. -/
def shapeBlock : Nat → Nat × Nat
  | 0 => (128, 256) | 1 => (128, 128) | 2 => (128, 64) | _ => (32, 16)

/-- The arrangement and group block of a kernel's SHAPE; none for a code outside the menu. -/
def Kernel.shapeOf (k : Kernel) : Option ((Nat × Nat) × (Nat × Nat)) :=
  if k.shape ≥ 64 then none
  else
    match shapeAB (k.shape % 16) with
    | some ab => some (ab, shapeBlock (k.shape / 16))
    | none => none

/-- Positions of a grid along M, N and K (R555). -/
structure Grid where
  pm : Nat
  pn : Nat
  pk : Nat
  deriving DecidableEq, Repr

def Kernel.grid (k : Kernel) (m n kk : Nat) : Grid :=
  match k.shapeOf with
  | none => ⟨0, 0, 0⟩
  | some (ab, blk) =>
    ⟨cdiv m (blk.1 * ab.1), cdiv n (blk.2 * ab.2), max 1 (cdiv (cdiv kk 32) k.execK)⟩

/-- R202: all positions of a box from lo of size n, in the nesting that ORDER names. -/
def orderBox (order : Nat) (lo n : Nat × Nat × Nat) : List (Nat × Nat × Nat) :=
  let ms := (List.range n.1).map (· + lo.1)
  let ns := (List.range n.2.1).map (· + lo.2.1)
  let ks := (List.range n.2.2).map (· + lo.2.2)
  match order with
  | 0 => ms.flatMap fun m => ns.flatMap fun n => ks.map fun k => (m, n, k)
  | 1 => ms.flatMap fun m => ks.flatMap fun k => ns.map fun n => (m, n, k)
  | 2 => ns.flatMap fun n => ms.flatMap fun m => ks.map fun k => (m, n, k)
  | 3 => ns.flatMap fun n => ks.flatMap fun k => ms.map fun m => (m, n, k)
  | 4 => ks.flatMap fun k => ms.flatMap fun m => ns.map fun n => (m, n, k)
  | _ => ks.flatMap fun k => ns.flatMap fun n => ms.map fun m => (m, n, k)

/-- R202: contiguous runs of e items over t places: the first (e mod t) take one more. -/
def splitRuns {α : Type} (xs : List α) (t : Nat) : List (List α) :=
  let e := xs.length
  ((List.range t).foldl (fun (p : List α × List (List α)) i =>
    let n := e / t + (if i < e % t then 1 else 0)
    (p.1.drop n, p.2 ++ [p.1.take n])) (xs, [])).2

/-- Positions of a run in the order of the B record (R203): kept stable by rank in that nesting. -/
def orderRun (order : Nat) (g : Grid) (run : List (Nat × Nat × Nat)) : List (Nat × Nat × Nat) :=
  let key (p : Nat × Nat × Nat) : Nat :=
    match order with
    | 0 => (p.1 * g.pn + p.2.1) * g.pk + p.2.2
    | 1 => (p.1 * g.pk + p.2.2) * g.pn + p.2.1
    | 2 => (p.2.1 * g.pm + p.1) * g.pk + p.2.2
    | 3 => (p.2.1 * g.pk + p.2.2) * g.pm + p.1
    | 4 => (p.2.2 * g.pm + p.1) * g.pn + p.2.1
    | _ => (p.2.2 * g.pn + p.2.1) * g.pm + p.1
  sortBy (fun a b => decide (key a ≤ key b)) run

/-- The shares of a D record with a non-zero step, each as its first position and size, in ORDER (R202). -/
def sharesOf (d : Loop) (g : Grid) : List ((Nat × Nat × Nat) × (Nat × Nat × Nat)) :=
  let sm := if d.stepM = 0 then g.pm else d.stepM
  let sn := if d.stepN = 0 then g.pn else d.stepN
  let sk := if d.stepK = 0 then g.pk else d.stepK
  (orderBox d.order (0, 0, 0) (cdiv g.pm sm, cdiv g.pn sn, cdiv g.pk sk)).map fun p =>
    let lo := (p.1 * sm, p.2.1 * sn, p.2.2 * sk)
    (lo, (min sm (g.pm - lo.1), min sn (g.pn - lo.2.1), min sk (g.pk - lo.2.2)))

/-- R202, R203, R204: the executions of one grid in schedule order: (index in the tile list, position). -/
def gridSchedule (d b : Loop) (g : Grid) (tiles : Nat) : List (Nat × (Nat × Nat × Nat)) :=
  if d.stepM = 0 && d.stepN = 0 && d.stepK = 0 then
    (indexed (splitRuns (orderBox d.order (0, 0, 0) (g.pm, g.pn, g.pk)) tiles)).flatMap fun r =>
      (orderRun b.order g r.2).map fun p => (r.1, p)
  else
    (indexed (sharesOf d g)).flatMap fun s =>
      (orderBox b.order s.2.1 s.2.2).map fun p => (if tiles = 0 then 0 else s.1 % tiles, p)

end Sys2Proof.Machine
end

