-- ==== Sys2Proof/Machine/Matrix.lean ====
section
/-! DEFINITION. Matrix-tile arithmetic: K-block sums, short and long accumulators, side-path folds, chains (R48, R75-R85,
R97). -/
namespace Sys2Proof.Machine

/-- R76: the special outcome of a list of products, if any. -/
def specialSum (ps : List FV) : Option FV :=
  if ps.any (· == .nan) then some .nan
  else
    let p := ps.any (· == .inf false)
    let n := ps.any (· == .inf true)
    if p && n then some .nan else if p then some (.inf false) else if n then some (.inf true) else none

/-- The non-zero finite products. -/
def nonZero (ps : List FV) : List FV := ps.filter fun p => match p with | .fin _ m _ => m != 0 | _ => false

/-- R75 steps 2 to 5: products aligned to the largest, each magnitude cut at the 80th bit below its leading bit (that bit
kept, DEDUCED), and added exactly. -/
def kBlockSum (ps : List FV) : FV :=
  match specialSum ps with
  | some v => v
  | none =>
    match nonZero ps with
    | [] => .fin false 0 0
    | x :: xs =>
      let top := (x :: xs).foldl (fun a p => max a (floorLog2V p)) (floorLog2V x)
      let q := top - 80
      let units := (x :: xs).foldl (fun (acc : Int) p =>
        match p with
        | .fin neg m e =>
          let u : Nat := if q ≤ e then m <<< (e - q).toNat else m >>> (q - e).toNat
          if neg then acc - (u : Int) else acc + (u : Int)
        | _ => acc) 0
      finOfInt units q false

/-- The K-block sum of two rows of 32 values. -/
def dotBlock (a b : List FV) : FV := kBlockSum (a.zipWith mulV b)

/-- R81: a K-block sum added into a short accumulator code. -/
def shortAdd (a : Nat) (v : FV) : Nat := shortFmt.encode (addV (shortFmt.decode a) v)

/-- R82: promotion of a short accumulator into a long one. -/
def promote (long : Word) (short : Nat) : Word := ofV (addV (toV long) (shortFmt.decode short))

/-- R79, R103: the 4-bit residue of a short accumulator's significand. -/
def shortResidue (a : Nat) : Nat :=
  let e := field a 19 12
  let m := a % 2 ^ 12
  (if e = 0 then m else 2 ^ 12 + m) % 15

/-- An output element's accumulators while an execution runs: long, short, K-blocks since the last promotion, and
whether a NaN or Inf was seen in a sum or an accumulator (R76). -/
structure Acc where
  long : Word
  short : Nat := 0
  cnt : Nat := 0
  bad : Bool := false
  deriving DecidableEq, Repr

def nonFiniteV : FV → Bool
  | .fin .. => false
  | _ => true

/-- R84: promotion now. -/
def Acc.promoteNow (a : Acc) : Acc :=
  if a.cnt = 0 then a
  else
    let l := promote a.long a.short
    { long := l, short := 0, cnt := 0, bad := a.bad || !isFinite l }

/-- R81, R84, R85: one K-block sum. At FP32 the sum goes straight into the long accumulator. -/
def Acc.step (fp32k : Bool) (P : Nat) (a : Acc) (v : FV) : Acc :=
  if fp32k then
    let l := ofV (addV (toV a.long) v)
    { a with long := l, bad := a.bad || nonFiniteV v || !isFinite l }
  else
    let s := shortAdd a.short v
    let a' : Acc := { long := a.long, short := s, cnt := a.cnt + 1, bad := a.bad || nonFiniteV v || nonFiniteV (shortFmt.decode s) }
    if a'.cnt ≥ P then a'.promoteNow else a'

/-- One execution's K-blocks into one element, with the promotion at its end (R84). -/
def accRun (fp32k : Bool) (P : Nat) (long : Word) (sums : List FV) : Acc :=
  (sums.foldl (Acc.step fp32k P) { long := long }).promoteNow

/-- R83: P of a promotion field. -/
def promoteP (code : Nat) : Nat := if code = 1 then 4 else if code = 3 then 16 else 8

/-- One block of 32 values of an operand row, with its outliers' indices and the ±6·s they fold back to (R48). -/
structure RowBlk where
  vals : List FV
  outs : List (Nat × FV) := []
  deriving DecidableEq, Repr

/-- R48: outliers beyond the side path's capacity are folded back, in ascending row order. -/
def foldRows : Nat → List RowBlk → List (List FV) × Nat
  | _, [] => ([], 0)
  | cap, r :: rs =>
    let n := r.outs.length
    let keep := min cap n
    let vals := (r.outs.drop keep).foldl (fun (v : List FV) o => v.set o.1 o.2) r.vals
    let rest := foldRows (cap - keep) rs
    (vals :: rest.1, (n - keep) + rest.2)

/-- R48: the outliers of a decoded block, each with its fold value. -/
def rowBlkOf (f : BFmt) (b : Block) : RowBlk :=
  let vals := b.decode f
  match b.side with
  | none => { vals := vals }
  | some sd =>
    if sd.invalid || gz4Scale b.scale = some .nan then { vals := vals }
    else
      let s := (gz4Scale b.scale).getD (.fin false 0 0)
      let six (v : FV) : FV :=
        let neg := match v with | .fin n _ _ => n | .inf n => n | .nan => false
        mulV (.fin neg 6 0) s
      let idx := (if sd.count ≥ 1 then [sd.idx0] else []) ++ (if sd.count ≥ 2 then [sd.idx1] else [])
      { vals := vals, outs := idx.map fun i => (i, six (vals.getD i .nan)) }

/-- R97: one chain addition. -/
def chainAdd (s p : List Word) : List Word := s.zipWith fadd p

/-- R78: the factor c of a product of two tensor scales; +0 selects 1.0 (R196). -/
def tensorScale (s : Word) : Word := if s = 0#32 then one32 else s
def closeScale (sa sb : Word) : Word := fmul (tensorScale sa) (tensorScale sb)

end Sys2Proof.Machine
end

