-- ==== Sys2Proof/Machine/Tile.lean ====
section
/-! DEFINITION. Matrix tiles: the widening ladder, operands, one execution's sums, closes (R48 to R60, R75 to R97, R214 to
R217) and the tile state of R89, R101 to R104. -/
namespace Sys2Proof.Machine

/-- HUB_NUM_POLICY and HUB_TROUBLE_LIMITS as values (R51, R52), at their reset. -/
structure NumPolicy where
  qualityRef : Bool := false
  mxFloor : Bool := false
  gradSr : Bool := true
  widen : Bool := true
  escDisable : Bool := false
  escThreshold : Nat := 0x20
  satLimit : Nat := 0
  flushLimit : Nat := 0
  ratio : Nat := 0x20
  deriving DecidableEq, Repr

/-- Is a format a 4- or 6-bit one (R57). -/
def BFmt.tiny (f : BFmt) : Bool := f == .mxfp4 || f == .gz4 || f == .mxfp6e2m3 || f == .mxfp6e3m2

/-- R198's WIDE_FMT codes. -/
def wideFmtOf (c : Nat) : BFmt := if c = 1 then .fp16 else if c = 2 then .fp32 else .bf16

/-- R56, R57: the rungs of a marked format; stored says an operand buffer is declared in a 4- or 6-bit format. -/
def ladder (mark : BFmt) (stored : Bool) : List BFmt :=
  if mark.isWide then [mark]
  else if mark.tiny && !stored then [mark, .mxfp8e4m3, .bf16]
  else [mark, .bf16]

/-- R67: the rungs in REFERENCE mode. -/
def refLadder (mark : BFmt) (wide : Nat) : List BFmt := if mark.isWide then [mark] else [wideFmtOf wide]

/-- EXEC_FORMAT of R101. -/
def execFormatCode (f : BFmt) : Nat :=
  match f with
  | .gz4 | .mxfp4 => 1
  | .mxfp6e2m3 | .mxfp6e3m2 => 2
  | .fp8e4m3 | .fp8e5m2 | .mxfp8e4m3 | .mxfp8e5m2 => 3
  | .bf16 | .fp16 => 4
  | .fp32 => 5

/-- R72: columns of the native block; rows are 128 except at FP32. -/
def nativeBlock (f : BFmt) : Nat × Nat :=
  match execFormatCode f with
  | 1 => (128, 256) | 2 => (128, 128) | 3 => (128, 128) | 4 => (128, 64) | _ => (32, 16)

/-- One row of an operand for one execution: wide values one by one, or stored blocks. -/
inductive OpRow where
  | wide (xs : List FV)
  | stored (bs : List RowBlk)
  deriving DecidableEq, Repr

/-- An operand in the tile buffer (R226): declared format, rows, and the DA of a poisoned word its move read, if any. -/
structure Operand where
  fmt : BFmt
  rows : List OpRow
  struck : Option Nat := none
  deriving DecidableEq, Repr

/-- An operand as the array reads it, with the events of its quantisation (R49). -/
structure Prep where
  rows : List (List (List FV))
  ev : ConvEv := {}
  folds : Nat := 0
  nanInf : Bool := false
  deriving DecidableEq, Repr

/-- What an execution's quantiser needs to know (R38, R44 to R48): policy, running format, range method, seed and group
size of the rotation, first K index, and how many of the K indices lie within EXT_K. -/
structure QuantCtx where
  pol : NumPolicy
  run : BFmt
  outlier : Bool
  rotate : Bool
  seed : Long
  group : Nat
  k0 : Nat
  nkb : Nat
  kExt : Nat
  deriving DecidableEq, Repr

/-- A wide row as FP32 words, rotated by whole groups where the method says so (R44 to R46). -/
def rotRow (q : QuantCtx) (xs : List FV) : List FV :=
  if !q.rotate then xs
  else
    let ws := xs.map ofV
    let n := if q.group = 0 then 0 else ws.length / q.group
    (((indexed (chunks q.group n ws)).flatMap fun p => rotate q.seed (q.k0 + p.1 * q.group) p.2) ++
      ws.drop (n * q.group)).map toV

/-- R35, R36: one wide value at a running scalar format; an operand no wider than the running format is read as stored, BF16 under
an FP16 mark and FP16 at the BF16 rung among them (R57, R552). -/
def scalarAt (run decl : BFmt) (v : FV) : FV × ConvEv :=
  let same : FV × ConvEv := (v, {})
  let conv (f : BFmt) : FV × ConvEv := let r := f.elem.convert v; (f.elem.decode r.1, { r.2 with nan := 0 })
  match run with
  | .fp32 => same
  | .bf16 => if decl == .fp32 then conv .bf16 else same
  | .fp16 => if decl == .fp32 then conv .fp16 else same
  | _ => conv run

/-- R46, R57: a rotated value is an FP32 one; of an FP16 operand at the BF16 rung it is rounded to FP16. -/
def rotatedAt (run decl : BFmt) (v : FV) : FV × ConvEv :=
  scalarAt (if run == .bf16 && decl == .fp16 then .fp16 else run) .fp32 v

/-- One row as blocks of 32 at the running format, with its events. -/
def quantRow (q : QuantCtx) (decl : BFmt) (row : OpRow) : List RowBlk × ConvEv :=
  match row with
  | .stored bs => (bs, {})
  | .wide xs0 =>
    let xs := (rotRow q xs0).take (32 * q.nkb)
    let cs := chunks 32 (cdiv xs.length 32) xs
    if q.run.isBlock then
      let qs := (indexed cs).map fun c =>
        let valid := (List.range c.2.length).map fun j => q.rotate || decide (q.k0 + 32 * c.1 + j < q.kExt)
        quantBlock q.run (q.outlier && q.run == .gz4) q.pol.mxFloor q.pol.ratio valid c.2
      (qs.map fun b => rowBlkOf q.run b.block, qs.foldl (fun e b => e.add b.ev) {})
    else
      let qs := cs.map fun c => c.map (if q.rotate then rotatedAt q.run decl else scalarAt q.run decl)
      (qs.map fun c => { vals := c.map (·.1) }, qs.foldl (fun e c => c.foldl (fun e p => e.add p.2) e) {})

/-- R48: fold what exceeds the side path in every K-block step of one group block's rows: a step is counted once for the block,
whatever passes the running format takes (DEDUCED, log 133). -/
def foldSteps (cap nkb : Nat) (rows : List (List RowBlk)) : List (List (List FV)) × Nat :=
  let steps := (List.range nkb).map fun kb => foldRows cap (rows.map fun r => r.getD kb { vals := [] })
  ((List.range rows.length).map fun r => steps.map fun s => s.1.getD r [], sumNat (steps.map (·.2)))

/-- R47 to R49: an operand read for one execution; cap is the side path's capacity and blk the rows of one group block. Stored outliers
beyond it are folded at every format, REFERENCE mode's too (DEDUCED, log 132). -/
def prepOperand (q : QuantCtx) (cap blk nkb : Nat) (op : Operand) : Prep :=
  let qr := op.rows.map (quantRow q op.fmt)
  let rows := qr.map (·.1)
  let parts := (chunks blk (cdiv rows.length blk) rows).map (foldSteps cap nkb)
  let raw := op.rows.any fun r => match r with | .wide xs => xs.any nonFiniteV | .stored _ => false
  { rows := parts.flatMap (·.1), ev := qr.foldl (fun e p => e.add p.2) {}, folds := sumNat (parts.map (·.2)),
    nanInf := raw || rows.any (fun r => r.any fun b => b.vals.any nonFiniteV) }

/-- The long accumulators of one group: its place in the arrangement and its rows of words, valid elements only. -/
structure GroupAcc where
  gm : Nat
  gn : Nat
  rows : List (List Word)
  deriving DecidableEq, Repr

/-- What one execution's sums give: new long accumulators, the first short accumulators for a debug capture (R103), and
whether a NaN or Inf was met (R49). -/
structure SumOut where
  groups : List GroupAcc
  nanInf : Bool
  deriving DecidableEq, Repr

/-- R75 to R85: all K-blocks of one execution into one group. -/
def groupSums (fp32k : Bool) (P : Nat) (a b : List (List (List FV))) (g : GroupAcc) : List (List Acc) :=
  (a.zip g.rows).map fun r => (b.zip r.2).map fun c => accRun fp32k P c.2 (r.1.zipWith dotBlock c.1)

/-- The rows of one group block among an operand's rows. -/
def blockRows {α : Type} (rows : List α) (size ix : Nat) : List α := (rows.drop (size * ix)).take size

/-- R75 to R85 over the whole arrangement. -/
def execSums (fp32k : Bool) (P mb nb : Nat) (a b : Prep) (gs : List GroupAcc) : SumOut :=
  let out := gs.map fun g => (g, groupSums fp32k P (blockRows a.rows mb g.gm) (blockRows b.rows nb g.gn) g)
  { groups := out.map fun p => { p.1 with rows := p.2.map fun r => r.map (·.long) },
    nanInf := a.nanInf || b.nanInf || out.any fun p => p.2.any fun r => r.any (·.bad) }

/-- R49: the detectors of one execution, as bits 0 saturation, 1 flush, 2 side path, 3 NaN or Inf. -/
def detectors (pol : NumPolicy) (sat flush folds : Nat) (nanInf : Bool) : Nat :=
  b2n (decide (sat > pol.satLimit)) + 2 * b2n (decide (flush > pol.flushLimit)) + 4 * b2n (decide (folds > 0)) +
  8 * b2n nanInf

/-- R78: the long accumulators of a group at close. -/
def closeGroup (sa sb : Word) (g : GroupAcc) : GroupAcc :=
  let c := closeScale sa sb
  { g with rows := g.rows.map fun r => r.map fun w => fmul w c }

/-- Glue the groups of one execution into rows of its output region: groups of one block row side by side. -/
def regionRows (a b : Nat) (gs : List GroupAcc) : List (List Word) :=
  (List.range a).flatMap fun i =>
    let row := (List.range b).filterMap fun j => gs.find? fun g => g.gm == i && g.gn == j
    match row with
    | [] => []
    | g :: rest => rest.foldl (fun acc h => acc.zipWith (· ++ ·) h.rows) g.rows

/-- One row of output bytes at a place of a stream, and how many of the values it stores are NaN and ±Inf (R110). -/
structure OutBytes where
  da : Nat
  bytes : List Byte
  nans : Nat := 0
  infs : Nat := 0
  deriving DecidableEq, Repr

/-- Element-stream address of row index vector: dimension 0 element c (a multiple of 32 in block formats). -/
def Buf.elemDa (b : Buf) (base c r d2 d3 : Nat) : Nat :=
  base + (if b.fmt.isBlock then c / 32 * b.fmt.blockBytes else c * b.fmt.elemBytes) +
  r * b.stride 1 + d2 * b.stride 2 + d3 * b.stride 3

/-- Address of a block's record in the scale or side stream. -/
def Buf.recDa (b : Buf) (base off rec c r d2 d3 : Nat) : Nat :=
  base + off + c / 32 * rec + r * b.auxStride rec 1 + d2 * b.auxStride rec 2 + d3 * b.auxStride rec 3

/-- How a writer converts: the launch's policy; for gradients (R70, R71) the stochastic values' seed and tile, and the ranges of the
tensors marked E4M3. -/
structure WriteCtx where
  pol : NumPolicy
  seed : Long := 0
  tile : Nat := 0
  grads : List (Nat × Nat) := []
  deriving DecidableEq, Repr

/-- R70, R71: is a block stored at an address a gradient's: MXFP8 with E5M2 elements, or E4M3 where a bucket marks it so (log
126). -/
def WriteCtx.isGrad (w : WriteCtx) (f : BFmt) (da : Nat) : Bool :=
  f == .mxfp8e5m2 || (f == .mxfp8e4m3 && w.grads.any fun g => decide (g.1 ≤ da) && decide (da < g.1 + g.2))

/-- R38 to R43, R71, R215: block of up to 32 values at an address; n0 numbers the first. Padding enters as +0. -/
def WriteCtx.quant (w : WriteCtx) (b : Buf) (da n0 : Nat) (ys : List Word) : QBlock :=
  let vs := ys.map toV ++ List.replicate (32 - ys.length) (FV.fin false 0 0)
  let valid := ys.map (fun _ => true) ++ List.replicate (32 - ys.length) false
  if w.isGrad b.fmt da && w.pol.gradSr then
    quantGrad b.fmt true w.pol.mxFloor ((List.range 32).map fun j => srRandom w.seed w.tile (n0 + j)) vs
  else quantBlock b.fmt b.outliers w.pol.mxFloor w.pol.ratio valid vs

def isNanV : FV → Bool
  | .nan => true
  | _ => false
def isInfV : FV → Bool
  | .inf _ => true
  | _ => false
/-- Bytes with the counts of the stored values they stand for. -/
def OutBytes.of (da : Nat) (bytes : List Byte) (vals : List FV) : OutBytes :=
  { da := da, bytes := bytes, nans := (vals.filter isNanV).length, infs := (vals.filter isInfV).length }

/-- R36, R38 to R43, R50, R107, R215: one row of values from column c0 into a buffer row: bytes and events. n0 numbers the
row's first element within the tile's output (R37). The last block is written whole, padding as +0. -/
def writeRow (w : WriteCtx) (b : Buf) (base c0 r d2 d3 n0 : Nat) (xs : List Word) : List OutBytes × ConvEv :=
  let f := b.fmt
  if !f.isBlock then
    let cs := xs.map fun x => f.elem.convert (toV x)
    ([OutBytes.of (b.elemDa base c0 r d2 d3) (cs.flatMap fun p => leBytes f.elemBytes p.1) (cs.map fun p => f.elem.decode p.1)],
     cs.foldl (fun e p => e.add p.2) {})
  else
    let n := cdiv xs.length 32
    let parts := (List.range n).map fun i =>
      let ys := (xs.drop (32 * i)).take 32
      let c := c0 + 32 * i
      let da := b.elemDa base c r d2 d3
      let q := w.quant b da (n0 + 32 * i) ys
      ([OutBytes.of da (packElems f q.block.codes) ((Block.decode f q.block).take ys.length),
        { da := b.recDa base b.scaleOff 1 c r d2 d3, bytes := [BitVec.ofNat 8 q.block.scale] }] ++
        (if b.outliers then
          [{ da := b.recDa base b.sideOff 6 c r d2 d3, bytes := leBytes 6 ((q.block.side.getD {}).toNat) }]
         else []), q.ev)
    (parts.flatMap (·.1), parts.foldl (fun e p => e.add p.2) {})

/-- R196: one stored block of a buffer row. -/
def readBlock (m : Mem) (b : Buf) (base c r d2 d3 : Nat) : Block :=
  { codes := unpackElems b.fmt (m.readBytes (b.elemDa base c r d2 d3) b.fmt.blockBytes),
    scale := (m.read (b.recDa base b.scaleOff 1 c r d2 d3)).toNat,
    side := if b.outliers then some (Side.ofNat (m.readNat (b.recDa base b.sideOff 6 c r d2 d3) 6)) else none }

/-- R214: keep a decoded block's elements below the extent, the rest +0, and drop outliers of the padding. -/
def maskBlk (n : Nat) (b : RowBlk) : RowBlk :=
  { vals := (indexed b.vals).map fun p => if p.1 < n then p.2 else FV.fin false 0 0,
    outs := b.outs.filter fun o => decide (o.1 < n) }

/-- R214: n elements of a buffer row from element c0 (a multiple of 32), elements at or beyond ext reading as +0. -/
def readRow (m : Mem) (b : Buf) (base c0 n ext r d2 d3 : Nat) : OpRow :=
  if b.fmt.isBlock then
    .stored ((List.range (cdiv n 32)).map fun i =>
      let c := c0 + 32 * i
      if ext ≤ c then { vals := List.replicate 32 (FV.fin false 0 0) }
      else maskBlk (ext - c) (rowBlkOf b.fmt (readBlock m b base c r d2 d3)))
  else
    let elem (c : Nat) : FV := b.fmt.elem.decode (m.readNat (b.elemDa base c r d2 d3) b.fmt.elemBytes)
    let xs := (List.range n).map fun i => if c0 + i < ext then elem (c0 + i) else FV.fin false 0 0
    if b.fmt.isWide then .wide xs
    else .stored ((chunks 32 (cdiv n 32) xs).map fun c => { vals := c })

/-- The byte ranges a read of n elements of a row touches, for poison (R504). -/
def rowRanges (b : Buf) (base c0 n ext r d2 d3 : Nat) : List (Nat × Nat) :=
  let n' := min n (ext - c0)
  if n' = 0 then []
  else if b.fmt.isBlock then
    let k := cdiv n' 32
    [(b.elemDa base c0 r d2 d3, k * b.fmt.blockBytes), (b.recDa base b.scaleOff 1 c0 r d2 d3, k)] ++
    (if b.outliers then [(b.recDa base b.sideOff 6 c0 r d2 d3, 6 * k)] else [])
  else [(b.elemDa base c0 r d2 d3, n' * b.fmt.elemBytes)]

/-- The first poisoned word among byte ranges. -/
def Mem.struckIn (m : Mem) (rs : List (Nat × Nat)) : Option Nat :=
  (rs.filterMap fun p => m.firstPoison p.1 p.2).head?

/-- R87, R93, R217: time of an execution of n K-blocks over the arrangement at a running format, in ac; w is the bytes of the
last close's block, 0 when nothing closes. -/
def execTime (run : BFmt) (blk : Nat × Nat) (groups n w : Nat) : Nat :=
  let nat_ := nativeBlock run
  let passes := cdiv blk.1 nat_.1 * cdiv blk.2 nat_.2
  36 + 32 * (n * groups * max passes 1) + cdiv w 512

end Sys2Proof.Machine
end

