-- ==== Sys2Proof/Machine/Vector.lean ====
section
/-! DEFINITION. Vector units: operations on rows, reductions, softmax and norms (R105 to R110, R127 to R142). -/
namespace Sys2Proof.Machine

/-- R109: combine lanes pairwise in eight stages. -/
def treeStage (f : Word → Word → Word) (k : Nat) (ls : List Word) : List Word :=
  (indexed ls).map fun p => if p.1 % 2 ^ (k + 1) = 0 then f p.2 (ls.getD (p.1 + 2 ^ k) 0) else p.2

/-- R109: lane l's elements in ascending order. -/
def laneElems (xs : List Word) (l : Nat) : List Word :=
  ((indexed xs).filter fun p => p.1 % 256 == l).map (·.2)

/-- R109: a reduction; start combines a lane's first element, step the rest. -/
def reduceRow (idle : Word) (start : Word → Word) (step f : Word → Word → Word) (xs : List Word) : Word :=
  let lanes := (List.range 256).map fun l =>
    match laneElems xs l with
    | [] => idle
    | x :: r => r.foldl step (start x)
  ((List.range 8).foldl (fun ls k => treeStage f k ls) lanes).getD 0 0

def rsum (xs : List Word) : Word := reduceRow 0#32 id fadd fadd xs
/-- R108: squares enter by FMA. A lane starts from +0, so its first square rounds once as fma(x, x, +0). -/
def rsumsq (xs : List Word) : Word := reduceRow 0#32 (fun x => ffma x x 0#32) (fun acc x => ffma x x acc) fadd xs
def rmax (xs : List Word) : Word := reduceRow ninf id fmax fmax xs
def rmin (xs : List Word) : Word := reduceRow pinf id fmin fmin xs

/-- R108: CMP. -/
def fcmp (mode : Nat) (a b : Word) : Word :=
  let r :=
    match mode with
    | 0 => eqV (toV a) (toV b)
    | 1 => flt a b
    | _ => flt a b || eqV (toV a) (toV b)
  if r then one32 else 0#32

/-- R108: SELECT and CLAMP. -/
def fselect (c a b : Word) : Word := if isZeroV (toV c) then b else a
def fclamp (x bound : Word) : Word := let b := bound &&& 0x7FFFFFFF#32; fmin (fmax x (fneg b)) b

/-- R108: an elementwise operation of one, two or three operands; none for other codes. -/
def elementOp (ver : Word) (op flags : Nat) (param : Word) (a b c : Word) : Option Word :=
  match op with
  | 0x01 => some (fadd a b) | 0x02 => some (fsub a b) | 0x03 => some (fmul a b) | 0x04 => some (ffma a b c)
  | 0x05 => some (fmin a b) | 0x06 => some (fmax a b) | 0x07 => some (fabs a) | 0x08 => some (fneg a)
  | 0x09 => some (fcmp flags a b) | 0x0A => some (fselect a b c) | 0x0B => some (fclamp a param)
  | 0x0C => some (fdiv a b) | 0x0D => some (frecip a) | 0x0E => some (fsqrt a) | 0x0F => some (frsqrt ver a)
  | 0x10 | 0x11 | 0x12 => some a
  | _ => none

/-- What an operation gives for one row: its outputs, clamp events, status byte (R129, R138) and statistics: m and s of SOFTMAX; μ, v
and r of the norms. -/
structure RowOut where
  vals : List Word
  clamps : Nat := 0
  status : Nat := 0
  stats : List Word := []
  deriving DecidableEq, Repr

/-- R127, R128: SOFTMAX of a row's valid inputs, padded with +0 to n elements. -/
def softmaxRow (ver : Word) (n : Nat) (inputs : List Word) : RowOut :=
  let pad := List.replicate (n - inputs.length) 0#32
  let m := rmax inputs
  if inputs.any isNaN then { vals := inputs.map (fun _ => qnan) ++ pad, status := 4, stats := [m, qnan] }
  else if inputs.isEmpty || m = ninf then { vals := inputs.map (fun _ => 0#32) ++ pad, status := 1, stats := [m, 0#32] }
  else if m = pinf then
    let k := (inputs.filter (· == pinf)).length
    { vals := (inputs.map fun x => if x = pinf then fdiv one32 (natF k) else 0#32) ++ pad, status := 2, stats := [m, natF k] }
  else if inputs.length = 1 then { vals := one32 :: pad, stats := [m, one32] }
  else
    let es := inputs.map fun x => fexp ver (fsub x m)
    let s := rsum es
    { vals := (es.map fun e => fdiv e s) ++ pad, stats := [m, s] }

/-- Statistics of a row: μ, v, the deviations, clamp events, and whether they are NaN by R133. -/
structure Stats where
  mu : Word
  v : Word
  clamps : Nat := 0
  nan : Bool := false
  deriving DecidableEq, Repr

/-- R133 to R135: mean and variance; single selects the single-pass mode. -/
def rowStats (single : Bool) (xs : List Word) : Stats :=
  match xs with
  | [] => { mu := 0#32, v := 0#32 }
  | x0 :: _ =>
    let n := natF xs.length
    let d := xs.map fun x => fsub x x0
    if !single && (d.any isInf || d.any isNaN) then { mu := qnan, v := qnan, nan := true }
    else if single then
      let a := fdiv (rsum d) n
      let q := fdiv (rsumsq d) n
      let w := fsub q (fmul a a)
      { mu := fadd x0 a, v := fmax w 0#32, clamps := if flt w 0#32 then 1 else 0, nan := isNaN w }
    else
      let mu := fadd x0 (fdiv (rsum d) n)
      let q := rsumsq (xs.map fun x => fsub x mu)
      { mu := mu, v := fdiv q n }

/-- R136: merge the partials of two chunks, lower chunk first. -/
def mergeStats (a b : Word × Word × Word) : Word × Word × Word :=
  let d := fsub b.2.1 a.2.1
  let n := fadd a.1 b.1
  let mu := fadd a.2.1 (fmul d (fdiv b.1 n))
  let m := fadd (fadd a.2.2 b.2.2) (fmul (fmul d d) (fdiv (fmul a.1 b.1) n))
  (n, mu, m)

/-- R136: the statistics of a row whose parts of up to part elements lie in several executions: each part's, merged in ascending
order, with M = n × v and the final v = DIV(M, n). -/
def splitStats (single : Bool) (part : Nat) (xs : List Word) : Stats :=
  match chunks part (cdiv xs.length part) xs with
  | [] => rowStats single xs
  | [_] => rowStats single xs
  | c :: cs =>
    let one (c : List Word) : Stats × (Word × Word × Word) :=
      let st := rowStats single c
      (st, natF c.length, st.mu, fmul (natF c.length) st.v)
    let parts := one c :: cs.map one
    let t := (parts.drop 1).foldl (fun a p => mergeStats a p.2) (one c).2
    if parts.any fun p => p.1.nan then { mu := qnan, v := qnan, nan := true, clamps := sumNat (parts.map fun p => p.1.clamps) }
    else { mu := t.2.1, v := fdiv t.2.2 t.1, clamps := sumNat (parts.map fun p => p.1.clamps) }

/-- R137: LAYERNORM, and GROUPNORM on one group. -/
def layerNorm (ver : Word) (st : Stats) (eps : Word) (xs gamma beta : List Word) : RowOut :=
  let ve := fadd st.v eps
  let r := frsqrt ver ve
  if st.nan then { vals := xs.map fun _ => qnan, clamps := st.clamps, status := 4, stats := [qnan, qnan, qnan] }
  else if ve = 0#32 then { vals := beta, clamps := st.clamps, status := 8, stats := [st.mu, st.v, r] }
  else
    { vals := (xs.zip (gamma.zip beta)).map fun p => ffma (fmul (fsub p.1 st.mu) r) p.2.1 p.2.2,
      clamps := st.clamps, stats := [st.mu, st.v, r] }

/-- R137: RMSNORM. Its statistics have no mean: μ is +0 and v is q (log 88). -/
def rmsNorm (ver : Word) (eps : Word) (xs gamma : List Word) : RowOut :=
  let q := fdiv (rsumsq xs) (natF xs.length)
  let qe := fadd q eps
  let r := frsqrt ver qe
  if qe = 0#32 then { vals := xs.map fun _ => 0#32, status := 8, stats := [0#32, q, r] }
  else { vals := (xs.zip gamma).map fun p => fmul (fmul p.1 r) p.2, stats := [0#32, q, r] }

/-- R105: the register file after a row went through it: element i in word i mod 256 of register i / 256. A longer row leaves what
stood there, for it is read again from memory (R131). -/
def fileOf (row : List Word) (old : List (Nat × Word)) : List (Nat × Word) :=
  if 65536 < row.length then old else (indexed row).filter fun p => p.2 != 0#32

/-- R140: one convolution output: bias, then one FMA per in-range tap and channel, given the (input, weight) pairs in tap
order. -/
def convOut (bias : Word) (taps : List (Word × Word)) : Word := taps.foldl (fun acc p => ffma p.1 p.2 acc) bias

end Sys2Proof.Machine
end

