-- ==== Sys2Proof/Machine/Attn.lean ====
section
/-! DEFINITION. The attention pipeline: the pattern descriptor, key validity, visit order, the softmax stage and the finish
of a row (R143 to R162). -/
namespace Sys2Proof.Machine

/-- A pattern descriptor (R152). -/
structure Pattern where
  hd : Nat
  brick : Nat
  gridT : Nat
  gridH : Nat
  gridW : Nat
  causal : Nat
  chunkT : Nat
  winTB : Nat
  winTA : Nat
  winHB : Nat
  winHA : Nat
  winWB : Nat
  winWA : Nat
  globalCount : Nat
  gq : Bool
  pBf16 : Bool
  scale : Word
  globalList : Nat
  keyRun : Nat
  keySplits : Nat
  g : Nat
  writeStatus : Bool
  writeMl : Bool
  deriving DecidableEq, Repr

/-- R152: brick extents T × H × W. -/
def brickExt : Nat → Nat × Nat × Nat
  | 1 => (1, 8, 16) | 2 => (1, 16, 8) | 3 => (2, 8, 8) | 4 => (4, 4, 8) | 5 => (1, 4, 32) | _ => (1, 1, 128)

/-- R152, R156: read a descriptor; none for ST_ATTN_PATTERN. -/
def parsePattern (r : List Byte) : Option Pattern :=
  let p : Pattern :=
    { hd := bytesAt r 2 2, brick := bytesAt r 3 3, gridT := bytesAt r 5 4, gridH := bytesAt r 7 6, gridW := bytesAt r 9 8,
      causal := bytesAt r 10 10, chunkT := bytesAt r 11 11, winTB := bytesAt r 13 12, winTA := bytesAt r 15 14,
      winHB := bytesAt r 17 16, winHA := bytesAt r 19 18, winWB := bytesAt r 21 20, winWA := bytesAt r 23 22,
      globalCount := bytesAt r 25 24, gq := bit (bytesAt r 26 26) 0, pBf16 := bytesAt r 27 27 == 1,
      scale := wordAt r 28, globalList := bytesAt r 37 32, keyRun := bytesAt r 41 40, keySplits := bytesAt r 42 42,
      g := bytesAt r 43 43, writeStatus := bit (bytesAt r 44 44) 0, writeMl := bit (bytesAt r 44 44) 1 }
  let seq := p.brick == 0
  let ok :=
    bytesAt r 1 0 == 1 && decide (p.hd ≤ 4) && decide (p.brick ≤ 5) && decide (p.causal ≤ 2) &&
    decide (bytesAt r 26 26 < 2) && decide (bytesAt r 27 27 ≤ 1) && zeroAt r 39 38 && decide (bytesAt r 44 44 < 4) &&
    zeroAt r 63 45 && decide (1 ≤ p.keySplits) && decide (p.keySplits ≤ 64) && [1, 2, 4, 8, 16].contains p.g &&
    decide (p.globalCount ≤ 4096) && isFinite p.scale && (p.scale == 0x80000000#32 || !signOf p.scale) &&
    (if seq then p.gridT == 0 && p.gridH == 0 && p.gridW == 0 && p.winTB == 0 && p.winTA == 0 && p.winHB == 0 && p.winHA == 0
     else p.gridT != 0 && p.gridH != 0 && p.gridW != 0 && p.g == 1) &&
    (if p.causal = 1 then seq
     else if p.causal = 2 then !seq && decide (1 ≤ p.chunkT) && p.chunkT % (brickExt p.brick).1 == 0
     else true) &&
    (p.causal == 2 || p.chunkT == 0)
  if ok then some p else none

/-- R152: the scale; +0 selects 1/√d rounded to FP32. -/
def Pattern.scaleWord (p : Pattern) (d : Nat) : Word :=
  if p.scale = 0#32 then
    ofV (divV (.fin false 1 0) (sqrtV (.fin false d 0)))
  else p.scale

/-- Bricks along each axis of the padded grid (R153). -/
def Pattern.bricks (p : Pattern) : Nat × Nat × Nat :=
  let b := brickExt p.brick
  (cdiv p.gridT b.1, cdiv p.gridH b.2.1, cdiv p.gridW b.2.2)

/-- R153: position (t, h, w) of a storage index; in sequence mode (0, 0, index). -/
def Pattern.pos (p : Pattern) (n : Nat) : Nat × Nat × Nat :=
  if p.brick = 0 then (0, 0, n)
  else
    let b := brickExt p.brick
    let nb := p.bricks
    let blk := n / 128
    let i := n % 128
    let bt := blk / (nb.2.1 * nb.2.2)
    let bh := blk / nb.2.2 % nb.2.1
    let bw := blk % nb.2.2
    (bt * b.1 + i / (b.2.1 * b.2.2), bh * b.2.1 + i / b.2.2 % b.2.1, bw * b.2.2 + i % b.2.2)

/-- R153: is a storage index a pad position. -/
def Pattern.isPad (p : Pattern) (n : Nat) : Bool :=
  p.brick != 0 &&
    (let q := p.pos n
     decide (q.1 ≥ p.gridT) || decide (q.2.1 ≥ p.gridH) || decide (q.2.2 ≥ p.gridW))

/-- Key blocks of a kernel: bricks of the padded grid, or blocks of 128 tokens below ℓ_k. -/
def Pattern.keyBlocks (p : Pattern) (lk : Nat) : Nat :=
  if p.brick = 0 then cdiv lk 128 else p.bricks.1 * p.bricks.2.1 * p.bricks.2.2

/-- One axis of a window: an extent of 0xFFFF is unbounded. -/
def inWin (q k before after : Nat) : Bool :=
  (before == 0xFFFF || decide (q ≤ k + before)) && (after == 0xFFFF || decide (k ≤ q + after))

/-- R154, R157: is key k valid for query q; globals is the global list. -/
def Pattern.valid (p : Pattern) (lk : Nat) (globals : List Nat) (q k : Nat) : Bool :=
  let pq := p.pos q
  let pk := p.pos k
  !p.isPad k && decide (k < lk) &&
  (match p.causal with
   | 0 => true
   | 1 => decide (k ≤ q)
   | _ => decide (pk.1 / p.chunkT ≤ pq.1 / p.chunkT)) &&
  ((inWin pq.1 pk.1 p.winTB p.winTA && inWin pq.2.1 pk.2.1 p.winHB p.winHA && inWin pq.2.2 pk.2.2 p.winWB p.winWA) ||
   globals.contains k || (p.gq && globals.contains q))

/-- Inclusive box of a block in the padded grid, or its token range (R155). -/
structure Box where
  t0 : Nat
  t1 : Nat
  h0 : Nat
  h1 : Nat
  w0 : Nat
  w1 : Nat
  deriving DecidableEq, Repr

/-- The box that spans storage indices [a, b]; within a brick these are the brick's corners. -/
def Pattern.box (p : Pattern) (a b : Nat) : Box :=
  let x := p.pos a
  let y := p.pos b
  ⟨min x.1 y.1, max x.1 y.1, min x.2.1 y.2.1, max x.2.1 y.2.1, min x.2.2 y.2.2, max x.2.2 y.2.2⟩

/-- Do two ranges meet once the first is widened by the window. -/
def meets (q0 q1 k0 k1 before after : Nat) : Bool :=
  (before == 0xFFFF || decide (q0 ≤ k1 + before)) && (after == 0xFFFF || decide (k0 ≤ q1 + after))

/-- The query tokens of query block qb: first and last storage index among valid rows (R153). -/
def Pattern.queryRange (p : Pattern) (qpos count qb : Nat) : Nat × Nat :=
  let per := 128 / p.g
  (qpos + qb * per, qpos + min ((qb + 1) * per) count - 1)

/-- R155: does the sequencer visit ordinary key block b for query block qb. -/
def Pattern.visits (p : Pattern) (lk : Nat) (globals : List Nat) (qpos count qb b : Nat) : Bool :=
  let qr := p.queryRange qpos count qb
  let qa := if p.brick = 0 then qr.1 else qr.1 / 128 * 128
  let qz := if p.brick = 0 then qr.2 else qr.1 / 128 * 128 + 127
  let kb := p.box (128 * b) (128 * b + 127)
  let qx := p.box qa qz
  let holdsKey := (List.range 128).any fun i => !p.isPad (128 * b + i) && (p.brick != 0 || decide (128 * b + i < lk))
  let causalOk :=
    match p.causal with
    | 0 => true
    | 1 => decide (128 * b ≤ qr.2)
    | _ => decide (kb.t0 / p.chunkT ≤ qx.t1 / p.chunkT)
  let glob := p.gq && globals.any fun x => decide (qa ≤ x) && decide (x ≤ qz)
  holdsKey && causalOk &&
  (glob || (meets qx.t0 qx.t1 kb.t0 kb.t1 p.winTB p.winTA && meets qx.h0 qx.h1 kb.h0 kb.h1 p.winHB p.winHA &&
            meets qx.w0 qx.w1 kb.w0 kb.w1 p.winWB p.winWA))

/-- A visited block: a gathered global block or an ordinary key block (R149). -/
inductive Visit where
  | gathered (i : Nat)
  | ordinary (b : Nat)
  deriving DecidableEq, Repr

/-- R149: the visited list of a query block. -/
def Pattern.visitList (p : Pattern) (lk : Nat) (globals : List Nat) (qpos count qb : Nat) : List Visit :=
  ((List.range (cdiv p.globalCount 128)).map .gathered) ++
  (((List.range (p.keyBlocks lk)).filter fun b => p.visits lk globals qpos count qb b).map .ordinary)

/-- R151, R159: parts of a visited list, each cut into runs of KEY_RUN blocks; an empty part is one empty run. -/
def Pattern.runsOf (p : Pattern) (vs : List Visit) : List (List (List Visit)) :=
  (splitRuns vs p.keySplits).map fun part =>
    if part.isEmpty then [[]] else chunks p.keyRun (cdiv part.length p.keyRun) part

/-- The keys of a visited block: storage indices, none for the padding of a gathered block. -/
def Visit.keys (globals : List Nat) : Visit → List (Option Nat)
  | .gathered i => (List.range 128).map fun c => globals[128 * i + c]?
  | .ordinary b => (List.range 128).map fun c => some (128 * b + c)

/-- Is the key of a place masked for a query: R154, and in an ordinary block a global key (R154's last sentence). -/
def Pattern.masked (p : Pattern) (lk : Nat) (globals : List Nat) (v : Visit) (q : Nat) (k : Option Nat) : Bool :=
  match k with
  | none => true
  | some k =>
    !p.valid lk globals q k || (match v with | .ordinary _ => globals.contains k | .gathered _ => false)

/-- A query row's running values (R146), with what R148 asks: was a valid score not finite, how many valid keys, and the
value row of the only one so far. -/
structure AttnRow where
  m : Word := 0xFF800000#32
  l : Word := 0#32
  o : List Word
  bad : Bool := false
  valid : Nat := 0
  single : List FV := []
  deriving DecidableEq, Repr

/-- R145: weights in P_FORMAT, blocks of 32 keys, exact values. -/
def quantP (bf16P floorRule : Bool) (ps : List Word) : List FV :=
  if bf16P then ps.map fun x => bf16.decode (bf16.encode (toV x))
  else
    (chunks 32 4 ps).flatMap fun c =>
      (quantBlock .mxfp8e4m3 false floorRule 0x20 (c.map fun _ => true) (c.map toV)).block.decode .mxfp8e4m3

/-- Exact sum of values. -/
def exactSum (vs : List FV) : FV := vs.foldl addV (.fin false 0 0)

/-- R147: the value tile's short accumulator for one output element over the key block. -/
def valueShort (ph vcol : List FV) : Nat :=
  ((chunks 32 4 ph).zip (chunks 32 4 vcol)).foldl (fun s p => shortAdd s (dotBlock p.1 p.2)) 0

/-- R146, R147: one key block for one query row: scaled, masked scores z and the 128 value rows. A block in which every key is masked
leaves the row as it is (R150). -/
def attnStep (ver : Word) (bf16P floorRule : Bool) (d : Nat) (z : List Word) (masks : List Bool) (v : List (List FV))
    (r : AttnRow) : AttnRow :=
  if masks.all id then r
  else
  let bm := z.foldl fmax ninf
  let mn := fmax r.m bm
  let a := if mn = r.m then one32 else fexp ver (fsub r.m mn)
  let p := z.map fun x => if x = ninf then 0#32 else fexp ver (fsub x mn)
  let ph := quantP bf16P floorRule p
  let l := ofV (addV (mulV (toV a) (toV r.l)) (exactSum ph))
  let o := (List.range d).map fun i =>
    let sh := valueShort ph (v.map fun row => row.getD i (.fin false 0 0))
    ofV (addV (mulV (toV a) (toV (r.o.getD i 0))) (shortFmt.decode sh))
  let scored := (z.zip masks).filter fun e => !e.2
  let newBad := scored.any fun e => !isFinite e.1
  let n := r.valid + scored.length
  let sing :=
    if r.valid = 0 && scored.length = 1 then
      match (indexed masks).find? fun e => !e.2 with
      | some e => v.getD e.1 []
      | none => r.single
    else r.single
  { m := mn, l := l, o := o, bad := r.bad || newBad, valid := n, single := sing }

/-- R151: how values of two partials merge, from the partials' maxima, earlier part first. -/
def attnJoin (ver ma mb : Word) (x y : Word) : Word :=
  let m := fmax ma mb
  let aa := if ma = m then one32 else fexp ver (fsub ma m)
  let ab := if mb = m then one32 else fexp ver (fsub mb m)
  ofV (addV (mulV (toV aa) (toV x)) (mulV (toV ab) (toV y)))

/-- R151: merge two partials of a row, earlier part first. -/
def attnMerge (ver : Word) (a b : AttnRow) : AttnRow :=
  let join := attnJoin ver a.m b.m
  { m := fmax a.m b.m, l := join a.l b.l, o := a.o.zipWith join b.o, bad := a.bad || b.bad, valid := a.valid + b.valid,
    single := if a.valid = 0 then b.single else a.single }

/-- A finished row: output values, row sum, status byte of R129. -/
structure AttnOut where
  vals : List Word
  l : Word
  status : Nat
  deriving DecidableEq, Repr

/-- R151: a partial as a chain carries it: a segment of 1,024 words with every m and then every l, and the rows of O. A row that holds a
valid score that is not finite travels with m a NaN (DEDUCED, log 140). -/
def attnPartial (rows : List AttnRow) : List (List Word) :=
  let h := rows.map (fun r => if r.bad then qnan else r.m) ++ rows.map (·.l)
  (h ++ List.replicate (1024 - h.length) 0#32) :: rows.map (·.o)

/-- R151: one segment of a chain's running value after a member: got and own are the segment received and its own, gotHead and ownHead
their segments of m and l, d the width of O. -/
def attnSegment (ver : Word) (d seg : Nat) (gotHead ownHead got own : List Word) : List Word :=
  let at_ (xs : List Word) (i : Nat) : Word := xs.getD i 0#32
  if seg = 0 then
    (indexed (got.zip own)).map fun x =>
      if x.1 < 128 then fmax x.2.1 x.2.2
      else if x.1 < 256 then attnJoin ver (at_ gotHead (x.1 - 128)) (at_ ownHead (x.1 - 128)) x.2.1 x.2.2
      else 0#32
  else
    (indexed (got.zip own)).map fun x =>
      let r := (1024 * (seg - 1) + x.1) / max 1 d
      attnJoin ver (at_ gotHead r) (at_ ownHead r) x.2.1 x.2.2

/-- A row of a chain's last running value, for its finish: with a finite m, O over l is the only valid key's value too (R148). -/
def attnRowOf (head o : List Word) (r : Nat) : AttnRow :=
  let m := head.getD r 0#32
  { m := m, l := head.getD (128 + r) 0#32, o := o, bad := !isFinite m && m != ninf, valid := if m = ninf then 0 else 2 }

/-- R148: finish a row. -/
def attnFinish (r : AttnRow) : AttnOut :=
  if r.bad then { vals := r.o.map fun _ => qnan, l := qnan, status := 4 }
  else if r.valid = 0 then { vals := r.o.map fun _ => 0#32, l := 0#32, status := 1 }
  else if r.valid = 1 then { vals := r.single.map ofV, l := one32, status := 0 }
  else { vals := r.o.map fun x => fdiv x r.l, l := r.l, status := 0 }

/-- R159, R164: score and value times per key block. -/
def attnTimes (d : Nat) (bf16Score bf16Value : Bool) : Nat × Nat :=
  let s := if bf16Score then 2 * d else d
  let v := if bf16Value then (if d = 64 then 128 else if d = 96 then 256 else 2 * d) else (if d ≤ 128 then 128 else 256)
  (s, v)

/-- R159: time of an execution of kr key blocks; f is d + W in a final execution, else 0. -/
def attnTime (d : Nat) (bf16Score bf16Value : Bool) (kr f : Nat) : Nat :=
  let t := attnTimes d bf16Score bf16Value
  let sigma := max t.1 (max 128 t.2)
  200 + t.1 + t.2 + sigma * (kr - 1) + f

end Sys2Proof.Machine
end

