-- ==== Sys2Proof/Machine/Pixel.lean ====
section
/-! DEFINITION. The convolution engine: pixel records, extents, passes, padding, one output element (R301 to R309). -/
namespace Sys2Proof.Machine

/-- One axis of a convolution: kernel extent, stride, dilation, padding before and after, upsampling. -/
structure ConvAxis where
  k : Nat
  st : Nat
  dl : Nat
  pb : Nat
  pa : Nat
  up : Nat
  deriving DecidableEq, Repr

/-- A pixel kernel record (R302). -/
structure PixelRec where
  wheels : Nat
  padMode : Nat
  dims : Nat
  cIn : Nat
  cOut : Nat
  groups : Nat
  t : ConvAxis
  h : ConvAxis
  w : ConvAxis
  execPos : Nat
  deriving DecidableEq, Repr

/-- R302, R309: read a record; none where a field is out of range. -/
def parsePixel (r : List Byte) : Option PixelRec :=
  let b (i : Nat) : Nat := bytesAt r i i
  let ax (i up : Nat) : ConvAxis :=
    { k := b (10 + i), st := b (13 + i), dl := b (16 + i), pb := b (19 + 2 * i), pa := b (20 + 2 * i), up := up }
  let p : PixelRec :=
    { wheels := b 1, padMode := b 2, dims := b 3, cIn := bytesAt r 5 4, cOut := bytesAt r 7 6, groups := bytesAt r 9 8,
      t := ax 0 1, h := ax 1 (b 25), w := ax 2 (b 26), execPos := bytesAt r 31 28 }
  let axOk (a : ConvAxis) : Bool :=
    decide (1 ≤ a.k) && decide (a.k ≤ 15) && decide (1 ≤ a.st) && decide (1 ≤ a.dl) && [1, 2, 4].contains a.up
  let ok :=
    b 0 == 1 && p.wheels != 0 && decide (p.wheels < 4) && decide (p.padMode ≤ 2) && (p.dims == 2 || p.dims == 3) &&
    decide (1 ≤ p.cIn) && decide (p.cIn ≤ 8192) && decide (1 ≤ p.cOut) && decide (p.cOut ≤ 8192) && p.groups != 0 &&
    p.cIn % p.groups == 0 && p.cOut % p.groups == 0 && axOk p.t && axOk p.h && axOk p.w && (p.dims == 3 || p.t.k == 1) &&
    zeroAt r 27 27 && decide (1 ≤ p.execPos) && decide (p.execPos ≤ 2 ^ 20) && zeroAt r 127 32
  if ok then some p else none

/-- R303: the output extent along an axis, 0 for none. -/
def ConvAxis.out (a : ConvAxis) (i : Nat) : Nat :=
  let span := i * a.up + a.pb + a.pa
  let need := a.dl * (a.k - 1) + 1
  if span < need then 0 else (span - need) / a.st + 1

/-- R303: can a reflect pad be formed over an input extent. -/
def ConvAxis.reflectOk (a : ConvAxis) (i : Nat) : Bool := decide (a.pb < i * a.up) && decide (a.pa < i * a.up)

/-- R303: the input sample of tap j at output position o along an axis; none for zero padding. -/
def ConvAxis.source (a : ConvAxis) (mode i o j : Nat) : Option Nat :=
  let n : Int := ((i * a.up : Nat) : Int)
  let x : Int := ((o * a.st + j * a.dl : Nat) : Int) - (a.pb : Int)
  let y : Int :=
    if 0 ≤ x && x < n then x
    else if mode = 1 then (if x < 0 then 0 else n - 1)
    else if mode = 2 then (if x < 0 then -x else 2 * (n - 1) - x)
    else x
  if 0 ≤ y && y < n then some (y.toNat / a.up) else none

/-- A reduction term: tap (t, h, w) and channel within the group. -/
abbrev Term := (Nat × Nat × Nat) × Nat

/-- R301: taps by ascending t, then h, then w. -/
def PixelRec.taps (p : PixelRec) : List (Nat × Nat × Nat) :=
  (List.range p.t.k).flatMap fun t => (List.range p.h.k).flatMap fun h => (List.range p.w.k).map fun w => (t, h, w)

/-- R301: the passes of one output position, for a term width R. -/
def PixelRec.passes (p : PixelRec) (R : Nat) : List (List Term) :=
  let cg := p.cIn / p.groups
  let taps := p.taps
  let n := taps.length
  if n ≤ R then
    let c := min cg (R / n)
    (List.range (cdiv cg c)).map fun j =>
      taps.flatMap fun t => (List.range (min ((j + 1) * c) cg - j * c)).map fun i => (t, j * c + i)
  else
    (List.range cg).flatMap fun ch => (chunks R (cdiv n R) taps).map fun ts => ts.map fun t => (t, ch)

/-- R301: ac per output position. -/
def PixelRec.costPer (p : PixelRec) (R : Nat) : Nat :=
  p.groups * cdiv (p.cOut / p.groups) 128 * (p.passes R).length

/-- R304: one output element from the products of its passes. -/
def pixelElement (passes : List (List FV)) (c bias : Word) : Word :=
  let acc := passes.foldl (fun a ps => ofV (addV (toV a) (kBlockSum ps))) 0#32
  ffma acc c bias

/-- R307: rows and frames that positions [a, b] of the raster touch, and the bytes of the region, per column byte. -/
def PixelRec.regionBytes (p : PixelRec) (iW iH iT bytes : Nat) (oh ow a b : Nat) : Nat :=
  let t0 := a / (oh * ow)
  let t1 := b / (oh * ow)
  let h0 := if t0 = t1 then a / ow % oh else 0
  let h1 := if t0 = t1 then b / ow % oh else oh - 1
  let touched (ax : ConvAxis) (i o0 o1 : Nat) : Nat :=
    let xs := (List.range (o1 + 1 - o0)).flatMap fun o => (List.range ax.k).filterMap fun j => ax.source 1 i (o0 + o) j
    (List.range i).filter (fun x => xs.contains x) |>.length
  touched p.t iT t0 t1 * touched p.h iH h0 h1 * iW * p.cIn * bytes

end Sys2Proof.Machine
end

