-- ==== Sys2Proof/Machine/Slip.lean ====
section
/-! DEFINITION. Slip coding: code tables, blocks, lanes, forerunner streams and their checks (R252 to R272). -/
namespace Sys2Proof.Machine

/-- A code table (R260): width of its symbols, identifier, and the length of each symbol's code. -/
structure SlipTable where
  expBits : Nat
  id : Nat
  lens : List Nat
  deriving DecidableEq, Repr

/-- R262: read a table; none for ST_SLIP_TABLE_FORMAT. -/
def slipNibbles (bs : List Byte) (lo n : Nat) : List Nat :=
  (List.range n).map fun s => field (bytesAt bs (lo + s / 2) (lo + s / 2)) (4 * (s % 2) + 3) (4 * (s % 2))

/-- R262: the sum of 2^-length over coded symbols, in units of 2^-15. -/
def kraft (lens : List Nat) : Nat := sumNat (lens.map fun l => if l = 0 then 0 else 2 ^ (15 - l))

def parseSlipTable (bs : List Byte) : Option SlipTable :=
  let eb := bytesAt bs 2 2
  if bytesAt bs 1 0 == 1 && [2, 4, 5, 8].contains eb && bs.length == 32 + 2 ^ (eb - 1) && bytesAt bs 5 4 != 0 &&
     zeroAt bs 3 3 && zeroAt bs 31 6 then
    let lens := slipNibbles bs 32 (2 ^ eb)
    if lens.any (· != 0) && decide (kraft lens ≤ 2 ^ 15) then some { expBits := eb, id := bytesAt bs 5 4, lens := lens }
    else none
  else none

/-- R261: the assigned codes as (length, codeword, symbol). -/
def slipCodes (lens : List Nat) : List (Nat × Nat × Nat) :=
  ((List.range 15).foldl (fun (p : Nat × List (Nat × Nat × Nat)) i =>
    let q := (indexed lens).foldl (fun (p : Nat × List (Nat × Nat × Nat)) e =>
      if e.2 = i + 1 then (p.1 + 1, p.2 ++ [(i + 1, p.1, e.1)]) else p) p
    (2 * q.1, q.2)) (0, [])).2

/-- R252: value bits, symbol's low bit and width, raw width, and how many expanded bits a value takes. -/
structure SlipFmt where
  vbits : Nat
  slo : Nat
  sbits : Nat
  raw : Nat
  deriving DecidableEq, Repr

def slipFmt : Nat → Option SlipFmt
  | 0 => some ⟨16, 7, 8, 8⟩ | 1 => some ⟨16, 10, 5, 11⟩ | 2 => some ⟨32, 23, 8, 24⟩ | 3 => some ⟨8, 3, 4, 4⟩
  | 4 => some ⟨8, 2, 5, 3⟩ | 5 => some ⟨4, 1, 2, 2⟩ | 6 => some ⟨8, 0, 8, 0⟩ | _ => none

/-- R252: the value of a symbol and a raw part: (sign << m) | significand around the exponent field. -/
def slipValue (f : SlipFmt) (sym raw : Nat) : Nat :=
  raw % 2 ^ f.slo + sym <<< f.slo + (raw >>> f.slo) <<< (f.slo + f.sbits)

/-- Why a lane fails (R268): an invalid codeword or a length. -/
inductive LaneErr where
  | codeword | length
  deriving DecidableEq, Repr

/-- The first code that the bits from position 0 of bits spell, most significant bit first. -/
def matchCode (codes : List (Nat × Nat × Nat)) (bits : Nat → Bool) (pos : Nat) : Option (Nat × Nat) :=
  match codes.find? fun c => (List.range c.1).all fun i => bits (pos + i) == bit c.2.1 (c.1 - 1 - i) with
  | some c => some (c.1, c.2.2)
  | none => none

/-- R261, R268: decode a lane until exactly n bits are consumed; fuel bounds the symbols. -/
def decodeLane (codes : List (Nat × Nat × Nat)) (bits : Nat → Bool) (n : Nat) : Nat → Nat → List Nat → Except LaneErr (List Nat)
  | 0, pos, acc => if pos = n then .ok acc.reverse else .error .length
  | k + 1, pos, acc =>
    if pos = n then .ok acc.reverse
    else
      match matchCode codes bits pos with
      | none => .error .codeword
      | some (len, sym) => if pos + len > n then .error .length else decodeLane codes bits n k (pos + len) (sym :: acc)

/-- A block header (R257). -/
structure SlipHead where
  flags : Nat
  fmt : Nat
  slot : Nat
  tableId : Nat
  origLen : Nat
  blockLen : Nat
  index : Nat
  rsvOk : Bool
  deriving DecidableEq, Repr

def parseSlipHead (bs : List Byte) : SlipHead :=
  { flags := bytesAt bs 0 0, fmt := bytesAt bs 1 1, slot := bytesAt bs 2 2, tableId := bytesAt bs 5 4,
    origLen := bytesAt bs 11 8, blockLen := bytesAt bs 15 12, index := bytesAt bs 19 16,
    rsvOk := zeroAt bs 3 3 && zeroAt bs 7 6 && zeroAt bs 63 20 }

def SlipHead.raw (h : SlipHead) : Bool := bit h.flags 0
def SlipHead.last (h : SlipHead) : Bool := bit h.flags 1

/-- R258: lane directory entries (SYMBOLS, BITS, zero bytes hold). -/
def laneDir (bs : List Byte) : List (Nat × Nat × Bool) :=
  (List.range 32).map fun i => (bytesAt bs (65 + 8 * i) (64 + 8 * i), bytesAt bs (71 + 8 * i) (68 + 8 * i),
    zeroAt bs (67 + 8 * i) (66 + 8 * i))

/-- R258: symbols that lane i's byte range implies. -/
def laneSymbols (f : SlipFmt) (orig i : Nat) : Nat :=
  (min (2048 * (i + 1)) orig - min (2048 * i) orig) * 8 / f.vbits

/-- R258: byte offset of each lane's codes, and the end of the code region. -/
def laneStarts (dir : List (Nat × Nat × Bool)) : List Nat × Nat :=
  dir.foldl (fun (p : List Nat × Nat) e => (p.1 ++ [p.2], p.2 + 4 * cdiv e.2.1 32)) ([], 320)

/-- R258, R259: the BLOCK_LEN a layout gives. -/
def slipBlockLen (f : SlipFmt) (orig : Nat) (codeEnd : Nat) : Nat :=
  if f.raw = 0 then roundUp codeEnd 64
  else roundUp (roundUp codeEnd 64 + cdiv (orig * 8 / f.vbits * f.raw) 8) 64

def slipRawLen (orig : Nat) : Nat := 64 + roundUp orig 64

/-- R268 kind 1, without the layout of a compressed block: want is the next BLOCK_INDEX, exp and sto what is left of
EXPANDED_LEN and STORED_LEN. The bytes of a raw block are values of any kind, so its ORIG_LEN is a multiple of no value size (DEDUCED,
log 144). -/
def slipHeadOk (h : SlipHead) (want exp sto : Nat) : Bool :=
  let vb := match slipFmt h.fmt with | some f => if h.raw then 1 else max 1 (f.vbits / 8) | none => 1
  h.rsvOk && decide (h.flags < 4) && (slipFmt h.fmt).isSome && decide (h.slot ≤ 3) &&
  (!h.raw || (h.fmt == 0 && h.slot == 0 && h.tableId == 0)) &&
  decide (1 ≤ h.origLen) && decide (h.origLen ≤ 65536) && h.origLen % vb == 0 && h.blockLen % 64 == 0 &&
  h.index == want && decide (h.origLen ≤ exp) && h.last == (h.origLen == exp) && decide (h.blockLen ≤ sto) &&
  (!h.raw || h.blockLen == slipRawLen h.origLen)

/-- R260: does a table suit a block's FMT. -/
def slipSuits (t : SlipTable) (fmt : Nat) : Bool :=
  match slipFmt fmt with
  | some f => t.expBits == f.sbits
  | none => false

/-- Final kinds of R268 with the lane for kinds 3 and 4. -/
structure SlipDamage where
  kind : Nat
  lane : Nat := 0
  deriving DecidableEq, Repr

/-- R258, R266, R268: check and decode a compressed block's bytes; the expanded bytes, or the first check that fails. -/
def decodeSlipBlock (t : SlipTable) (h : SlipHead) (bs : List Byte) : Except SlipDamage (List Byte) :=
  match slipFmt h.fmt with
  | none => .error { kind := 1 }
  | some f =>
    let dir := laneDir bs
    let st := laneStarts dir
    if !(dir.all fun e => e.2.2) || h.blockLen != slipBlockLen f h.origLen st.2 then .error { kind := 1 }
    else if !slipSuits t h.fmt then .error { kind := 2 }
    else if !(dir.all fun e => decide (e.1 * 16 ≤ h.blockLen) && decide (e.2.1 * 4 ≤ h.blockLen)) ||
            decide (slipRawLen h.origLen ≤ h.blockLen) then .error { kind := 5 }
    else
      let codes := slipCodes t.lens
      let whole := leNat bs
      let lanes := (indexed (dir.zip st.1)).map fun p =>
        let bits (i : Nat) : Bool := whole.testBit (8 * p.2.2 + i)
        let r := decodeLane codes bits p.2.1.2.1 (p.2.1.2.1 + 1) 0 []
        match r with
        | .ok syms => if syms.length == p.2.1.1 && p.2.1.1 == laneSymbols f h.origLen p.1 then (p.1, Except.ok syms)
                      else (p.1, Except.error LaneErr.length)
        | .error e => (p.1, Except.error e)
      let bad := lanes.findSome? fun l =>
        match l.2 with
        | .error .codeword => some { kind := 3, lane := l.1 : SlipDamage }
        | .error .length => some { kind := 4, lane := l.1 : SlipDamage }
        | .ok _ => none
      match bad with
      | some d => .error d
      | none =>
        let syms := lanes.flatMap fun l => match l.2 with | .ok s => s | .error _ => []
        let rawAt := 8 * roundUp st.2 64
        let vals := (indexed syms).map fun p =>
          slipValue f p.2 (field whole (rawAt + f.raw * (p.1 + 1) - 1) (rawAt + f.raw * p.1) % 2 ^ f.raw)
        .ok (leBytes h.origLen (foldIdx (fun i acc v => acc + v <<< (i * f.vbits)) 0 vals))

/-- R254: one directory entry. -/
structure SlipEntry where
  stream : Nat
  kind : Nat
  stored : Nat
  expanded : Nat
  deriving DecidableEq, Repr

/-- R254, R268 kind 6: read a directory for a tile list of n tiles; segs are the layer's segments as (address, bytes). -/
def parseSlipDir (m : Mem) (base n : Nat) (segs : List (Nat × Nat)) : Option (List SlipEntry) :=
  let hd := m.readBytes base 64
  let es := (List.range n).map fun i =>
    let e := m.readBytes (base + 64 + 16 * i) 16
    (({ stream := bytesAt e 5 0, kind := bytesAt e 6 6, stored := bytesAt e 11 8, expanded := bytesAt e 15 12 } : SlipEntry),
     zeroAt e 7 7)
  if bytesAt hd 3 0 == 0x50494C53 && bytesAt hd 5 4 == 1 && bytesAt hd 7 6 == n && zeroAt hd 63 8 &&
     es.all (fun e => e.2 && decide (e.1.kind ≤ 1) && e.1.stream % 64 == 0 &&
       segs.any fun s => within e.1.stream e.1.stored s.1 s.2) then some (es.map (·.1))
  else none

/-- R270: the header of a forerunner stream: value format, block count and code lengths; none for kind 7. -/
structure ForeHead where
  fmt : Nat
  count : Nat
  lens : List Nat
  deriving DecidableEq, Repr

def parseForeHead (bs : List Byte) : Option ForeHead :=
  let fmt := bytesAt bs 4 4
  let lens := slipNibbles bs 32 256
  if bytesAt bs 3 0 == 0x3146434B && (fmt == 0 || fmt == 3) && zeroAt bs 7 5 && zeroAt bs 31 12 &&
     decide (kraft lens ≤ 2 ^ 15) && (fmt == 0 || (lens.drop 16).all (· == 0)) then
    some { fmt := fmt, count := bytesAt bs 11 8, lens := lens }
  else none

/-- R270: decode one forerunner block at the start of bytes: stored length and expanded bytes; none where a check fails. -/
def decodeForeBlock (h : ForeHead) (bs : List Byte) : Option (Nat × List Byte) :=
  let orig := bytesAt bs 1 0
  let fl := bytesAt bs 2 2
  let syms := bytesAt bs 7 4
  let cbits := bytesAt bs 11 8
  let sto := bytesAt bs 15 12
  if !(decide (1 ≤ orig) && decide (orig ≤ 16384) && decide (fl < 2) && zeroAt bs 3 3 && sto % 16 == 0) then none
  else if fl = 1 then (if sto = 16 + roundUp orig 16 then some (sto, slice bs 16 orig) else none)
  else
    match slipFmt h.fmt with
    | none => none
    | some f =>
      let rawAt := 16 + roundUp (cdiv cbits 8) 16
      let n := orig * 8 / f.vbits
      if sto != rawAt + roundUp (cdiv (n * f.raw) 8) 16 || syms != n then none
      else
        let whole := leNat bs
        match decodeLane (slipCodes h.lens) (fun i => whole.testBit (128 + i)) cbits (cbits + 1) 0 [] with
        | .error _ => none
        | .ok ss =>
          if ss.length != syms then none
          else
            let vals := (indexed ss).map fun p =>
              slipValue f p.2 (field whole (8 * rawAt + f.raw * (p.1 + 1) - 1) (8 * rawAt + f.raw * p.1))
            some (sto, leBytes orig (foldIdx (fun i acc v => acc + v <<< (i * f.vbits)) 0 vals))

/-- A slot of a kiln's four (R260, R262, R263): state 0 FREE, 1 LOADED, 2 RETIRING. -/
structure SlipSlot where
  state : Nat := 0
  table : Option SlipTable := none
  deriving DecidableEq, Repr

/-- R270: what the 16-byte header of a forerunner block says: ORIG_LEN and STORED_LEN; none where a check of it fails. -/
def foreBlockHead (bs : List Byte) : Option (Nat × Nat) :=
  let orig := bytesAt bs 1 0
  let fl := bytesAt bs 2 2
  let sto := bytesAt bs 15 12
  if decide (1 ≤ orig) && decide (orig ≤ 16384) && decide (fl < 2) && zeroAt bs 3 3 && sto % 16 == 0 && decide (16 ≤ sto) then some (orig, sto)
  else none

/-- A tile's stream of a kernel's buffer while its launch runs (R254 to R256): the directory entry; the next block and its index, with the bytes
expanded and stored before it; how many expanded bytes have come out, where the next move takes its first byte, how far the moves that
wait will take, and the bytes that lie ready from there; the table of a forerunner stream; damage met once with the DA it lies at
(R269), and a poisoned word of the directory. -/
structure SlipStream where
  launch : Nat
  kernel : Nat
  buf : Nat
  unit : Nat
  entry : SlipEntry
  nextDa : Nat
  index : Nat := 0
  expanded : Nat := 0
  stored : Nat := 0
  out : Nat := 0
  pos : Nat := 0
  need : Nat := 0
  ready : List Byte := []
  fore : Option ForeHead := none
  damage : Option SlipDamage := none
  damageDa : Nat := 0
  struck : Option Nat := none
  deriving DecidableEq, Repr

/-- A block's expanded bytes come out; those before the next move's first byte are discarded (R256). -/
def SlipStream.push (s : SlipStream) (bs : List Byte) : SlipStream :=
  { s with ready := s.ready ++ bs.drop (s.pos - s.out), out := s.out + bs.length, damage := none }
/-- A move waits for n bytes from a place that the stream has not passed. -/
def SlipStream.await (s : SlipStream) (first n : Nat) : SlipStream :=
  { s with ready := s.ready.drop (first - s.pos), pos := first, need := first + n }
/-- The move takes them. -/
def SlipStream.take (s : SlipStream) (n : Nat) : SlipStream := { s with ready := s.ready.drop n, pos := s.pos + n }
/-- R256: the stream is decoded again from its first block, for a move whose operand was lost. -/
def SlipStream.again (s : SlipStream) (first n : Nat) : SlipStream :=
  let head := if s.fore.isSome then 160 else 0
  { s with nextDa := s.entry.stream + head, stored := head, index := 0, expanded := 0, out := 0, ready := [], pos := first, need := first + n,
           damage := none }
/-- R272: a forerunner block of n bytes has room in the smoothing queue, which holds 16 KiB beyond what a waiting move takes. -/
def SlipStream.room (s : SlipStream) (n : Nat) : Bool := decide (s.out + n ≤ max s.pos s.need + 16384)

/-- A block in a kiln's block queue (R264, R265, R271): its stream, header, address and the table it is bound to; fore is the table of a
forerunner stream, whose blocks' header is ORIG_LEN and BLOCK_LEN alone. -/
structure QueuedBlock where
  launch : Nat
  kernel : Nat
  buf : Nat
  unit : Nat
  da : Nat
  head : SlipHead
  table : Option SlipTable
  fore : Option ForeHead := none
  deriving DecidableEq, Repr

def QueuedBlock.isOf (q : QueuedBlock) (s : SlipStream) : Bool :=
  q.launch == s.launch && q.kernel == s.kernel && q.buf == s.buf && q.unit == s.unit

/-- R265, R271: the forerunner block of a stream that a decoder may take: it comes before every slip block of the queue, is its stream's
first, and one of 32 decoders is free for it. -/
def foreTurn (queue : List QueuedBlock) (s : SlipStream) : Option QueuedBlock :=
  let run := queue.takeWhile fun q => q.fore.isSome
  let before := run.takeWhile fun q => !q.isOf s
  let decoders := before.foldl (fun (seen : List QueuedBlock) q =>
    if seen.any fun x => x.launch == q.launch && x.kernel == q.kernel && x.buf == q.buf && x.unit == q.unit then seen else q :: seen) []
  if decoders.length < 32 then run.find? fun q => q.isOf s else none

/-- A kiln's slip path with KLN_SLIP_STATUS's own bits (R274). -/
structure SlipPart where
  slots : Vector SlipSlot 4 := Vector.replicate 4 {}
  queue : List QueuedBlock := []
  streams : List SlipStream := []
  damageSeen : Bool := false
  lastCheck : Nat := 0
  lastLane : Nat := 0
  frStallSeen : Bool := false
  deriving DecidableEq, Repr

end Sys2Proof.Machine
end

