-- ==== Sys2Proof/Machine/VecPlan.lean ====
section
/-! DEFINITION. Vector kernels as the loader sees them: operations, times, executions and the parts of long rows (R105 to R112, R131,
R139, R142, R199, R204, R218). -/
namespace Sys2Proof.Machine

/-- Vector operations of a kernel. -/
def Image.opsOf (im : Image) (k : Kernel) : List VecOp := (im.vecOps.drop k.auxIndex).take k.auxCount

/-- Does an operation read SRC1, and AUX (R199). -/
def VecOp.usesSrc1 (o : VecOp) : Bool :=
  [0x01, 0x02, 0x03, 0x04, 0x05, 0x06, 0x09, 0x0A, 0x0C, 0x24, 0x26, 0x27, 0x28, 0x29, 0x2A].contains o.op
def VecOp.usesAux (o : VecOp) : Bool := [0x04, 0x0A, 0x24, 0x26, 0x28, 0x29, 0x2A].contains o.op
/-- R127: SOFTMAX's mask is its second operand SRC1, or AUX where SRC1 names none (DESIGN CHOICE, log 44). -/
def VecOp.maskIx (o : VecOp) : Nat := if o.src1 = noIx then o.aux else o.src1

/-- Results per ac of an operation, and its latency (R108, R112). -/
def VecOp.rate (o : VecOp) (deg : Nat) : Nat × Nat :=
  match o.op with
  | 0x0C | 0x0D => (64, 32) | 0x0E => (64, 36) | 0x0F => (64, 28)
  | 0x17 => (64, 44) | 0x18 => (64, 36) | 0x19 | 0x1A => (32, 52) | 0x1B | 0x1C => (4, 120)
  | 0x1D | 0x1E | 0x1F | 0x20 | 0x21 | 0x22 => (32, 40)
  | 0x23 => (256 / (deg + 1), 0)
  | _ => (256, 0)

/-- R139: a convolution's parameters, which no field of R199 holds. -/
def VecOp.conv (o : VecOp) (i : Nat) : Nat := Config.convParam o.aux o.param i
/-- Output extent of a convolution along axis i: 0 t, 1 h, 2 w. -/
def VecOp.convOut (o : VecOp) (i : Nat) : Nat :=
  (o.conv (15 + i) + o.conv (9 + i) + o.conv (12 + i) - o.conv (6 + i) * (o.conv i - 1) - 1) / max 1 (o.conv (3 + i)) + 1

/-- R142: steps of a convolution over output positions r0 to r0 + rows − 1 of n channels: below 256 channels the lanes take further
positions of the same line along w. -/
def VecOp.convSteps (o : VecOp) (n r0 rows : Nat) : Nat :=
  if 256 ≤ n || n = 0 then rows * cdiv n 256
  else
    let w := max 1 (o.convOut 2)
    let inLine (l : Nat) : Nat := min (r0 + rows) ((l + 1) * w) - max r0 (l * w)
    sumNat ((List.range (cdiv (r0 + rows) w - r0 / w)).map fun i => cdiv (inLine (r0 / w + i)) (256 / n))

/-- Worst time of rows r0 to r0 + rows − 1, of n elements with valid length len, under an operation; two FP32 streams halve an
elementwise rate (R108). SOFTMAX's three passes take its valid elements (R131). A segment function counts eight coefficients. -/
def Image.opTime (im : Image) (o : VecOp) (r0 rows n len : Nat) : Nat :=
  let fp32At (i : Nat) : Bool := match im.buf i with | some b => b.fmt == .fp32 | none => false
  if o.op = 0x24 then rows * (9 * cdiv (min n len) 256) + 120
  else if 0x25 ≤ o.op && o.op ≤ 0x28 then rows * (2 * cdiv n 256)
  else if 0x29 ≤ o.op then o.convSteps n r0 rows * (o.conv 0 * o.conv 1 * o.conv 2 * o.conv 18)
  else if o.op ≤ 0x0B && o.usesSrc1 && fp32At o.src0 && fp32At o.src1 then rows * cdiv n 128
  else rows * cdiv n (max 1 (o.rate 7).1) + (o.rate 7).2

/-- Worst time of a vector execution: each operation's rows, with its latency once. -/
def Image.vecTime (im : Image) (k : Kernel) (r0 rows n len : Nat) : Nat := sumNat ((im.opsOf k).map fun o => im.opTime o r0 rows n len)

/-- R218: how many elements of a long row one execution takes: the most, in whole groups of 256, that stay within the limit, found by
halving (how a row is split is the model's choice, log 127); a row within the limit is one part. -/
def Image.rowPart (im : Image) (k : Kernel) (n len : Nat) : Nat :=
  if im.vecTime k 0 1 n len ≤ 52800 then n
  else
    let fits (u : Nat) : Bool := decide (im.vecTime k 0 1 (256 * u) (min len (256 * u)) ≤ 52800)
    256 * max 1 ((List.range 24).foldl (fun u i => if fits (u + 2 ^ (23 - i)) then u + 2 ^ (23 - i) else u) 0)

/-- The executions of the rows of one entry, in groups of 256 rows (R204): (group, 0, 0), or, where a row is longer than one
execution allows, (row, part, parts) for each part of each row in turn (R218). -/
def Image.vecGroup (im : Image) (k : Kernel) (m n len g : Nat) : List (Nat × Nat × Nat) :=
  let parts := cdiv n (max 1 (im.rowPart k n len))
  if parts ≤ 1 then [(g, 0, 0)]
  else (List.range (min 256 (m - 256 * g))).flatMap fun r => (List.range parts).map fun c => (256 * g + r, c, parts)

/-- Rows, and elements of each, that an execution takes: (first row, rows, first element, elements). -/
def Image.vecSpan (im : Image) (k : Kernel) (m n len : Nat) (pos : Nat × Nat × Nat) : Nat × Nat × Nat × Nat :=
  if pos.2.2 = 0 then (256 * pos.1, min 256 (m - 256 * pos.1), 0, n)
  else
    let c := im.rowPart k n len
    (pos.1, 1, c * pos.2.1, min c (n - c * pos.2.1))

/-- Time of one execution. -/
def Image.vecExecTime (im : Image) (k : Kernel) (m n len : Nat) (pos : Nat × Nat × Nat) : Nat :=
  let s := im.vecSpan k m n len pos
  im.vecTime k s.1 s.2.1 s.2.2.2 (min s.2.2.2 (len - s.2.2.1))

end Sys2Proof.Machine
end

