-- ==== Sys2Proof/Machine/LaunchTypes.lean ====
section
/-! DEFINITION. Launches, their executions in schedule order, tiles and kilns as data (R53, R61 to R64, R89, R101 to R104,
R166, R204, R210 to R216, R228). -/
namespace Sys2Proof.Machine

/-- A pointer-list entry (R212). -/
structure Entry where
  bases : List Nat
  m : Nat
  n : Nat
  k : Nat
  qpos : Nat
  w0 : Nat
  w1 : Nat
  ctx : Nat
  reads : Bool
  writes : Bool
  headFirst : Nat
  headCount : Nat
  deriving DecidableEq, Repr

/-- R212: read an entry; none where a reserved byte or bit is not zero. -/
def parseEntry (r : List Byte) : Option Entry :=
  if decide (bytesAt r 49 48 < 2 ^ 14) && decide (bytesAt r 50 50 < 4) && zeroAt r 51 51 && zeroAt r 63 56 then
    some { bases := (List.range 4).map fun i => bytesAt r (6 * i + 5) (6 * i), m := bytesAt r 27 24, n := bytesAt r 31 28,
           k := bytesAt r 35 32, qpos := bytesAt r 39 36, w0 := bytesAt r 43 40, w1 := bytesAt r 47 44,
           ctx := bytesAt r 49 48, reads := bit (bytesAt r 50 50) 0, writes := bit (bytesAt r 50 50) 1,
           headFirst := bytesAt r 53 52, headCount := bytesAt r 55 54 }
  else none

/-- R216: a zero shape. -/
def Entry.zero (e : Entry) : Bool := e.m == 0 || e.n == 0 || e.headCount == 0
/-- An entry that writes its context: a zero shape writes nothing. -/
def Entry.writer (e : Entry) : Bool := e.writes && !e.zero

/-- One execution of a launch in schedule order (R204): kernel, entry, head, the place in the tile list (or unit list) it is
dealt to, its position in the grid; for attention unit is the place in the kernel's list of pipelines and pos is (query block, part,
run); for vector and pixel kernels (group or run number, 0, 0). -/
structure Exec where
  kernel : Nat
  entry : Nat
  head : Nat
  unit : Nat
  pos : Nat × Nat × Nat
  deriving DecidableEq, Repr

/-- How an execution ended: its number in the launch's schedule, the format of its final run (R101's code), whether that is
wider than marked, whether it ran from the start at an escalated format (R61). -/
structure ExecDone where
  ix : Nat
  code : Nat := 0
  wide : Bool := false
  escalated : Bool := false
  deriving DecidableEq, Repr

/-- Who a launch belongs to: a LAUNCH command, a record of a LAUNCH_LIST, a candle action (stream, instance, entry), or none
(a cyclic DELIVER, R443). -/
inductive LaunchOwner where
  | cmd (id : Nat)
  | listRec (id ix : Nat)
  | candle (stream cycle entry : Nat)
  deriving DecidableEq, Repr

/-- Where a launch stands. waiting: at the context arbiter (R188); running; preempting: tiles stop at their next boundaries
(R412); preempted by the host; ending: it stops at the next boundaries and then completes with a status (R413, R504, R269);
ended. -/
inductive LaunchPhase where
  | waiting | running | preempting | preempted
  | ending (status : Half)
  | ended
  deriving DecidableEq, Repr

/-- One chain position in progress (R97, R98, R205): which kernel, entry, head and (m, n) position; each member's partial;
the segments of the running sum that member i has formed, and for attention the m and l that member i received (R151), for which m is
the query block. -/
structure ChainRun where
  kernel : Nat
  entry : Nat
  head : Nat
  m : Nat
  n : Nat
  partials : List (Nat × List (List Word)) := []
  sums : List (Nat × Nat × List Word) := []
  heads : List (Nat × List Word) := []
  written : Bool := false
  deriving DecidableEq, Repr

/-- Partials of an attention query block's parts (R151). -/
structure AttnPart where
  kernel : Nat
  entry : Nat
  head : Nat
  qb : Nat
  part : Nat
  rows : List AttnRow
  deriving DecidableEq, Repr

/-- An admitted launch. -/
structure Launch where
  id : Nat
  owner : LaunchOwner
  handle : Nat
  mode : Nat
  seed : Long
  cls : Nat
  entries : List Entry
  /-- The global lists read and checked at admission, by attention kernel (R156). -/
  globals : List (Nat × List Nat) := []
  /-- By execution, the segments that have ended (R218). -/
  segs : List (Nat × Nat) := []
  phase : LaunchPhase := .waiting
  /-- Policy and limits, taken when the first tile is dispatched (R53). -/
  policy : Option NumPolicy := none
  done : List ExecDone := []
  widened : Nat := 0
  nanResults : Nat := 0
  infResults : Nat := 0
  convEvents : Nat := 0
  emptyRows : Nat := 0
  nanRows : Nat := 0
  clamps : Nat := 0
  endpoint : Nat := 0
  reason : Nat := 0
  isLocal : Bool := false
  nanFinal : Bool := false
  slipDa : Nat := 0
  slipKind : Nat := 0
  chains : List ChainRun := []
  attn : List AttnPart := []
  /-- Uses of the program's weight window the launch has consumed, by layer (R250). -/
  uses : List (Nat × Nat) := []
  /-- Slots of media sessions it reads and writes (R291). -/
  mediaReads : List (Nat × Nat) := []
  mediaWrites : List (Nat × Nat) := []
  /-- The gradient job whose step it carries (R369), the buckets made ready before that step began, and the step's status
  once it has ended. -/
  job : Option Nat := none
  buckets : List Nat := []
  step : Option Half := none
  /-- Buffers that are slip-coded for it (R253); whether its operands were read from a use of the program's window. -/
  slips : List Nat := []
  /-- The dies it runs on: kilns 0 to 11, wheels 12 and 13; the pinned finish predicted at admission, in slices (R429). -/
  dies : List Nat := []
  finish : Nat := 0
  deadline : Nat := 0
  /-- The status it ended with. -/
  ended : Half := 0
  deriving DecidableEq, Repr

/-- R218: the segment at which an execution stands. -/
def Launch.segAt (l : Launch) (ix : Nat) : Nat := match l.segs.find? fun p => p.1 == ix with | some p => p.2 | none => 0

/-- A program-table entry (R206, R208): scratch holds the scratchpad bytes reserved per kiln. -/
structure Program where
  handle : Nat
  image : Image
  retiring : Bool := false
  scratch : List Nat
  deriving DecidableEq, Repr

/-- A LAUNCH_LIST in flight (R405): its command, its records' address and count, the next record to take, and the record that
was refused with its status and pointer-list entry. -/
structure ListRun where
  cmd : Nat
  base : Nat
  count : Nat
  next : Nat := 0
  refused : Option (Nat × Half × Nat) := none
  deriving DecidableEq, Repr

/-- The program table with HUB_PROG_STATUS's own bits (R209), and the lists in flight. -/
structure ProgPart where
  programs : List Program := []
  lists : List ListRun := []
  fullSeen : Bool := false
  lastRefusal : Half := 0
  deriving DecidableEq, Repr

/-- An accumulation group that is OPEN or SAVED on a tile (R89): its number, its owner's kernel, entry, head and (m, n)
position, and its long accumulators. -/
structure TileGroup where
  num : Nat
  launch : Nat
  kernel : Nat
  entry : Nat
  head : Nat
  m : Nat
  n : Nat
  saved : Bool := false
  acc : GroupAcc
  deriving DecidableEq, Repr

/-- An operand that a tile-ready move brought into the tile buffer and marked ready (R226): side 0 M-side, 1 N-side, 2 initial
values. ix is the execution it was filled for. -/
structure ReadyOp where
  launch : Nat
  ix : Nat
  side : Nat
  op : Operand
  deriving DecidableEq, Repr

/-- The execution a tile is running: launch, number in the schedule, rung of its ladder, whether it is a repeat (R55, R59), and
the escalated format it started at (R101's code), 0 for the marked one. -/
structure Running where
  launch : Nat
  ix : Nat
  rung : Nat
  repeating : Bool := false
  start : Nat := 0
  /-- KLN_TILE_STATUS's EXEC_FORMAT and PROMOTE_P (R101). -/
  fmtCode : Nat := 0
  promote : Nat := 0
  /-- Did the execution open its groups (R92). -/
  opened : Bool := false
  deriving DecidableEq, Repr

/-- A logical tile (R101): its binding, what it runs, its operands and groups. turn alternates a server between its own
schedule and the UNBOUND tile it serves (R211). -/
structure TileSt where
  phys : Nat := 0
  unbound : Bool := true
  running : Option Running := none
  ready : List ReadyOp := []
  groups : List TileGroup := []
  residueFails : Nat := 0
  turn : Bool := false
  deriving DecidableEq, Repr

/-- A pipeline's query block in progress (R160, R161): the launch, the part, the rows' m, l and O, which are a group of the value tile,
OPEN or SAVED, and the rung at which the next execution runs. -/
structure PipeSt where
  launch : Nat
  kernel : Nat
  entry : Nat
  head : Nat
  qb : Nat
  part : Nat
  rows : List AttnRow
  rung : Nat := 0
  repeating : Bool := false
  start : Nat := 0
  saved : Bool := false
  deriving DecidableEq, Repr

/-- What the repair rules keep for one physical tile (R508, R509): times of its quarantine events in µs since the start, how
often it has been quarantined, and whether it is out of service. -/
structure PhysTile where
  events : List Nat := []
  quarantined : Nat := 0
  out : Bool := false
  spare : Bool := false
  deriving DecidableEq, Repr

/-- A unit counted under R510 (a stage, vector unit, engine or reduction): in service, and its events. A vector unit's register file
(R105: 256 registers of 256 words of 32 bits) is file: word l of register r under 256 r + l, rising, words of 0 left out; the
others have none. -/
structure UnitSt where
  ok : Bool := false
  events : List Nat := []
  file : List (Nat × Word) := []
  deriving DecidableEq, Repr

/-- KLN_SACC_SEL and KLN_SACC_DATA with the capture that waits (R102 to R104). -/
structure Sacc where
  tile : Nat := 0
  group : Nat := 0
  row : Nat := 0
  column : Nat := 0
  pending : Bool := false
  /-- The waiting CAPTURE was written while its tile ran an execution. -/
  mid : Bool := false
  value : Nat := 0
  residue : Nat := 0
  blocks : Nat := 0
  valid : Bool := false
  deriving DecidableEq, Repr

/-- Die shared memory's split (R228). -/
structure Shmem where
  steps : Nat := 8
  inForce : Nat := 8
  pending : Bool := false
  refused : Bool := false
  deriving DecidableEq, Repr

/-- One kiln die. -/
structure Kiln where
  tiles : Vector TileSt 16 := Vector.replicate 16 {}
  phys : Vector PhysTile 18 := Vector.replicate 18 {}
  stages : Vector UnitSt 8 := Vector.replicate 8 {}
  vec : Vector UnitSt 2 := Vector.replicate 2 {}
  stackOk : Vector Bool 2 := Vector.replicate 2 false
  /-- By logical pipeline. -/
  pipes : List (Nat × PipeSt) := []
  pipesFormed : Nat := 0
  halted : Bool := false
  /-- KLN_TROUBLE_STATUS (R54): bits [6:0], LAST_TILE and LAST_DETECTORS. -/
  trouble : BitVec 7 := 0
  lastTile : Nat := 0
  lastDet : Nat := 0
  sacc : Sacc := {}
  emptyRowSeen : Bool := false
  nanRowSeen : Bool := false
  shmem : Shmem := {}
  slip : SlipPart := {}
  deriving DecidableEq, Repr

/-- One wheel die (R275, R310). lines is what the engine's line buffers hold from their first byte on, zeros beyond (log 124). -/
structure Wheel where
  codecOk : Vector Bool 4 := Vector.replicate 4 false
  engine : UnitSt := {}
  vec : UnitSt := {}
  ready : Bool := false
  stripSeen : Bool := false
  residueSeen : Bool := false
  singleSeen : Bool := false
  lines : List Byte := []
  deriving DecidableEq, Repr

/-- R120: a loadable function slot: state 0 FREE, 1 CHECKING, 2 LOADED, 3 RETIRING; the table; the command whose checks
run. -/
structure FnSlot where
  state : Nat := 0
  table : Option SegTable := none
  cmd : Nat := 0
  /-- Launches that hold a reference (R125). -/
  holders : List Nat := []
  deriving DecidableEq, Repr

/-- The function slots with HUB_FN_SLOT_STATUS's own bits (R126). -/
structure FnPart where
  slots : Vector FnSlot 8 := Vector.replicate 8 {}
  builtinReady : Bool := false
  refusedValid : Bool := false
  lastRefused : Byte := 0
  deriving DecidableEq, Repr

/-- R212: the buffers that are head-indexed: RANK 4, KIND not 4, named by a matrix, attention or vector kernel. -/
def Image.headIndexed (im : Image) (i : Nat) : Bool :=
  match im.buf i with
  | none => false
  | some b =>
    b.rank == 4 && b.kind != 4 &&
    im.kernels.any fun k => k.kind != 3 &&
      ([k.bufA, k.bufB, k.bufOut, k.bufAux].contains i ||
       (k.kind == 2 && ((im.vecOps.drop k.auxIndex).take k.auxCount).any fun o => [o.src0, o.src1, o.dst, o.aux].contains i))

/-- The buffers a kernel names. -/
def Image.named (im : Image) (k : Kernel) : List Nat :=
  ([k.bufA, k.bufB, k.bufOut, k.bufAux] ++
    (if k.kind = 2 then ((im.vecOps.drop k.auxIndex).take k.auxCount).flatMap fun o => [o.src0, o.src1, o.dst, o.aux]
     else [])).filter (· != noIx)

/-- R204 step 3: does a kernel run its grid once for each head. -/
def Image.perHead (im : Image) (k : Kernel) : Bool := k.kind == 1 || (k.kind != 3 && (im.named k).any im.headIndexed)
/-- R204 step 3: the heads a kernel runs for an entry; one run stands for all of them. -/
def Image.headsOf (im : Image) (k : Kernel) (e : Entry) : List Nat :=
  if im.perHead k then (List.range e.headCount).map (· + e.headFirst) else [if k.kind = 3 then 0 else e.headFirst]
/-- R212: the KV-head groups of a context buffer that one run of a kernel takes in. -/
def Image.groupsAt (im : Image) (k : Kernel) (e : Entry) : Nat := if im.perHead k then 1 else e.headCount

def Image.pattern (im : Image) (k : Kernel) : Option Pattern :=
  match im.patterns[k.auxIndex]? with
  | some r => parsePattern r
  | none => none
def Image.pixel (im : Image) (k : Kernel) : Option PixelRec :=
  match im.pixels[k.auxIndex]? with
  | some r => parsePixel r
  | none => none

/-- R303: output positions of a pixel kernel for an entry: t, h, w extents. -/
def Image.pixelOut (im : Image) (k : Kernel) (tIn : Nat) : Nat × Nat × Nat :=
  match im.pixel k, im.buf k.bufA with
  | some p, some b => (p.t.out tIn, p.h.out (b.ext 2), p.w.out (b.ext 1))
  | _, _ => (0, 0, 0)

/-- The global list of an attention kernel, in the order stored. -/
def globalsOf (m : Mem) (p : Pattern) : List Nat :=
  (List.range p.globalCount).map fun i => m.readNat (p.globalList + 4 * i) 4

/-- R198: the pipelines of an attention kernel as (kiln, pipeline). -/
def Kernel.pipeList (k : Kernel) : List (Nat × Nat) :=
  ((List.range 12).filter fun i => bit k.kilnMask i).flatMap fun i =>
    ((List.range 8).filter fun p => bit k.tileMask (2 * p) || bit k.tileMask (2 * p + 1)).map fun p => (i, p)

/-- R205: an attention kernel's chain, of which member i is the pipeline of part i (R151). -/
def Image.chainOf (im : Image) (k : Kernel) : Option Chain := im.chains[k.chain]?

/-- R144, R151: the logical pipeline a part of a query block goes to, as its place in the kernel's list: its chain member's, or the
pipelines in turn (DESIGN CHOICE, log 139). -/
def Image.attnUnit (im : Image) (k : Kernel) (p : Pattern) (ei : Nat) (e : Entry) (h qb part : Nat) : Nat :=
  match im.chainOf k with
  | some c => (c.members[part]?.bind fun m => k.pipeList.findIdx? fun q => q == (m.kiln, m.tile / 2)).getD 0
  | none => ((ei + (h - e.headFirst) * cdiv (e.m * p.g) 128 + qb) * p.keySplits + part) % max 1 k.pipeList.length

/-- R204: the executions of one kernel for one entry. globals is the kernel's global list. -/
def Image.execsOf (im : Image) (ki : Nat) (k : Kernel) (ei : Nat) (e : Entry) (globals : List Nat) : List Exec :=
  if e.zero then []
  else
    (im.headsOf k e).flatMap fun h =>
      match k.kind with
      | 0 =>
        match im.loopsOf k with
        | none => []
        | some (d, _, b, _) =>
          (gridSchedule d b (k.grid e.m e.n e.k) k.tileList.length).map fun p =>
            { kernel := ki, entry := ei, head := h, unit := p.1, pos := p.2 }
      | 1 =>
        match im.pattern k with
        | none => []
        | some p =>
          (List.range (cdiv (e.m * p.g) 128)).flatMap fun qb =>
            (indexed (p.runsOf (p.visitList e.k globals e.qpos e.m qb))).flatMap fun part =>
              (List.range part.2.length).map fun r =>
                { kernel := ki, entry := ei, head := h, unit := im.attnUnit k p ei e h qb part.1, pos := (qb, part.1, r) }
      | 2 =>
        (indexed (splitRuns (List.range (cdiv e.m 256)) k.vecList.length)).flatMap fun u =>
          u.2.flatMap fun g => (im.vecGroup k e.m e.n e.k g).map fun p =>
            { kernel := ki, entry := ei, head := h, unit := u.1, pos := p }
      | _ =>
        match im.pixel k with
        | none => []
        | some p =>
          let o := im.pixelOut k e.m
          let wheels := (List.range 2).filter fun w => bit p.wheels w
          (indexed (splitRuns (List.range (cdiv (o.1 * o.2.1 * o.2.2) p.execPos)) wheels.length)).flatMap fun u =>
            u.2.map fun g => { kernel := ki, entry := ei, head := h, unit := wheels.getD u.1 0, pos := (g, 0, 0) }

/-- R204: the whole schedule of a launch, kernels in record order, entries in order, with the kernels' global lists. -/
def Image.schedule (im : Image) (globals : Nat → List Nat) (entries : List Entry) : List Exec :=
  (indexed im.kernels).flatMap fun k => (indexed entries).flatMap fun e => im.execsOf k.1 k.2 e.1 e.2 (globals k.1)

/-- The global list that a launch's kernel has (R156). -/
def Launch.globalsOf (l : Launch) (kernel : Nat) : List Nat :=
  match l.globals.find? fun g => g.1 == kernel with | some g => g.2 | none => []

/-- A tile execution is one of a matrix or attention kernel (R61). -/
def Image.isTileExec (im : Image) (x : Exec) : Bool :=
  match im.kernels[x.kernel]? with
  | some k => k.kind ≤ 1
  | none => false
def Image.layerOf (im : Image) (x : Exec) : Nat :=
  match im.kernels[x.kernel]? with
  | some k => k.layer
  | none => 0

end Sys2Proof.Machine
end

