-- ==== Sys2Proof/Machine/TierTypes.lean ====
section
/-! DEFINITION. Types of the memory tiers: the unified window's units and moves, weight windows, board memory, the
registers of chapter 8 (R224 to R251). -/
namespace Sys2Proof.Machine

/-- A unit of the unified window whose record differs from a fresh unit's: where it lies (a stack's number, or none for the
crock tier, and the slot of that backing), heat, bytes moved in the epoch, and pin marks (R241, R243, R246). -/
structure UUnit where
  ix : Nat
  place : Option Nat
  slot : Nat := 0
  heat : Nat := 0
  traffic : Nat := 0
  hostPin : Bool := false
  poolPin : Bool := false
  deriving DecidableEq, Repr

/-- A move in progress (R242): the unit, the stack it goes to with the slot that is empty for it, or none for the crock tier, whose slot
is found at the end; and the victim of a swap, whose slot the unit takes. -/
structure UMove where
  ix : Nat
  dest : Option Nat
  slot : Nat := 0
  victim : Option Nat := none
  deriving DecidableEq, Repr

/-- A MIGRATE, PIN or pool's CTX_CREATE with units that have not switched yet: those units, UP with a target kiln or DOWN, the units a
MIGRATE names as (first, count), what its reply counts, and whether it sets the host's pin marks (R245, R246). -/
structure MigCmd where
  cmd : Nat
  left : List Nat
  up : Bool
  kiln : Nat := 0xFF
  first : Nat := 0
  named : Nat := 0
  count : Nat
  pin : Bool := false
  deriving DecidableEq, Repr

/-- A segment of a stream table (R248). -/
structure WinSeg where
  src : Nat
  dst : Nat
  len : Nat
  deriving DecidableEq, Repr

/-- An open weight window (R248 to R251). Uses below filled are filled; released lists released uses. -/
structure Window where
  num : Fin 8
  program : Nat
  depth : Nat
  passes : Nat
  layers : List (List WinSeg)
  filled : Nat := 0
  released : List Nat := []
  deriving DecidableEq, Repr

/-- The tiers' registers and tables. cfgPending is CFG_PENDING; sizes in force since the start: stack and crock units and
reserve; the window's length in units. -/
structure TierPart where
  unifiedCfg : Word := 0x01000000#32
  cfgPending : Bool := false
  /-- The value the host wrote to HUB_UNIFIED_CFG, for the next start (R224). -/
  cfgKept : Option Word := none
  units : Nat := 0
  stackUnits : Nat := 0
  crockUnits : Nat := 0
  reserve : Nat := 0
  stackShare : Nat := 0
  crockShare : Nat := 0
  placed : List UUnit := []
  inStack : Nat := 0
  /-- The stacks whose slots back the window since the start, the backing slots retired before it and since, as numbers of a
  slot counted stack by stack in turn, and the unit from which the first places count on (R225, R241, R511). -/
  stacksIn : List Nat := []
  retiredAt : List Nat := []
  retiredSince : List Nat := []
  turn : Nat := 0
  moves : List UMove := []
  migCmds : List MigCmd := []
  /-- Units that a MIGRATE named, as (first, count), and the epoch up to which automatic migration leaves them alone (R245). -/
  rests : List (Nat × Nat × Nat) := []
  epochNo : Nat := 0
  prioMap : Word := 0x00000039#32
  migCfg : Word := 0x0A080100#32
  pinLimitSeen : Bool := false
  windows : List Window := []
  chOk : BitVec 12 := 0
  dpc : Nat := 0
  speed : Nat := 0
  dimmCap : Nat := 0
  /-- The capacity of each channel in service, in GiB (R239). -/
  channelGib : Nat := 0
  mrdimm : Bool := false
  fallback : Bool := false
  deriving DecidableEq, Repr

end Sys2Proof.Machine
end

