-- ==== Sys2Proof/Machine/Dev.lean ====
section
/-! DEFINITION. The device but for its rings: every part of the state the spec gives it, and what it sends out. -/
namespace Sys2Proof.Machine

/-- What the device sends out of itself. -/
inductive Output where
  /-- A reply or report of 32 bytes, at the completion ring's slot (R400). -/
  | ringWrite (cq : Fin 64) (addr : Nat) (bytes : List Byte)
  /-- Bytes written to host memory by a command (R391). -/
  | hostWrite (addr : Nat) (bytes : List Byte)
  /-- An MSI-X message (R401). -/
  | msix (vector : Nat) (addr : Long) (data : Word)
  /-- An AER event the device logs (R391, R504, R556). -/
  | aer (kind : AerKind)
  /-- Data a BAR read returns; poisoned marks R504's poisoned completion. -/
  | readData (bytes : List Byte) (poisoned : Bool)
  /-- A flit a port sends (R317). -/
  | flit (port : Fin 128) (f : Flit)
  /-- A PTP delay request (R422). -/
  | ptpDelayReq
  /-- A telemetry report over MCTP (R459): input mV, mA, W; temperatures and clocks by die; inlet, outlet, flow; STATE. -/
  | telemetry (mv ma w : Nat) (temps clocks : List Nat) (inlet outlet flow state : Nat)
  /-- The result of an atomic (R231): its status and, where it returns one, the old value. -/
  | atomicResult (status : Half) (old : Option Nat)
  /-- What JTAG shifts out: the identification code, or the bypass bit (R549). -/
  | jtag (value : Word)
  deriving DecidableEq, Repr

/-- The device but for its rings. -/
structure Dev where
  /-- What was sent out, newest first. -/
  out : List Output := []
  /-- Microseconds of device time, and the fraction's owner, the time part. -/
  nowUs : Nat := 0
  /-- Choices and free values taken so far: the model's own field (log 1). -/
  freeCtr : Nat := 0
  link : Link := {}
  mem : Mem := {}
  num : NumPolicy := {}
  progs : ProgPart := {}
  launches : List Launch := []
  nextLaunch : Nat := 0
  cx : CtxPart := {}
  fn : FnPart := {}
  tier : TierPart := {}
  kilns : Vector Kiln 12 := Vector.replicate 12 {}
  /-- R230: the 64-byte lines of each kiln's shared cache, by address / 64, latest first, and whether each is dirty. -/
  caches : Vector (List (Nat × Bool)) 12 := Vector.replicate 12 []
  wheels : Vector Wheel 2 := Vector.replicate 2 {}
  media : MediaPart := {}
  fabric : FabricPart := {}
  coll : CollPart := {}
  time : TimePart := {}
  candle : CandlePart := {}
  power : PowerPart := {}
  pins : Pins := {}
  start : StartPart := {}
  repair : RepairPart := {}
  ctrs : CtrPart := {}
  deriving DecidableEq, Repr

end Sys2Proof.Machine
end

