-- ==== Sys2Proof/Machine/State.lean ====
section
/-! DEFINITION. The whole state: the queue of commands that wait, the rings, and the device. -/
namespace Sys2Proof.Machine

/-- The state: commands waiting, first in first out; the submission and completion rings (R392 to R398); the rest of the
device. -/
structure State where
  pending : List Instr
  rings : Rings
  dev : Dev
  deriving DecidableEq, Repr

/-- The device never stops with a fault: every command leaves a next state, whatever the spec makes of it. -/
inductive Fault where
  deriving DecidableEq, Repr

/-- Why a command has no meaning in the model. -/
inductive Refusal where
  /-- An arm whose meaning has not been written; safe, since nothing can be proved of what it does. -/
  | notModelled (mnemonic : String)
  deriving DecidableEq, Repr

/-- The device right after reset: the input present, PERST_N still low, every register at the value the spec gives for reset
(R2), memory with nothing listed, erased flash (log 3). -/
def State.reset : State := { pending := [], rings := {}, dev := {} }

end Sys2Proof.Machine
end

