-- ==== Sys2Proof/Machine/Ops.lean ====
section
/-! DEFINITION. The operations every family shares: what the device sends, events and interrupts, register-protocol errors,
counters, address ranges, commands in flight and their ends. -/
namespace Sys2Proof.Machine

/-- The outcome every command has: a next state. -/
abbrev Out := Host.Outcome State Fault Refusal

/-- Change the device and nothing else. -/
def State.onDev (f : Dev → Dev) (s : State) : State := { s with dev := f s.dev }

/-- Change one element of a vector. -/
def vmod {α : Type} {n : Nat} (v : Vector α n) (i : Fin n) (f : α → α) : Vector α n := v.set i (f (v.get i))

/-- Send something out of the device. -/
def Dev.emit (o : Output) (d : Dev) : Dev := { d with out := o :: d.out }

/-- The next free choice among n (a number below n, or 0), and the device after it. -/
def Dev.choose (n : Nat) (d : Dev) : Nat × Dev :=
  (Config.freeChoice d.freeCtr % n, { d with freeCtr := d.freeCtr + 1 })

/-- Elements of a list by position, chosen freely. -/
def Dev.pick {α : Type} (l : List α) (d : Dev) : Option α × Dev :=
  let r := d.choose l.length
  (l[r.1]?, r.2)

/-- The time at which a wait of some µs that begins now is over, and whether that time has come. -/
def Dev.after (d : Dev) (us : Nat) : Nat := d.nowUs + us
def Dev.due (d : Dev) (t : Nat) : Bool := decide (t ≤ d.nowUs)

/-- A die by its number in R15's order, for numbers that come from arithmetic. -/
def dieIx (n : Nat) : DieIx := Fin.ofNat 20 n
def kilnDie (k : Fin 12) : DieIx := dieIx k.val
def lanternDie (l : Fin 4) : DieIx := dieIx (12 + l.val)
def wheelDie (w : Fin 2) : DieIx := dieIx (16 + w.val)
def hubDie : DieIx := 18
def crockDie : DieIx := 19

/-- A die's INDEX code (R405). -/
def dieCode (d : DieIx) : Nat :=
  if d.val < 12 then d.val else if d.val < 16 then d.val + 4 else if d.val < 18 then d.val + 8
  else if d.val = 18 then 32 else 40

-- Counters (R523 to R527)

/-- Add n to counter i of a block; a carry out of bit 47 sets OVF, freezes the block when it says so, and counts in a chained
odd partner. fuel bounds the chain, which is one step long. -/
def CtrBlock.bump : Nat → Nat → Nat → CtrBlock → CtrBlock
  | 0, _, _, b => b
  | fuel + 1, i, n, b =>
    if h : i < 8 then
      let c := b.ctrs[i]
      let total := c.count.toNat + n
      let carries := total / 2 ^ 48
      let c' := { c with count := BitVec.ofNat 48 total, ovf := c.ovf || carries != 0 }
      let b' := { b with ctrs := b.ctrs.set i c', frozen := b.frozen || (carries != 0 && c.freeze) }
      if carries != 0 && i % 2 = 0 then
        match b'.ctrs[i + 1]? with
        | some p => if p.enable && p.chain then CtrBlock.bump fuel (i + 1) carries b' else b'
        | none => b'
      else b'
    else b

/-- Does a counter count an event at an index (R523); a chained odd counter ignores EVENT and FILTER. -/
def Ctr.counts (c : Ctr) (i event ix : Nat) : Bool :=
  c.enable && !(c.chain && i % 2 = 1) && event != 0 && c.event.toNat == event &&
  (c.filter == 0x3FF#10 || c.filter.toNat == ix)

/-- R525: add n to every counter of a block that counts the event; a frozen block counts nothing. -/
def CtrBlock.count (event ix n : Nat) (b : CtrBlock) : CtrBlock :=
  if n = 0 then b
  else (List.range 8).foldl (fun acc i =>
    match acc.ctrs[i]? with
    | some c => if !acc.frozen && c.counts i event ix then acc.bump 2 i n else acc
    | none => acc) b

/-- Count n of an event on a die (R528). -/
def Dev.count (die : DieIx) (event ix n : Nat) (d : Dev) : Dev :=
  { d with ctrs := { d.ctrs with blocks := vmod d.ctrs.blocks die (CtrBlock.count event ix n) } }

/-- Bytes that cross the mesh from one die to another, for R531. -/
def Dev.meshMove (src dst : DieIx) (n : Nat) (d : Dev) : Dev :=
  if src = dst then d
  else
    let v := vmod d.ctrs.meshBw src fun m => { m with out := m.out + n }
    { d with ctrs := { d.ctrs with meshBw := vmod v dst fun m => { m with inn := m.inn + n } } }

-- Interrupts, events, protocol errors

/-- The MSI-X entry of a vector. -/
def Msix.entry (m : Msix) (v : Nat) : MsixEntry :=
  match m.entries.find? fun e => e.1 == v with
  | some e => e.2
  | none => {}

/-- Send a vector's message, or set its pending bit, or neither (R401). -/
def Dev.sendMsix (v : Nat) (d : Dev) : Dev :=
  let m := d.link.msix
  let e := m.entry v
  if !m.enable then d
  else if m.functionMask || e.control.getLsbD 0 then
    { d with link := { d.link with msix := { m with pending := insertNat v m.pending } } }
  else d.emit (.msix v (BitVec.ofNat 64 (e.addrLo.toNat + e.addrHi.toNat * 2 ^ 32)) e.data)

/-- R416: an event bit becomes 1; where it was 0 and is enabled, vector 0 sends its message. -/
def Dev.setEvent (i : Nat) (d : Dev) : Dev :=
  let d' := { d with link := { d.link with events := d.link.events ||| BitVec.ofNat 8 (2 ^ i) } }
  if d.link.events.getLsbD i then d'
  else if d.link.eventEnable.getLsbD i then d'.sendMsix 0 else d'

/-- The event bits of R416. -/
def evRepair : Nat := 0
def evUncorrectable : Nat := 1
def evThermal : Nat := 2
def evCapped : Nat := 3
def evFabric : Nat := 4
def evTime : Nat := 5
def evLate : Nat := 6
def evLamp : Nat := 7

/-- R415: one more register-protocol error, held at 0xFFFF. -/
def Dev.protoError (d : Dev) : Dev :=
  let d' := d.count hubDie 0x09 0 1
  { d' with link := { d'.link with protoErrors := BitVec.ofNat 16 (satAdd 0xFFFF d.link.protoErrors.toNat 1) } }

-- The state of the device

/-- The device takes commands: ready, or in recovery mode (R474, R494). -/
def Dev.ready (d : Dev) : Bool := d.start.state == 1#3 || d.start.state == 3#3
/-- The device is in the ember state (R464). -/
def Dev.ember (d : Dev) : Bool := d.power.state == 2#2
/-- Dies are up: start has reached ready and the device runs. -/
def Dev.running (d : Dev) : Bool := d.start.state == 1#3 && d.power.state == 0#2
/-- The current candle phase, as a number. -/
def Dev.phaseNow (d : Dev) : Nat := d.time.phase.toNat
/-- R417: a phase T is reached. -/
def reached (now t : Nat) : Bool := decide ((now + 2 ^ 48 - t % 2 ^ 48) % 2 ^ 48 < 2 ^ 47)

/-- R474: a write to a hub register before ready is discarded. -/
def Dev.hubWrite (f : Dev → Dev) (d : Dev) : Dev := if d.ready then f d else d
/-- R469, R474: a write to a register of another die before ready is discarded; where the dies are down it counts as a
register-protocol error too. -/
def Dev.dieWrite (f : Dev → Dev) (d : Dev) : Dev := if !d.ready then d else if d.power.state = 0#2 then f d else d.protoError

-- Address ranges (R221 to R223)

def stackBase (s : Nat) : Nat := s * 0x1000000000
def scratchBase (k : Nat) : Nat := 0x1C000000000 + k * 0x40000000
def mapBase (w : Nat) : Nat := 0x1F000000000 + w * 0x40000000
def crockBase : Nat := 0x20000000000
def windowBase : Nat := 0x100000000000
def gib : Nat := 0x40000000
def unitBytes : Nat := 0x200000

/-- A stack is in service. -/
def Dev.stackOk (d : Dev) (s : Nat) : Bool :=
  match d.kilns[s / 2]? with
  | some k => if s % 2 = 0 then k.stackOk.get 0 else k.stackOk.get 1
  | none => false

/-- R240: populated capacity of the crock tier in GiB. -/
def TierPart.capacityGib (t : TierPart) : Nat := popcount 12 t.chOk.toNat * t.channelGib

/-- R222: the length of the direct part of each aperture. -/
def Dev.stackDirect (d : Dev) (s : Nat) : Nat := if d.stackOk s then (48 - d.tier.stackShare) * gib else 0
def Dev.scratchDirect (d : Dev) (k : Nat) : Nat :=
  match d.kilns[k]? with
  | some kl => kl.shmem.inForce * 0x800000
  | none => 0
def Dev.crockDirect (d : Dev) : Nat := (d.tier.capacityGib - d.tier.crockShare) * gib
def Dev.windowLen (d : Dev) : Nat := d.tier.units * unitBytes

def Dev.inStack (d : Dev) (a n : Nat) : Bool :=
  (List.range 24).any fun s => within a n (stackBase s) (d.stackDirect s)
def Dev.inScratch (d : Dev) (a n : Nat) : Bool :=
  (List.range 12).any fun k => within a n (scratchBase k) (d.scratchDirect k)
def Dev.inMap (d : Dev) (a n : Nat) : Bool := d.running && (List.range 2).any fun w => within a n (mapBase w) 0x10000000
def Dev.inCrock (d : Dev) (a n : Nat) : Bool := within a n crockBase d.crockDirect
def Dev.inWindow (d : Dev) (a n : Nat) : Bool := within a n windowBase d.windowLen

/-- R223: [a, a+n) makes no address fault; an empty range never does. In recovery mode only the first 1 GiB of stack 0 is
there (R494). -/
def Dev.daOk (d : Dev) (a n : Nat) : Bool :=
  n == 0 || (d.start.recovery && within a n 0 gib) || d.inStack a n || d.inScratch a n || d.inMap a n || d.inCrock a n || d.inWindow a n
/-- The same for direct memory alone. -/
def Dev.directOk (d : Dev) (a n : Nat) : Bool :=
  n == 0 || (d.start.recovery && within a n 0 gib) || d.inStack a n || d.inScratch a n || d.inMap a n || d.inCrock a n

-- Units of the unified window (R241)

/-- Backing slots of a stack, and a slot of a stack as one number: the stacks in turn, slot by slot. -/
def TierPart.perStack (t : TierPart) : Nat := t.stackShare * 512
def TierPart.slotNo (t : TierPart) (stack slot : Nat) : Nat := slot * t.stacksIn.length + (t.stacksIn.findIdx? (· == stack)).getD 0
/-- The stack and slot of the g-th backing slot that was not retired before the start. -/
def TierPart.goodSlot (t : TierPart) (g : Nat) : Nat × Nat :=
  let q := t.retiredAt.foldl (fun q b => if b ≤ q then q + 1 else q) g
  let n := max 1 t.stacksIn.length
  (t.stacksIn.getD (q % n) 0, q / n)
/-- R243: the units that lie in stacks at the start: the slots but for the reserve. -/
def TierPart.stackFill (t : TierPart) : Nat := t.stackUnits - t.reserve
/-- A unit as it stands when nothing has touched it: the units fill the stacks' slots and then the crock tier's, counted from a unit
of the device's choice (log 12). -/
def TierPart.fresh (t : TierPart) (ix : Nat) : UUnit :=
  let r := (ix + t.turn) % max 1 t.units
  if r < t.stackFill then let s := t.goodSlot r; { ix := ix, place := some s.1, slot := s.2 }
  else { ix := ix, place := none, slot := r - t.stackFill }
def TierPart.unit (t : TierPart) (ix : Nat) : UUnit :=
  match t.placed.find? fun u => u.ix == ix with
  | some u => u
  | none => t.fresh ix
def TierPart.putUnit (t : TierPart) (u : UUnit) : TierPart :=
  { t with placed := insertBy (fun a b => decide (a.ix ≤ b.ix)) u (t.placed.filter fun v => v.ix != u.ix) }
def UUnit.pinned (u : UUnit) : Bool := u.hostPin || u.poolPin
/-- The unit number of a window address. -/
def unitOf (a : Nat) : Nat := (a - windowBase) / unitBytes
/-- The units that [a, a+n) touches. -/
def unitsOf (a n : Nat) : List Nat :=
  if n = 0 then [] else (List.range (unitOf (a + n - 1) + 1 - unitOf a)).map (· + unitOf a)

/-- The die that holds an address, for the mesh (R7, R241). -/
def Dev.dieOf (d : Dev) (a : Nat) : DieIx :=
  if a < 24 * 0x1000000000 then dieIx (a / 0x1000000000 / 2)
  else if a < 0x1F000000000 then dieIx ((a - 0x1C000000000) / 0x40000000 % 12)
  else if a < crockBase then dieIx (16 + (a - 0x1F000000000) / 0x40000000 % 2)
  else if a < windowBase then crockDie
  else
    match (d.tier.unit (unitOf a)).place with
    | some s => dieIx (s / 2)
    | none => crockDie

/-- The stack an address lies in, where it lies in one (R230). -/
def Dev.stackOf (d : Dev) (a : Nat) : Option Nat :=
  if a < 24 * 0x1000000000 then some (a / 0x1000000000)
  else if windowBase ≤ a then (d.tier.unit (unitOf a)).place
  else none

-- Channels (R240)

/-- The crock-tier offset of an address: a direct one, or the slot of a window unit in the crock's backing. -/
def Dev.crockOff (d : Dev) (a : Nat) : Nat :=
  if a < windowBase then a - crockBase
  else d.crockDirect + (d.tier.unit (unitOf a)).slot * unitBytes + (a - windowBase) % unitBytes
/-- The channels in service, ascending, and the one that holds a crock-tier address: 1 KiB to each in turn. -/
def TierPart.channels (t : TierPart) : List Nat := (List.range 12).filter t.chOk.getLsbD
def Dev.channelOf (d : Dev) (a : Nat) : Nat :=
  d.tier.channels.getD (d.crockOff a / 1024 % max 1 d.tier.channels.length) 0

/-- R243: traffic of a window range counts towards the heat of its units. -/
def Dev.heat (a n : Nat) (d : Dev) : Dev :=
  if d.inWindow a n && n != 0 then
    { d with tier := (unitsOf a n).foldl (fun t ix =>
        let u := t.unit ix
        let lo := max a (windowBase + ix * unitBytes)
        let hi := min (a + n) (windowBase + (ix + 1) * unitBytes)
        t.putUnit { u with traffic := u.traffic + (hi - lo) }) d.tier }
  else d

/-- Check memory bytes written: memory through R503's checked path, with the window's heat. -/
def Dev.write (a : Nat) (bs : List Byte) (d : Dev) : Dev :=
  ({ d with mem := d.mem.store a bs } : Dev).heat a bs.length

-- Uncorrectable errors (R504, R520)

/-- R520's WHERE of an address. -/
def Dev.whereOf (d : Dev) (a : Nat) : Nat :=
  if a < 24 * 0x1000000000 then 1
  else if a < 0x1F000000000 then 3
  else if a < crockBase then 4
  else if a < windowBase then 2
  else match (d.tier.unit (unitOf a)).place with
    | some _ => 1
    | none => 2

/-- Record an uncorrectable error in HUB_UE_LOG: the first is held, a further one sets MULTIPLE. -/
def Dev.logUe (location unit where_ : Nat) (struck : Bool) (d : Dev) : Dev :=
  let u := d.repair.ue
  { d with repair := { d.repair with ue :=
      if u.valid then { u with multiple := true }
      else { location := BitVec.ofNat 48 location, unit := BitVec.ofNat 8 unit, where_ := BitVec.ofNat 4 where_,
             struck := struck, multiple := false, valid := true } } }

/-- An uncorrectable read of the word that holds a device address: logged, counted, and the UNCORRECTABLE event set where no
command is struck. -/
def Dev.ueAt (a : Nat) (struck : Bool) (d : Dev) : Dev :=
  let die := d.dieOf a
  let w := d.whereOf a
  let d1 := d.logUe (a / 8 * 8) (dieCode die) w struck
  let d2 := if w = 2 then d1.count crockDie 0x07 (d.channelOf a) 1
            else d1.count die 0x23 (if w = 1 then (d.stackOf a).getD 0 % 2 else 2) 1
  if struck then d2 else d2.setEvent evUncorrectable

-- Commands in flight

def Dev.cmd (d : Dev) (id : Nat) : Option Cmd := d.link.cmds.find? fun c => c.id == id
def Dev.modCmd (id : Nat) (f : Cmd → Cmd) (d : Dev) : Dev :=
  { d with link := { d.link with cmds := updFirst (fun c => c.id == id) f d.link.cmds } }
def Dev.setPhase (id : Nat) (p : Phase) (d : Dev) : Dev := d.modCmd id fun c => { c with phase := p }

/-- A command ends: its reply waits to be written (R400). A command that has ended does not end twice. -/
def Dev.endCmd (id : Nat) (status : Half) (body : List Byte) (d : Dev) : Dev :=
  match d.cmd id with
  | none => d
  | some c =>
    if c.phase == .done then d
    else
      let d' := d.modCmd id fun c => { c with phase := .done, reply := { status := status, body := body } }
      { d' with link := { d'.link with replies := d'.link.replies ++ [id] } }

/-- R430, R447: what a status does to HUB_SCHED_STATUS, HUB_HOST_STATUS's and the debug unit's sticky bits. -/
def Dev.noteStatus (st : Half) (d : Dev) : Dev :=
  if st = stDeadline then { d with candle := { d.candle with seen := d.candle.seen ||| 32#6 } }
  else if st = stDebugDenied then { d with ctrs := { d.ctrs with deniedSeen := true } }
  else d

/-- R430: a bounded command that ends after its DEADLINE sets OVERRUN_SEEN, and ends with ST_DEADLINE in place of ST_OK or
ST_WIDENED. -/
def Dev.overrun (c : Cmd) (st : Half) (d : Dev) : Half × Dev :=
  if c.pkt.cls = 2#2 && reached d.phaseNow (c.pkt.deadline.toNat + 1) then
    (if st = stOk || st = stWidened then stDeadline else st, { d with candle := { d.candle with seen := d.candle.seen ||| 16#6 } })
  else (st, d)

/-- R407: the body of VAL_A, VAL_B, VAL_C. -/
def vals (a b c : Nat) : List Byte := leBytes 8 a ++ leBytes 8 b ++ leBytes 8 c

/-- A command does its work and ends with ST_OK and its values (R407, R430). -/
def Dev.okCmd (id a b c : Nat) (d : Dev) : Dev :=
  match d.cmd id with
  | none => d
  | some cm =>
    let r := d.overrun cm stOk
    r.2.endCmd id r.1 (vals a b c)

/-- A command is refused, or ends early, with a status and a body of zeros. -/
def Dev.refuse (id : Nat) (st : Half) (d : Dev) : Dev := (d.noteStatus st).endCmd id st (vals 0 0 0)

/-- Commands that no fence holds (R411): PREEMPT, RESUME, CANCEL. -/
def controlOp (op : Byte) : Bool := op == 0x14#8 || op == 0x15#8 || op == 0x16#8

/-- May a waiting command be admitted (R411): no earlier command of its ring waits to be, and where FENCE_BEFORE is set every
earlier command of its ring has written its reply. -/
def Dev.admissible (d : Dev) (c : Cmd) : Bool :=
  (controlOp c.pkt.opcode || d.link.cmds.all fun e => !(decide (e.id < c.id) && e.sq == c.sq && e.phase == .waiting)) &&
  (controlOp c.pkt.opcode || !c.pkt.fenceBefore ||
    d.link.cmds.all fun e => !(decide (e.id < c.id) && e.sq == c.sq))

/-- The waiting, admissible command that holds a tag and carries an opcode. -/
def Dev.taken (tag : Tag) (op : Byte) (d : Dev) : Option Cmd :=
  match d.link.cmds.find? fun c => c.holdsTag && c.pkt.tag == tag with
  | some c => if c.phase == .waiting && c.pkt.opcode == op && d.admissible c then some c else none
  | none => none

/-- Carry out a command of an opcode by its tag; without one, nothing happens (log 4). -/
def Dev.onCmd (tag : Tag) (op : Byte) (f : Cmd → Dev → Dev) (d : Dev) : Dev :=
  match d.taken tag op with
  | some c => f c d
  | none => d

/-- The command that holds a tag in flight (R409). -/
def Dev.tagHolder (tag : Tag) (d : Dev) : Option Cmd := d.link.cmds.find? fun c => c.holdsTag && c.pkt.tag == tag

/-- Operand fields of a packet. -/
def opnd (x : Long) (hi lo : Nat) : Nat := field x.toNat hi lo
def opDa (x : Long) : Nat := field x.toNat 47 0

/-- The class of a command: 0 service, 1 bulk, 2 bounded. -/
def Cmd.cls (c : Cmd) : Nat := c.pkt.cls.toNat

/-- A command reads bytes of device memory: refused on an address fault (R223), ended by an uncorrectable word (R504), and
otherwise goes on with the bytes. -/
def Dev.fetchBytes (id a n : Nat) (k : List Byte → Dev → Dev) (d : Dev) : Dev :=
  if !d.daOk a n then d.refuse id stAddress
  else
    match d.mem.firstPoison a n with
    | some w => (d.ueAt w true).refuse id stUncorrectable
    | none => k (d.mem.readBytes a n) (d.heat a n)

/-- A command writes bytes of device memory that it has checked: one that covers a poisoned word in part ends it (R503). -/
def Dev.storeBytes (id a : Nat) (bs : List Byte) (k : Dev → Dev) (d : Dev) : Dev :=
  if d.mem.storeStruck a bs.length then
    ((d.write a bs).ueAt (((d.mem.unpoisonWhole a bs.length).firstPoison a bs.length).getD a) true).refuse id stUncorrectable
  else k (d.write a bs)

/-- Fold over a list, changing the device. -/
def Dev.each {α : Type} (l : List α) (f : α → Dev → Dev) (d : Dev) : Dev := l.foldl (fun acc x => f x acc) d

end Sys2Proof.Machine
end

