-- ==== Sys2Proof/Machine/Fabric.lean ====
section
/-! DEFINITION. The lantern fabric below the collectives: flits and links, lanes and sparing, authentication, routes, messages
(R312 to R346). -/
namespace Sys2Proof.Machine

-- Headers (R318)

/-- A flit header by its fields; rsv is what the reserved bits hold. -/
structure Head where
  type : Nat
  seq : Nat := 0
  ack : Nat := 0
  ackValid : Bool := false
  vc : Nat := 0
  cls : Nat := 0
  dest : Nat := 0
  src : Nat := 0
  hops : Nat := 0
  last : Bool := false
  via : Nat := 0
  nonmin : Bool := false
  pwords : Nat := 0
  first : Bool := false
  msgId : Nat := 0
  credits : Nat := 0
  rsv : Nat := 0
  deriving DecidableEq, Repr

/-- R318: the fields of a header. -/
def Flit.head (f : Flit) : Head :=
  let h := f.header.toNat
  { type := field h 2 0, seq := field h 14 3, ack := field h 26 15, ackValid := bit h 27, vc := field h 29 28,
    cls := field h 31 30, dest := field h 45 32, src := field h 59 46, hops := field h 62 60, last := bit h 63,
    via := field h 77 64, nonmin := bit h 78, pwords := field h 84 79, first := bit h 85, msgId := field h 97 86,
    credits := field h 109 98, rsv := field h 127 110 }

/-- R318: a header from its fields. -/
def Head.bits (h : Head) : BitVec 128 :=
  BitVec.ofNat 128 (h.type % 8 + at_ 3 (h.seq % 4096) + at_ 15 (h.ack % 4096) + at_ 27 (b2n h.ackValid) + at_ 28 (h.vc % 4) +
    at_ 30 (h.cls % 4) + at_ 32 (h.dest % 16384) + at_ 46 (h.src % 16384) + at_ 60 (h.hops % 8) + at_ 63 (b2n h.last) +
    at_ 64 (h.via % 16384) + at_ 78 (b2n h.nonmin) + at_ 79 (h.pwords % 64) + at_ 85 (b2n h.first) +
    at_ 86 (h.msgId % 4096) + at_ 98 (h.credits % 4096) + at_ 110 (h.rsv % 2 ^ 18))

/-- R319: a flit the receiver discards whatever its sequence number. -/
def Head.reserved (h : Head) : Bool := decide (6 ≤ h.type) || h.cls == 3 || h.rsv != 0

/-- Types of flit. -/
def ftIdle : Nat := 0
def ftData : Nat := 1
def ftLink : Nat := 2
def ftAuth : Nat := 3
def ftRoute : Nat := 4
def ftAbort : Nat := 5

/-- Port states (R329). -/
def psDark : BitVec 3 := 0
def psTraining : BitVec 3 := 1
def psAuth : BitVec 3 := 2
def psUp : BitVec 3 := 3
def psHalf : BitVec 3 := 4
def psAuthFailed : BitVec 3 := 5
def psMiscabled : BitVec 3 := 6
def psFailed : BitVec 3 := 7

/-- A port that carries DATA. -/
def Port.carries (p : Port) : Bool := p.state == psUp || p.state == psHalf
/-- A port whose lanes are trained. -/
def Port.trained (p : Port) : Bool := p.state != psDark && p.state != psFailed && p.lanes != 0#9

-- Ports of the device

/-- R416: the FABRIC event of a change of a port's STATE. -/
def Dev.portChanges (f : Dev → Dev) (d : Dev) : Dev :=
  let e := f d
  if (d.fabric.ports.map (·.state)) == (e.fabric.ports.map (·.state)) then e else e.setEvent evFabric

def Dev.port (d : Dev) (p : Fin 128) : Port := d.fabric.ports.get p
def Dev.setPort (p : Fin 128) (x : Port) (d : Dev) : Dev :=
  { d with fabric := { d.fabric with ports := d.fabric.ports.set p x } }
def Dev.modPort (p : Fin 128) (f : Port → Port) (d : Dev) : Dev := d.setPort p (f (d.port p))
/-- The lantern and position of a device port (R312). -/
def portLantern (p : Fin 128) : Fin 4 := Fin.ofNat 4 (p.val / 32)
def portPos (p : Fin 128) : Nat := p.val % 32
def portOf (l : Fin 4) (pos : Nat) : Fin 128 := Fin.ofNat 128 (32 * l.val + pos % 32)
/-- Count an event of a port at its lantern. -/
def Dev.countPort (p : Fin 128) (event n : Nat) (d : Dev) : Dev := d.count (lanternDie (portLantern p)) event (portPos p) n
def Dev.cfgOf (d : Dev) (l : Fin 4) : Nat := (d.fabric.linkCfg.get l).toNat

/-- Record a repair for the ledger, which a later row writes (R513 to R516). -/
def Dev.noteRepair (kind unit element detail : Nat) (d : Dev) : Dev :=
  { d with repair := { d.repair with unwritten :=
      d.repair.unwritten ++ [{ kind := kind, unit := unit, element := element, detail := detail }] } }

-- Sending (R317, R318, R320, R322)

/-- Credits per pair of VC and CLASS. -/
def pairIx (vc cls : Nat) : Nat := 3 * (vc % 4) + cls % 3
def Port.credit (p : Port) (h : Head) : Nat := p.credits.toList.getD (pairIx h.vc h.cls) 0
def Port.setCredit (i n : Nat) (p : Port) : Port := { p with credits := p.credits.setIfInBounds i n }

/-- Queue a flit on a port; its SEQ, ACK and CREDITS are set when it goes. -/
def Port.enqueue (h : Head) (b : FlitBody) (p : Port) : Port := { p with queue := p.queue ++ [{ header := h.bits, body := b }] }

/-- May a port send a flit of this type now (R329, R333, R345, R327). -/
def Port.sends (p : Port) (type : Nat) : Bool :=
  if type = ftLink then p.trained
  else if type = ftAuth then p.state == psAuth
  else p.carries && !(p.retraining && type == ftData)

/-- A flit of a message, an ABORT among them: LINK, AUTH and ROUTE flits belong to none (R323). -/
def Head.ofMessage (h : Head) : Bool := h.type == ftData || h.type == ftAbort
/-- The message a flit belongs to. -/
def Head.message (h : Head) : NodeId × Nat := (BitVec.ofNat 14 h.src, h.msgId)
def Port.openOn (p : Port) (vc : Nat) : Option (NodeId × Nat) := p.opens.toList.getD vc none

/-- R323: the first flit that a VC may send of messages, where one message is begun only of that one, or of the flits of no message. -/
def Port.first (p : Port) (vc : Nat) (msg : Bool) : Option (Nat × Flit) :=
  (indexed p.queue).find? fun e =>
    e.2.head.vc == vc && e.2.head.ofMessage == msg && (!msg || (p.openOn vc).all fun m => m == e.2.head.message)

/-- The next flit to send: of VC 2 first, then of the other VCs in turn; each sends its flits in order, those of one message together
(R322, R323). -/
def Port.nextFlit (p : Port) : Option Nat :=
  let lines := (2, false) :: ([2, p.turn + 1, p.turn + 2, p.turn + 3, p.turn].map fun v => (v % 4, true))
  lines.findSome? fun l =>
    match p.first l.1 l.2 with
    | some e => if p.sends e.2.head.type && decide (0 < p.credit e.2.head) then some e.1 else none
    | none => none

/-- After a flit of a message has gone: the message stays begun until its last flit, and the other VCs have their turn (R322, R323). -/
def Port.served (h : Head) (p : Port) : Port :=
  if !h.ofMessage then p
  else { p with opens := p.opens.setIfInBounds h.vc (if h.last then none else some h.message), turn := if h.vc = 2 then p.turn else h.vc }

/-- The CREDITS field: what is owed per VC, at most 7 each (R318). -/
def Port.creditField (p : Port) : Nat :=
  sumNat ((List.range 4).map fun v => at_ (3 * v) (min 7 (p.owed.toList.getD v 0)))
def Port.payCredits (p : Port) : Port :=
  { p with owed := p.owed.map fun n => n - min 7 n }

/-- Bytes of payload a flit holds. -/
def Head.bytes (h : Head) : Nat := 8 * h.pwords

/-- Put a flit on the fibre: counters and the bandwidth window (R528, R531). -/
def Dev.emitFlit (p : Fin 128) (f : Flit) (d : Dev) : Dev :=
  let d1 := (d.emit (.flit p f)).countPort p 0x01 1
  let d2 := d1.count (lanternDie (portLantern p)) 0x0C f.head.vc (cdiv f.head.bytes 256)
  { d2 with ctrs := { d2.ctrs with portBw := vmod d2.ctrs.portBw p fun m => { m with out := m.out + f.head.bytes } } }

/-- Send what a port may send: each flit takes the next SEQ, the current ACK and credits, and enters the retry buffer, which
holds 1,024 (R320). fuel bounds the flits of one call. -/
def Dev.pump (p : Fin 128) : Nat → Dev → Dev
  | 0, d => d
  | fuel + 1, d =>
    let x := d.port p
    if x.retry.length ≥ 1024 then d
    else
      match x.nextFlit with
      | none => d
      | some i =>
        match x.queue[i]? with
        | none => d
        | some f =>
          let h := f.head
          let h' := { h with seq := x.txSeq, ack := (x.rxSeq + 4095) % 4096, ackValid := true, credits := x.creditField }
          let g : Flit := { f with header := h'.bits }
          let x' := ((x.setCredit (pairIx h.vc h.cls) (x.credit h - 1)).payCredits)
          let x'' := { x'.served h with txSeq := (x.txSeq + 1) % 4096, retry := x.retry ++ [g], queue := x.queue.eraseIdx i }
          Dev.pump p fuel ((d.setPort p x'').emitFlit p g)

def Dev.pumpPort (p : Fin 128) (d : Dev) : Dev := d.pump p (d.port p).queue.length
/-- Queue a flit and send what may go. -/
def Dev.sendFlit (p : Fin 128) (h : Head) (b : FlitBody) (d : Dev) : Dev := (d.modPort p (Port.enqueue h b)).pumpPort p

/-- An IDLE flit carries ACK and CREDITS (R319). -/
def Dev.sendIdle (p : Fin 128) (d : Dev) : Dev :=
  let x := d.port p
  if !x.trained then d
  else
    let h : Head := { type := ftIdle, ack := (x.rxSeq + 4095) % 4096, ackValid := true, credits := x.creditField }
    (d.setPort p x.payCredits).emitFlit p { header := h.bits, body := .none }

/-- LINK, AUTH and ROUTE flits go on VC 2 with DEST, SRC and HOPS zero (R319). -/
def Dev.sendLink (p : Fin 128) (b : FlitBody) (d : Dev) : Dev := d.sendFlit p { type := ftLink, vc := 2, first := true, last := true } b
def Dev.sendAuth (p : Fin 128) (a : AuthBody) (d : Dev) : Dev :=
  d.sendFlit p { type := ftAuth, vc := 2, first := true, last := true } (.auth a)

/-- Ports that carry DATA. -/
def Dev.upPorts (d : Dev) : List (Fin 128) := (List.finRange 128).filter fun p => (d.port p).carries

/-- Flood a ROUTE flit on every UP or HALF port but one (R341). -/
def Dev.flood (b : RouteBody) (except : Option (Fin 128)) (d : Dev) : Dev :=
  d.each (d.upPorts.filter fun p => some p != except) fun p d =>
    d.sendFlit p { type := ftRoute, vc := 2, first := true, last := true } (.route b)

-- Routes (R337 to R341)

/-- Membership of one's own group (R334). -/
def FabricPart.groupOf (f : FabricPart) (node : Nat) : Nat := if f.role.n = 0 then 0 else node / f.role.n
/-- Is a port global: it joins this device's group to another (R344). -/
def FabricPart.isGlobal (f : FabricPart) (p : Fin 128) : Bool :=
  f.role.mode == 1 && decide (1 < f.role.groups) && decide (f.role.n ≤ p.val + 1)

/-- The links this device floods: its UP and HALF ports with the node at the far end. -/
def Dev.ownLinks (d : Dev) : List LsLink :=
  (d.upPorts.filter fun p => (d.port p).peerValid).map fun p => { port := p, peer := (d.port p).peerNode }

/-- Neighbours of a node in the link-state database, taking links as usable both ways. -/
def FabricPart.neighbours (f : FabricPart) (n : NodeId) : List NodeId :=
  (f.lsdb.filter fun e => e.node == n).flatMap (fun e => e.links.map (·.peer)) ++
  (f.lsdb.filter fun e => e.links.any fun l => l.peer == n).map (·.node)

/-- Breadth-first distances from a node, as (node, hops), to at most fuel hops. -/
def FabricPart.reach (f : FabricPart) : Nat → Nat → List NodeId → List (NodeId × Nat) → List (NodeId × Nat)
  | 0, _, _, seen => seen
  | fuel + 1, dist, front, seen =>
    let next := (front.flatMap f.neighbours).foldl (fun (acc : List NodeId) n =>
      if acc.contains n || seen.any (fun s => s.1 == n) then acc else acc ++ [n]) []
    if next.isEmpty then seen
    else FabricPart.reach f fuel (dist + 1) next (seen ++ next.map fun n => (n, dist + 1))

/-- Take up to four items by free choices, counted from ctr (R337 lets an entry hold four minimal hops). -/
def pickFour {α : Type} [DecidableEq α] (ctr : Nat) : Nat → List α → List α
  | 0, _ => []
  | k + 1, l =>
    if l.isEmpty then []
    else
      match l[Config.freeChoice (ctr + k) % l.length]? with
      | none => []
      | some x => x :: pickFour ctr k (l.erase x)

/-- R337: one route entry: hops on minimal paths, LOCAL, DISTANCE, DB_VERSION. -/
def routeEntry (isLocal : Bool) (hops : List (Fin 128)) (dist version : Nat) : Long :=
  BitVec.ofNat 64 (sumNat ((indexed (hops.take 4)).map fun h => at_ (8 * h.1) (0x80 + h.2.val)) + at_ 32 (b2n isLocal) +
    at_ 33 (if isLocal then 0 else dist % 8) + at_ 48 (version % 2 ^ 16))

def FabricPart.entry (f : FabricPart) (l : Fin 4) (node : Nat) : Long :=
  match (f.routes.get l).find? fun e => e.1 == node with
  | some e => e.2
  | none => 0#64

/-- R341: recompute every lantern's route table from the link-state database. -/
def Dev.reroute (d : Dev) : Dev :=
  let f := d.fabric
  if !f.nodeValid then
    { d with fabric := { f with routes := Vector.replicate 4 [] } }
  else
    let dists := f.reach 7 0 [f.node] [(f.node, 0)]
    let table := (sortBy (fun a b => decide (a.1.toNat ≤ b.1.toNat)) dists).map fun t =>
      if t.1 = f.node then (t.1.toNat, routeEntry true [] 0 f.lsVersion)
      else
        let back := f.reach 7 0 [t.1] [(t.1, 0)]
        let minimal := (d.ownLinks.filter fun l =>
          match back.find? fun b => b.1 == l.peer with | some b => b.2 + 1 == t.2 | none => false).map (·.port)
        (t.1.toNat, routeEntry false (pickFour (d.freeCtr + 4 * t.1.toNat) 4 minimal) t.2 f.lsVersion)
    { d with freeCtr := d.freeCtr + 4 * 16384, fabric := { f with routes := Vector.replicate 4 table } }

/-- R341: this device's links in the database, flooded with a new version, and routes from them. -/
def Dev.announce (d : Dev) : Dev :=
  let f := d.fabric
  if !f.nodeValid || f.state != 2#2 then d
  else
    let links := d.ownLinks
    let e : LsNode := { node := f.node, version := f.lsVersion + 1, links := links }
    let d1 : Dev := { d with fabric := { f with
      lsVersion := f.lsVersion + 1, lsdb := f.lsdb.filter (fun x => x.node != f.node) ++ [e] } }
    (d1.flood (.linkState f.node e.version links) none).reroute

/-- The valid hops of an entry, in index order. -/
def hopsOf (e : Long) : List (Fin 128) :=
  (List.range 4).filterMap fun i =>
    let h := field e.toNat (8 * i + 7) (8 * i)
    if 0x80 ≤ h then some (Fin.ofNat 128 (h - 0x80)) else none

/-- Queued flits of a port for a VC. -/
def Port.queued (p : Port) (vc : Nat) : Nat := (p.queue.filter fun f => f.head.vc == vc).length

/-- R338: the hop with the fewest queued flits for the VC, the lowest index among equals, on a port that carries DATA. -/
def Dev.bestHop (l : Fin 4) (node vc : Nat) (d : Dev) : Option (Fin 128) :=
  let hs := (hopsOf (d.fabric.entry l node)).filter fun p => (d.port p).carries && !(d.port p).retraining
  let least := hs.foldl (fun m p => min m ((d.port p).queued vc)) 1000000
  hs.find? fun p => (d.port p).queued vc == least

/-- R339: the intermediate group of a non-minimal route, where the source takes one. -/
def Dev.viaGroup (l : Fin 4) (dest vc msgId : Nat) (d : Dev) : Option Nat :=
  let f := d.fabric
  let g := f.role.groups
  let own := f.groupOf f.node.toNat
  let far := f.groupOf dest
  let cfg := d.cfgOf l
  let hs := (hopsOf (f.entry l dest)).filter fun p => (d.port p).carries
  if bit cfg 24 && f.role.mode = 1 && own ≠ far && 3 ≤ g && !hs.isEmpty &&
     hs.all fun p => decide (field cfg 23 16 < (d.port p).queued vc) then
    ((List.range g).filter fun x => x != own && x != far)[msgId % (g - 2)]?
  else none

/-- The node whose entry routes a message now (R339). -/
def FabricPart.target (f : FabricPart) (h : Head) : Nat :=
  if h.nonmin then h.via * f.role.n + (if f.role.n = 0 then 0 else h.dest % f.role.n) else h.dest

/-- A header as it leaves by a port: one hop more, and one class more between groups (R318, R322). -/
def FabricPart.onward (f : FabricPart) (p : Fin 128) (h : Head) : Head :=
  { h with hops := h.hops + 1, cls := h.cls + b2n (f.isGlobal p) }

-- Messages (R323, R324)

/-- R317, R318: the flits of a message. -/
def messageFlits (base : Head) (payload : List Byte) : List (Head × List Byte) :=
  let n := max 1 (cdiv payload.length 256)
  (indexed (chunks 256 n payload)).map fun c =>
    ({ base with first := c.1 == 0, last := c.1 + 1 == n, pwords := cdiv c.2.length 8 }, c.2)

/-- Send one copy of a message by a route chosen now; with no route it waits (R341). -/
def Dev.sendCopy (m : TxMsg) (d : Dev) : Dev :=
  let f := d.fabric
  let via := d.viaGroup m.lantern m.dest.toNat m.vc.toNat m.msgId
  let base : Head := { type := ftData, vc := m.vc.toNat, dest := m.dest.toNat, src := f.node.toNat, msgId := m.msgId,
                       via := via.getD 0, nonmin := via.isSome }
  match d.bestHop m.lantern (f.target base) m.vc.toNat with
  | none => d
  | some p =>
    (d.each (messageFlits base m.payload) fun x d => d.modPort p (Port.enqueue (f.onward p x.1) (.bytes x.2))).pumpPort p

/-- A number free at a lantern for a new message. -/
def FabricPart.freeId (f : FabricPart) (l : Fin 4) : Nat :=
  let n := f.nextMsg.get l
  ((List.range 4096).map fun i => (n + i) % 4096).find? (fun i =>
    !(f.unacked.any fun m => m.lantern == l && m.msgId == i)) |>.getD n

/-- R324: start a message at its source lantern, or leave it waiting behind 4,096 unacknowledged ones. -/
def Dev.launchMsg (m : TxMsg) (d : Dev) : Dev :=
  let f := d.fabric
  if (f.unacked.filter fun x => x.lantern == m.lantern).length ≥ 4096 then
    { d with fabric := { f with waiting := f.waiting ++ [m] } }
  else
    let id := f.freeId m.lantern
    let m' := { m with msgId := id, copies := 1, due := d.after 100 }
    let d1 : Dev := { d with fabric := { f with unacked := f.unacked ++ [m'], nextMsg := f.nextMsg.set m.lantern ((id + 1) % 4096) } }
    d1.sendCopy m'

/-- Send a message of a collective: which lantern sends is by the shard or rank; here a lantern with a route, the lowest
(DEDUCED, log 15). -/
def Dev.sendMsg (l : Fin 4) (dest : NodeId) (vc : BitVec 2) (payload : List Byte) (owner : MsgOwner) (d : Dev) : Dev :=
  d.launchMsg { lantern := l, msgId := 0, dest := dest, vc := vc, payload := payload, owner := owner }

/-- An acknowledged message leaves; a waiting one takes its place (R324). -/
def Dev.ackMsg (l : Fin 4) (msgId : Nat) (d : Dev) : Dev :=
  let f := d.fabric
  let d1 : Dev := { d with fabric := { f with unacked := f.unacked.filter fun m => !(m.lantern == l && m.msgId == msgId) } }
  match f.waiting.find? fun m => m.lantern == l with
  | none => d1
  | some m =>
    if (d1.fabric.unacked.filter fun x => x.lantern == l).length ≥ 4096 then d1
    else ({ d1 with fabric := { d1.fabric with waiting := f.waiting.erase m } } : Dev).launchMsg m

/-- R324: which message an acknowledgement that came to a lantern from a node is for: one sent there with that MSG_ID, this lantern's own
where it has one (the acknowledgement may come by another lantern: DEDUCED, log 95). -/
def Dev.ackedBy (l : Fin 4) (src : NodeId) (msgId : Nat) (d : Dev) : Dev :=
  let ms := d.fabric.unacked.filter fun m => m.msgId == msgId && m.dest == src
  match ms.find? (fun m => m.lantern == l) <|> ms.head? with
  | some m => d.ackMsg m.lantern msgId
  | none => d

/-- A whole message has reached its destination lantern: acknowledge it on VC 2, discard a second copy within 1 ms, deliver
the rest (R324). -/
def Dev.deliver (l : Fin 4) (src : NodeId) (msgId : Nat) (bytes : List Byte) (d : Dev) : Dev :=
  let f := d.fabric
  let recent := f.recent.filter fun r => decide (d.nowUs < r.2.2 + 1000)
  let dup := recent.any fun r => r.1 == src && r.2.1 == msgId
  let base : Head := { type := ftData, vc := 2, dest := src.toNat, src := f.node.toNat, msgId := msgId, first := true, last := true }
  let d1 :=
    match d.bestHop l src.toNat 2 with
    | some p => d.sendFlit p (f.onward p base) (.ack msgId)
    | none => d
  if dup then { d1 with fabric := { d1.fabric with recent := recent } }
  else
    { d1 with fabric := { d1.fabric with
        recent := (src, msgId, d.nowUs) :: recent,
        inbox := d1.fabric.inbox ++ [{ src := src, lantern := l, payload := bytes }] } }

/-- ABORT back along the port a message came by (R323). -/
def Dev.abortTo (p : Fin 128) (vc : Nat) (src : NodeId) (msgId : Nat) (d : Dev) : Dev :=
  (d.sendFlit p { type := ftAbort, vc := vc, src := src.toNat, msgId := msgId, first := true, last := true } .none).countPort p 0x06 1

-- Receiving (R317 to R325)

/-- Acknowledged flits leave the retry buffer; returned credits go to the VC's classes from the lowest that lacks them (the
field names no class: DEDUCED, log 16). -/
def Port.takeAck (h : Head) (p : Port) : Port :=
  let p1 :=
    if h.ackValid then
      match p.retry.findIdx? fun f => f.head.seq == h.ack with
      | some i => { p with retry := p.retry.drop (i + 1), replays := 0 }
      | none => p
    else p
  (List.range 4).foldl (fun acc v =>
    let n := field h.credits (3 * v + 2) (3 * v)
    let give := (List.range 3).foldl (fun (a : Port × Nat) c =>
      let i := pairIx v c
      let room := 64 - a.1.credits.toList.getD i 0
      let k := min room a.2
      (a.1.setCredit i (a.1.credits.toList.getD i 0 + k), a.2 - k)) (acc, n)
    give.1) p1

/-- R317, R325: corrected bits reveal their lanes. -/
def Dev.countLanes (p : Fin 128) (corrected : List Nat) (d : Dev) : Dev :=
  let lanes := if (d.port p).state = psHalf then 4 else 8
  d.each corrected fun b d =>
    let k := b % lanes
    let x := d.port p
    (d.setPort p { x with corrected := x.corrected.setIfInBounds k (x.corrected.toList.getD k 0 + 1) }).count
      (lanternDie (portLantern p)) 0x04 (portPos p * 8 + k) 1

/-- Ask for a replay from the next expected SEQ (R320). -/
def Dev.askRetry (p : Fin 128) (d : Dev) : Dev := (d.sendLink p (.retry (d.port p).rxSeq)).sendIdle p

/-- Forward one flit of a message in transit, or hold it until it has a route. -/
def Dev.forward (p : Fin 128) (h : Head) (body : FlitBody) (d : Dev) : Dev :=
  let f := d.fabric
  let src : NodeId := BitVec.ofNat 14 h.src
  let key (t : Transit) : Bool := t.port == p && t.vc.toNat == h.vc && t.src == src && t.msgId == h.msgId
  let h1 := if h.nonmin && f.groupOf f.node.toNat = h.via then { h with nonmin := false } else h
  let l := portLantern p
  let d1 : Dev :=
    if h.first then
      let t : Transit := { port := p, vc := BitVec.ofNat 2 h.vc, src := src, msgId := h.msgId, out := d.bestHop l (f.target h1) h.vc,
                           due := d.after 100 }
      { d with fabric := { f with transits := f.transits.filter (fun t => !key t) ++ [t] } }
    else d
  match d1.fabric.transits.find? key with
  | none => d1
  | some t =>
    match t.out with
    | some o =>
      let d2 := (d1.sendFlit o (f.onward o h1) body).countPort o 0x0D 1
      if h.last then { d2 with fabric := { d2.fabric with transits := d2.fabric.transits.filter fun t => !key t } } else d2
    | none =>
      let t' : Transit := { t with held := t.held ++ [{ header := h1.bits, body := body }] }
      { d1 with fabric := { d1.fabric with transits := d1.fabric.transits.map fun x => if key x then t' else x } }

/-- After a change of routes, messages that waited for one go on (R341). -/
def Dev.releaseHeld (d : Dev) : Dev :=
  d.each (d.fabric.transits.filter fun t => t.out.isNone) fun t d =>
    match t.held with
    | [] => d
    | f :: _ =>
      let h := f.head
      match d.bestHop (portLantern t.port) (d.fabric.target h) h.vc with
      | none => d
      | some o =>
        let whole := t.held.any fun g => g.head.last
        let others := d.fabric.transits.filter (fun x => x != t)
        let ts := if whole then others else others ++ [{ t with out := some o, held := [] }]
        ({ d with fabric := { d.fabric with transits := ts } } : Dev).each t.held fun g d =>
          (d.sendFlit o (d.fabric.onward o g.head) g.body).countPort o 0x0D 1

/-- The content of an accepted DATA flit: delivered to this device, forwarded, or discarded with HOPS at 7 (R323, R338, R340). -/
def Dev.acceptData (p : Fin 128) (h : Head) (body : FlitBody) (d : Dev) : Dev :=
  let f := d.fabric
  let src : NodeId := BitVec.ofNat 14 h.src
  if !(d.port p).carries then d
  else if f.nodeValid && h.dest = f.node.toNat then
    match body with
    | .ack id => d.ackedBy (portLantern p) src id
    | .bytes bs =>
      let key (m : PartialMsg) : Bool := m.port == p && m.vc.toNat == h.vc && m.src == src && m.msgId == h.msgId
      let old := if h.first then [] else match f.partials.find? key with | some m => m.bytes | none => []
      let known := h.first || f.partials.any key
      let all_ := old ++ bs.take h.bytes
      let rest := f.partials.filter fun m => !key m
      if !known then d
      else if h.last then ({ d with fabric := { f with partials := rest } } : Dev).deliver (portLantern p) src h.msgId all_
      else { d with fabric := { f with partials := rest ++ [{ port := p, vc := BitVec.ofNat 2 h.vc, src := src, msgId := h.msgId, bytes := all_ }] } }
    | _ => d
  else if h.hops = 7 then ((d.countPort p 0x05 1).abortTo p h.vc src h.msgId)
  else d.forward p h body

/-- R326: the far end names the SEQ from which a lane travels on the spare wavelength. -/
def Port.moveLane (lane : Nat) (p : Port) : Port :=
  let used := (List.range 9).filter fun w => p.lanes.getLsbD w
  let old := used.getD lane 9
  match ((List.range 9).find? fun w => p.good.getLsbD w && !p.lanes.getLsbD w) with
  | none => { p with swap := none }
  | some w =>
    if old = 9 then { p with swap := none }
    else
      { p with lanes := (p.lanes &&& ~~~(BitVec.ofNat 9 (2 ^ old))) ||| BitVec.ofNat 9 (2 ^ w),
               good := p.good &&& ~~~(BitVec.ofNat 9 (2 ^ old)), swap := none, spareSeen := true }

/-- Move a lane and record the wavelength taken out of service (R326, R328, R515). -/
def Dev.moveLane (p : Fin 128) (lane : Nat) (d : Dev) : Dev :=
  let x := d.port p
  let y := x.moveLane lane
  let d1 := d.setPort p y
  if y.good = x.good then d1
  else
    let w := ((List.range 9).find? fun w => x.good.getLsbD w && !y.good.getLsbD w).getD 0
    (d1.noteRepair 0x0A (dieCode (lanternDie (portLantern p))) p.val w).setEvent evRepair

/-- Accept a flit with the expected SEQ. -/
def Dev.acceptFlit (p : Fin 128) (f : Flit) (d : Dev) : Dev :=
  let h := f.head
  let x := d.port p
  let x' := { x with rxSeq := (x.rxSeq + 1) % 4096, owed := x.owed.setIfInBounds h.vc (x.owed.toList.getD h.vc 0 + 1) }
  let d1 := (d.setPort p x').countPort p 0x02 1
  let d2 : Dev := { d1 with ctrs := { d1.ctrs with portBw := vmod d1.ctrs.portBw p fun m => { m with inn := m.inn + h.bytes } } }
  let d3 :=
    if h.type = ftData then d2.acceptData p h f.body
    else
      match f.body with
      | .spareSwitch lane _ => d2.moveLane p lane.val
      | _ => d2
  d3.sendIdle p

/-- DATA_FLIT_RECEIVE (R319, R320): a non-IDLE flit; what LINK, AUTH, ROUTE and ABORT flits say is the row of their own. -/
def Dev.receiveFlit (p : Fin 128) (f : Flit) (corrected : List Nat) (bad : Bool) (d : Dev) : Dev :=
  if !(d.port p).trained then d
  else
    let d1 := d.countLanes p corrected
    let h := f.head
    if bad || h.reserved then (d1.countPort p 0x05 1).askRetry p
    else if h.type = ftIdle then d1
    else
      let d2 := d1.modPort p (Port.takeAck h)
      if h.seq ≠ (d2.port p).rxSeq then d2.askRetry p else ((d2.acceptFlit p f).pumpPort p)

/-- IDLE_FLIT_RECEIVE (R318, R319). -/
def Dev.receiveIdle (p : Fin 128) (f : Flit) (corrected : List Nat) (bad : Bool) (d : Dev) : Dev :=
  if !(d.port p).trained then d
  else
    let d1 := d.countLanes p corrected
    let h := f.head
    if bad || h.reserved then (d1.countPort p 0x05 1).askRetry p
    else if h.type ≠ ftIdle then d1
    else ((d1.countPort p 0x02 1).modPort p (Port.takeAck h)).pumpPort p

/-- R327: both ends stop sending DATA and test every wavelength. -/
def Dev.retrain (p : Fin 128) (d : Dev) : Dev :=
  let x := d.port p
  if !x.trained || x.retraining then d
  else (d.setPort p { x with retraining := true, retrainSeen := true, replays := 0 }).countPort p 0x07 1

/-- LINK_RETRY (R320, R321): replay from the named SEQ; the eighth replay of one SEQ retrains. -/
def Dev.replay (p : Fin 128) (seq : Nat) (d : Dev) : Dev :=
  let x := d.port p
  match x.retry.findIdx? fun f => f.head.seq == seq with
  | none => d
  | some i =>
    let n := if x.replaySeq = seq then x.replays + 1 else 1
    let again := x.retry.drop i
    let d1 := d.setPort p { x with retry := x.retry, replays := n, replaySeq := seq, replaySeen := true }
    let d2 := d1.each again fun f d => (d.emitFlit p f).countPort p 0x03 1
    if 8 ≤ n then d2.retrain p else d2

def execLinkRetry (p : Fin 128) (seq : BitVec 12) (s : State) : Out :=
  .next (s.onDev fun d => if (d.port p).trained then d.replay p seq.toNat else d)

/-- ABORT_FLIT (R323): the partial message is discarded, and the ABORT goes on by the hops that carry it: onward where the message came
by this port, back where it goes on by it. -/
def Dev.abortPartial (p : Fin 128) (vc : BitVec 2) (src : NodeId) (msgId : Nat) (d : Dev) : Dev :=
  let f := d.fabric
  let key (t : Transit) : Bool := (t.port == p || t.out == some p) && t.vc == vc && t.src == src && t.msgId == msgId
  let outs := (f.transits.filter key).filterMap fun t => if t.port == p then t.out else some t.port
  let d1 : Dev := { d with fabric := { f with
      partials := f.partials.filter fun m => !(m.port == p && m.vc == vc && m.src == src && m.msgId == msgId),
      transits := f.transits.filter fun t => !key t } }
  d1.each outs fun o d => d.abortTo o vc.toNat src msgId

def execAbortFlit (p : Fin 128) (vc : BitVec 2) (src : NodeId) (msgId : BitVec 12) (s : State) : Out :=
  .next (s.onDev (Dev.abortPartial p vc src msgId.toNat))

-- Hellos (R333, R343, R344)

/-- The node and device port that the cabling rules give at the far end of a port; none for an unused port. -/
def Role.farEnd (r : Role) (p : Nat) : Option (Nat × Nat) :=
  if r.groups ≤ 1 then
    let k := r.n - 1
    if k = 0 then none
    else
      let rounds := 128 / k
      if p < rounds * k then some ((r.i + 1 + p % k) % r.n, p / k * k + (r.n - 2 - p % k)) else none
  else if p + 1 < r.n then
    some (r.g * r.n + (r.i + 1 + p) % r.n, r.n - 2 - p)
  else
    let k := p - (r.n - 1)
    let m := r.i * (129 - r.n) + k
    let big := r.groups - 1
    let rounds := r.n * (129 - r.n) / big
    if m < rounds * big then
      let h := (r.g + 1 + m % big) % r.groups
      let m' := m / big * big + (r.groups - 2 - m % big)
      some (h * r.n + m' / (129 - r.n), r.n - 1 + m' % (129 - r.n))
    else none

/-- Is the far end that a hello names the one R343 and R344 give. -/
def Role.cabled (r : Role) (p : Fin 128) (h : Hello) : Bool :=
  r.mode != 1 || !h.valid ||
  (match r.farEnd p.val with
   | some e => e.1 == h.node.toNat && e.2 == 32 * h.lantern.val + h.position.val
   | none => false)

/-- R345: the digest of the owner public key, as a number. -/
def Dev.ownerDigest (d : Dev) : Nat := match d.start.active with | some a => leNat a.ownerDigest | none => 0

/-- A 32-byte nonce: random, so free. -/
def freeNonce (ctr : Nat) : List Byte := (List.range 4).flatMap fun i => leBytes 8 (Config.freeWord (ctr + i)).toNat

/-- R345: start authentication: send certificate, FABRIC_ID, owner digest and a nonce; without
an identity the link fails (R495). -/
def Dev.startAuth (p : Fin 128) (d : Dev) : Dev :=
  let n := freeNonce d.freeCtr
  let x := d.port p
  let d1 : Dev := { d with freeCtr := d.freeCtr + 4 }
  if !d.start.identityOk then d.setPort p { x with state := psAuthFailed, authFailSeen := true, auth := {} }
  else (d1.setPort p { x with state := psAuth, auth := { nonce := n } }).sendAuth p
    (.offer Config.deviceCerts d.fabric.role.fabricId d.ownerDigest n p)

/-- The lowest n set bits of a set of wavelengths. -/
def lowestWaves (good : BitVec 9) (n : Nat) : BitVec 9 :=
  ((List.range 9).filter fun w => good.getLsbD w).take n |>.foldl (fun acc w => acc ||| BitVec.ofNat 9 (2 ^ w)) 0#9

/-- Engines a feed serves (R315). -/
def feedEngines (feed : Nat) (e : Nat) : Bool :=
  if feed < 9 then decide (e ≤ 15) || e == 32 else (decide (16 ≤ e) && decide (e ≤ 31)) || e == 33

/-- Wavelengths whose feed to an engine works (R315). -/
def Lasers.lit (z : Lasers) (e : Nat) : BitVec 9 := if feedEngines 0 e then ~~~z.aFailed else ~~~z.bFailed

/-- R551: a port that went DARK with its connector is trained again when a hello returns. -/
def Port.wake (lit : BitVec 9) (p : Port) : Port :=
  if p.state == psDark && p.lanes != 0#9 && p.good == 0#9 then { p with state := psTraining, good := lit, lanes := lowestWaves lit 8 } else p

/-- What a hello says is kept in the port's peer register (R330, R333). -/
def Dev.takeHello (p : Fin 128) (h : Hello) (d : Dev) : Dev :=
  let x := (d.port p).wake ((d.fabric.lasers.get (portLantern p)).lit (d.port p).engine)
  if !x.trained then d
  else
    let changed := x.peerNode != h.node || x.peerValid != h.valid
    let x1 := { x with peerNode := h.node, peerValid := h.valid, peerLantern := BitVec.ofNat 2 h.lantern.val,
                       peerPosition := BitVec.ofNat 5 h.position.val, peerSeen := true, missed := 0 }
    let ok := d.fabric.role.cabled p h
    if !ok then
      let d1 := d.setPort p { x1 with state := psMiscabled }
      if x.carries then d1.announce else d1
    else if x.state = psTraining || x.state = psMiscabled then (d.setPort p x1).startAuth p
    else
      let d1 := d.setPort p x1
      if changed && x.carries then d1.announce else d1

def execLinkHello (p : Fin 128) (h : Hello) (s : State) : Out := .next (s.onDev (Dev.portChanges (Dev.takeHello p h)))

/-- This device's hello on a port. -/
def Dev.helloOf (d : Dev) (p : Fin 128) : Hello :=
  { node := d.fabric.node, valid := d.fabric.nodeValid, lantern := portLantern p, position := Fin.ofNat 32 (portPos p),
    state := d.fabric.state, fabricLow := d.fabric.role.fabricId.setWidth 32, memberSeq := d.fabric.memberSeq,
    ember := d.ember }

/-- HELLO_INTERVAL_TICK (R333): every trained port sends a hello; each counts an interval without one from the far end. In
ember only the kept port says hello (R464). -/
def Dev.helloTick (d : Dev) : Dev :=
  d.each ((List.finRange 128).filter fun p => (d.port p).trained && (!d.ember || d.fabric.keptPort == some p)) fun p d =>
    (d.modPort p fun x => { x with missed := x.missed + 1 }).sendLink p (.hello (d.helloOf p))

def execHelloIntervalTick (s : State) : Out := .next (s.onDev Dev.helloTick)

-- Authentication (R345, R346)

/-- The first 64 bits of the SHA-384 of a public key, read as the digest is written (R335). -/
def fingerprintOf (key : List Byte) : Long := BitVec.ofNat 64 (beNat ((sha384 key).take 8))
def ownFingerprint : Long := fingerprintOf Config.identityKey

/-- The signed digest: nonces, certificates, FABRIC_IDs and port positions in ascending fingerprint order (R345); the fields
stand one after another (DEDUCED, log 17). -/
def authDigest (own peer : Long × List Byte × List Byte × Long × Nat) : Nat :=
  let lo := if own.1.toNat ≤ peer.1.toNat then own else peer
  let hi := if own.1.toNat ≤ peer.1.toNat then peer else own
  sha384Nat ((lo.2.1 ++ hi.2.1 ++ lo.2.2.1 ++ hi.2.2.1 ++ leBytes 8 lo.2.2.2.1.toNat ++ leBytes 8 hi.2.2.2.1.toNat ++
    leBytes 1 lo.2.2.2.2 ++ leBytes 1 hi.2.2.2.2))

def Dev.authDigestOf (d : Dev) (p : Fin 128) (key : Nat) : Nat :=
  let a := (d.port p).auth
  authDigest (ownFingerprint, a.nonce, Config.deviceCerts, d.fabric.role.fabricId, p.val)
    (fingerprintOf (beBytes 96 key), a.peerNonce, a.cert, a.fabricId, a.peerPort)

/-- R346: a link that fails a check. -/
def Dev.authFail (p : Fin 128) (d : Dev) : Dev := d.modPort p fun x => { x with state := psAuthFailed, authFailSeen := true, auth := {} }

/-- R345: is a certificate on the owner policy's revocation list, which holds digests (DEDUCED, log 17). -/
def Dev.revoked (d : Dev) (cert : List Byte) : Bool :=
  match d.start.active with
  | some a => a.revoked.contains (sha384 cert)
  | none => false

/-- AUTH_FLIT (R345). -/
def Dev.takeAuth (p : Fin 128) (b : AuthBody) (d : Dev) : Dev :=
  let x := d.port p
  if x.state ≠ psAuth then d
  else
    match b with
    | .offer cert fid owner nonce port =>
      let a := { x.auth with cert := cert, fabricId := fid, ownerDigest := owner, peerNonce := nonce, peerPort := port.val, got := true }
      let d1 := d.setPort p { x with auth := a }
      match Config.certKey cert with
      | none => d1.authFail p
      | some key =>
        if fid ≠ d.fabric.role.fabricId || owner ≠ d.ownerDigest || d.revoked cert then d1.authFail p
        else
          let sg := Config.identitySign (d1.authDigestOf p key)
          d1.sendAuth p (.sign (leNat (sg.take 48)) (leNat (sg.drop 48)))
    | .sign r s =>
      if !x.auth.got then d
      else
        match Config.certKey x.auth.cert with
        | none => d.authFail p
        | some key =>
          if ecdsaVerifies key (d.authDigestOf p key) r s then
            let up := if (List.range 9).countP (fun w => x.lanes.getLsbD w) = 4 then psHalf else psUp
            ((d.setPort p { x with state := up, auth := {} }).announce).pumpPort p
          else d.authFail p

def execAuthFlit (p : Fin 128) (a : AuthBody) (s : State) : Out := .next (s.onDev (Dev.portChanges (Dev.takeAuth p a)))

/-- AUTH_RETRY_TIMER (R346). -/
def execAuthRetryTimer (p : Fin 128) (s : State) : Out :=
  .next (s.onDev (Dev.portChanges fun d => if (d.port p).state = psAuthFailed then d.startAuth p else d))

-- Lanes (R325 to R328)

/-- R325: the line rate times 10^−BER_EXP over 1 s, in bits. -/
def laneLimit (ber : Nat) : Nat := 132812500000 / 10 ^ max 4 ber

/-- LANE_BER_WINDOW_END (R325, R326): the receiver asks for a spare for the lowest degraded lane, and counts anew; the next window goes by
the limit that the register holds now (R331). -/
def Dev.laneWindow (p : Fin 128) (d : Dev) : Dev :=
  let x := d.port p
  let lim := laneLimit x.ber
  let worst := (List.range 8).find? fun k => decide (lim < x.corrected.toList.getD k 0)
  let spare := (List.range 9).any fun w => x.good.getLsbD w && !x.lanes.getLsbD w
  let d1 := d.setPort p { x with corrected := Vector.replicate 8 0, ber := field (d.cfgOf (portLantern p)) 3 0 }
  match worst with
  | none => d1
  | some k =>
    if x.carries && spare && x.swap.isNone then
      (d1.modPort p fun y => { y with swap := some { lane := Fin.ofNat 8 k, asked := true } }).sendLink p
        (.spareRequest (Fin.ofNat 8 k))
    else d1

def execLaneBerWindowEnd (p : Fin 128) (s : State) : Out := .next (s.onDev (Dev.laneWindow p))

/-- SPARE_REQUEST (R326): the far receiver asks; this transmitter tunes the spare wavelength. -/
def execSpareRequest (p : Fin 128) (lane : Fin 8) (s : State) : Out :=
  .next (s.onDev fun d =>
    let x := d.port p
    if x.carries && x.swap.isNone then d.setPort p { x with swap := some { lane := lane, asked := false } } else d)

/-- SPARE_WAVELENGTH_TRAINED (R326): the receiver that asked says it is ready. -/
def execSpareWavelengthTrained (p : Fin 128) (lane : Fin 8) (s : State) : Out :=
  .next (s.onDev fun d =>
    if (d.port p).swap == some { lane := lane, asked := true } then d.sendLink p (.spareReady lane) else d)

/-- SPARE_READY (R326): the far end names the SEQ at which to switch, and the lane moves. -/
def execSpareReady (p : Fin 128) (lane : Fin 8) (s : State) : Out :=
  .next (s.onDev fun d =>
    match (d.port p).swap with
    | some w => if w.lane = lane && !w.asked then
        (d.sendLink p (.spareSwitch lane ((d.port p).txSeq + 1))).moveLane p lane.val else d
    | none => d)

/-- LANE_LOST (R325, R327): a wavelength loses light, lock, or every flit. -/
def Dev.loseWave (p : Fin 128) (w : Fin 9) (d : Dev) : Dev :=
  let x := d.port p
  let d1 := d.setPort p { x with good := x.good &&& ~~~(BitVec.ofNat 9 (2 ^ w.val)) }
  if x.lanes.getLsbD w.val then d1.retrain p else d1

def execLaneLost (p : Fin 128) (w : Fin 9) (s : State) : Out :=
  .next (s.onDev fun d => if (d.port p).trained then d.loseWave p w else d)

/-- LASER_FEED_FAIL (R315, R328): a feed is low, or fails and its wavelength is lost on every engine it serves. -/
def Dev.feedFail (l : Fin 4) (feed : Fin 18) (failed : Bool) (d : Dev) : Dev :=
  let z := d.fabric.lasers.get l
  let k := feed.val % 9
  let m := BitVec.ofNat 9 (2 ^ k)
  let z1 :=
    if feed.val < 9 then { z with aOk := z.aOk &&& ~~~m, aFailed := if failed then z.aFailed ||| m else z.aFailed }
    else { z with bOk := z.bOk &&& ~~~m, bFailed := if failed then z.bFailed ||| m else z.bFailed }
  let z2 := { z1 with lowSeen := true, failSeen := z.failSeen || failed }
  let d1 : Dev := { d with fabric := { d.fabric with lasers := d.fabric.lasers.set l z2 } }
  if !failed then d1
  else
    d1.each ((List.range 32).map (portOf l)) fun p d =>
      if feedEngines feed.val (d.port p).engine && (d.port p).trained then d.loseWave p (Fin.ofNat 9 k) else d

def execLaserFeedFail (l : Fin 4) (feed : Fin 18) (failed : Bool) (s : State) : Out := .next (s.onDev (Dev.feedFail l feed failed))

/-- LASER_FEED_RESTORED (R315). -/
def Dev.feedBack (l : Fin 4) (feed : Fin 18) (d : Dev) : Dev :=
  let z := d.fabric.lasers.get l
  let m := BitVec.ofNat 9 (2 ^ (feed.val % 9))
  let z1 := if feed.val < 9 then { z with aOk := z.aOk ||| m, aFailed := z.aFailed &&& ~~~m }
            else { z with bOk := z.bOk ||| m, bFailed := z.bFailed &&& ~~~m }
  { d with fabric := { d.fabric with lasers := d.fabric.lasers.set l z1 } }

def execLaserFeedRestored (l : Fin 4) (feed : Fin 18) (s : State) : Out := .next (s.onDev (Dev.feedBack l feed))

/-- R323, R327: what a port holds is lost when its link goes down: partial messages from it and in transit through it, flits
that wait, the retry buffer. Messages whose partial came by another port are aborted on the hop they came by. -/
def Dev.clearPort (p : Fin 128) (d : Dev) : Dev :=
  let f := d.fabric
  let through := f.transits.filter fun t => t.out == some p && t.port != p
  let inward := f.transits.filter fun t => t.port == p
  let d1 : Dev := { d with fabric := { f with
      partials := f.partials.filter (fun m => m.port != p),
      transits := f.transits.filter fun t => t.port != p && t.out != some p } }
  let d2 := d1.modPort p fun x => { x with retry := [], queue := [], txSeq := 0, rxSeq := 0, replays := 0, swap := none, auth := {},
                                           credits := Vector.replicate 12 64, owed := Vector.replicate 4 0, opens := Vector.replicate 4 none,
                                           retraining := false }
  let d3 := d2.each through fun t d => d.abortTo t.port t.vc.toNat t.src t.msgId
  d3.each ((inward.filterMap fun t => t.out.map fun o => (o, t)).filter fun q => q.1 != p) fun q d => d.abortTo q.1 q.2.vc.toNat q.2.src q.2.msgId

/-- The down port leaves the local route entries, and its loss is flooded (R333, R341). -/
def Dev.portDown (p : Fin 128) (st : BitVec 3) (d : Dev) : Dev :=
  let was := (d.port p).carries
  let d1 := (d.clearPort p).modPort p fun x => { x with state := st, peerSeen := false }
  if was then d1.announce else d1

-- Route queries

/-- ROUTE_QUERY (R342). -/
def Dev.routeQuery (c : Cmd) (d : Dev) : Dev :=
  let first := opnd c.pkt.o0 13 0
  let count := opnd c.pkt.o0 30 16
  let mask := opnd c.pkt.o0 35 32
  let a := opDa c.pkt.o1
  if count = 0 || 16384 < first + count then d.refuse c.id stFabricParam
  else
    let ls := (List.finRange 4).filter fun l => bit mask l.val
    let bs := ls.flatMap fun l => (List.range count).flatMap fun i => leBytes 8 (d.fabric.entry l (first + i)).toNat
    if !d.daOk a bs.length then d.refuse c.id stAddress
    else d.storeBytes c.id a bs fun d => d.okCmd c.id d.fabric.lsdb.length d.fabric.memberSeq 0

def execRouteQuery (tag : Tag) (s : State) : Out := .next (s.onDev (Dev.onCmd tag 0xA2 Dev.routeQuery))

end Sys2Proof.Machine
end

