-- ==== Sys2Proof/Machine/Plan.lean ====
section
/-! DEFINITION. What the loader and admission compute from an image: field checks, tile-buffer and scratchpad needs, chains,
execution times and the worst-case execution time (R86 to R98, R137, R141, R156, R159, R197 to R206, R217 to R219, R229,
R301 to R309). -/
namespace Sys2Proof.Machine

/-- Bytes of n elements of a row with its scale and side records. -/
def Buf.lineBytes (b : Buf) (n : Nat) : Nat :=
  if b.fmt.isBlock then cdiv n 32 * (b.fmt.blockBytes + 1 + (if b.outliers then 6 else 0)) else n * b.fmt.elemBytes

-- R206's check of indices and codes

/-- An index names a record, or is absent where that is allowed. -/
def ixOk (n : Nat) (opt : Bool) (i : Nat) : Bool := decide (i < n) || (opt && i == noIx)

/-- R199: one vector-operation record's indices; a SEGFN on a loadable slot is the slot of the kernel's function reference
(DEDUCED, log 13). -/
def Image.vecOpOk (im : Image) (k : Kernel) (o : VecOp) : Bool :=
  let nb := im.bufs.length
  ixOk nb false o.src0 && ixOk nb false o.dst && ixOk nb true o.src1 && ixOk nb true o.aux && decide (o.fnSlot ≤ 15) &&
  (o.op != 0x23 || decide (o.fnSlot < 6) ||
    (match im.fnRefs[k.fnref]? with | some r => decide (8 ≤ o.fnSlot) && r.slot == o.fnSlot | none => false))

/-- R198, R302, R553: one kernel record's indices and codes. -/
def Image.kernelOk (im : Image) (k : Kernel) : Bool :=
  let nb := im.bufs.length
  decide (k.kind ≤ 3) && decide (k.markFmt ≤ 10) && decide (k.wideFmt ≤ 2) && decide (k.range ≤ 2) && decide (k.promote ≤ 3) &&
  decide (k.flags < 2) && decide (k.layer < im.layerCount) && decide (1 ≤ k.entryMax) && decide (k.entryMax ≤ 65536) &&
  ixOk nb false k.bufA && ixOk nb false k.bufOut && ixOk nb true k.bufAux && ixOk im.fnRefs.length true k.fnref &&
  ixOk im.chains.length true k.chain &&
  (match k.kind with
   | 0 => ixOk nb false k.bufB && decide (k.loop + 3 < im.loops.length) && k.auxIndex == noIx && k.auxCount == 0 &&
          decide (k.kilnMask < 2 ^ 12) && !k.tileList.isEmpty
   | 1 => ixOk nb false k.bufB && decide (k.loop + 3 < im.loops.length) && decide (k.auxIndex < im.patterns.length) &&
          k.auxCount == 0 && decide (k.kilnMask < 2 ^ 12) && !k.pipeList.isEmpty
   | 2 => ixOk nb true k.bufB && k.loop == noIx && decide (1 ≤ k.auxCount) && decide (k.auxCount ≤ 64) &&
          decide (k.auxIndex + k.auxCount ≤ im.vecOps.length) && k.tileMask == 0 && decide (k.kilnMask < 2 ^ 14) &&
          !k.vecList.isEmpty && (im.opsOf k).all (im.vecOpOk k) &&
          (match (im.opsOf k).getLast? with | some o => o.dst == k.bufOut | none => false)
   | _ => ixOk nb false k.bufB && k.loop == noIx && decide (k.auxIndex < im.pixels.length) && k.auxCount == 0 &&
          k.markFmt == 0 && k.tileMask == 0 && k.kilnMask == 0)

/-- R202's ORDER codes and zero bytes are part of the loop check; R212 allows four LISTED buffers. -/
def Image.codesOk (im : Image) : Bool :=
  im.kernels.all im.kernelOk && decide ((im.bufs.filter (·.listed)).length ≤ 4)

-- R206: formats, shapes, loops

/-- R552: a matrix operand agrees with the marked format. -/
def operandAgrees (mark : BFmt) (b : Buf) : Bool := b.fmt.isWide || decide (b.fmt.widthRank ≤ mark.widthRank)

/-- R44: is ROTATE legal for a kernel. The reduction of an attention kernel's score product is over the head dimension, which each
execution covers whole (DESIGN CHOICE, log 138). -/
def Kernel.rotateOk (k : Kernel) : Bool :=
  let g := rotGroup k.kMax
  k.kind == 1 || (decide (32 ≤ g) && (k.execK * 32 % g == 0 || decide (k.kMax ≤ k.execK * 32)))

def Kernel.mark (k : Kernel) : BFmt := (BFmt.ofCode k.markFmt).getD .fp32

/-- R206's format and range check of one kernel; none where it passes. -/
def Image.formatStatus (im : Image) (k : Kernel) : Option Half :=
  let mark := k.mark
  let isKind (i : Nat) (f : Buf → Bool) : Bool := match im.buf i with | some b => f b | none => false
  if (k.kind ≥ 2 && k.range != 0) || (k.range = 1 && !k.rotateOk) || (k.range = 2 && mark != .gz4) then some stRangeMethod
  else if k.kind = 0 then
    if isKind k.bufA (operandAgrees mark) && isKind k.bufB (operandAgrees mark) &&
       (k.bufAux == noIx || isKind k.bufAux (·.fmt.isWide)) then none
    else some stKernelFormat
  else if k.kind = 1 then
    if [1, 5, 6, 7, 8, 9, 10].contains k.markFmt && isKind k.bufA (operandAgrees mark) && isKind k.bufB (·.kind == 4) then none
    else some stKernelFormat
  else none

/-- R200, R201. -/
def Image.shapeOk (im : Image) (k : Kernel) : Bool :=
  match k.shapeOf, im.buf k.bufOut with
  | some (ab, blk), some o =>
    (if k.mark == .fp32 then blk == (32, 16) else decide ((nativeBlock k.mark).1 ≤ blk.1)) &&
    (!(o.fmt.isBlock && decide (blk.2 < 32)) || ab.2 % 2 == 0)
  | _, _ => false

/-- R202: the four loop records of a kernel. -/
def Image.loopsOk (im : Image) (k : Kernel) : Bool :=
  match im.loopsOf k with
  | none => false
  | some (d, s, b, g) =>
    let zero (l : Loop) : Bool := l.stepM == 0 && l.stepN == 0 && l.stepK == 0
    decide (d.order ≤ 5) && decide (s.order ≤ 5) && decide (b.order ≤ 5) && (g.order == 0 || g.order == 2) &&
    d.flags == 0 && decide (s.flags < 2) && decide (b.flags < 8) && g.flags == 0 && zero b && zero g &&
    (if k.kind = 0 then decide (1 ≤ k.execK) && decide (k.execK ≤ 4096) else k.execK == 0)

-- The plan of a matrix kernel

/-- The executions of each logical tile of a matrix kernel for given extents (R202, R203), by place in the tile list. -/
def Image.tileRuns (im : Image) (k : Kernel) (m n kk : Nat) : List (List (Nat × Nat × Nat)) :=
  match im.loopsOf k with
  | none => []
  | some (d, _, b, _) =>
    let sched := gridSchedule d b (k.grid m n kk) k.tileList.length
    (List.range k.tileList.length).map fun t => (sched.filter fun p => p.1 == t).map (·.2)

/-- R555: K-blocks of the execution at a K position. -/
def Kernel.kBlocks (k : Kernel) (kk pos : Nat) : Nat := min k.execK (cdiv kk 32 - pos * k.execK)

/-- One execution of a tile's run as the loader sees it: position, K-blocks, positions of groups open before it, whether its
groups close, and whether each side is filled anew (R88, R202, R203). -/
structure TilePlan where
  pos : Nat × Nat × Nat
  blocks : Nat
  openBefore : Nat
  openDuring : Nat
  closes : Bool
  ascending : Bool
  fillA : Bool
  fillB : Bool
  deriving DecidableEq, Repr

/-- Walk a tile's run. open_ holds positions open with their last K. -/
def planRun (k : Kernel) (kk : Nat) (bFlags : Nat) :
    List (Nat × Nat) → Option (Nat × Nat × Nat) → List (Nat × Nat × Nat) → List TilePlan → List TilePlan
  | _, _, [], acc => acc.reverse
  | held, prev, p :: rest, acc =>
    let mn := (p.1, p.2.1)
    let first := held.filter fun h => rest.any (fun q => (q.1, q.2.1) == h) || h == mn
    let isOpen := first.contains mn
    let closes := !(rest.any fun q => (q.1, q.2.1) == mn)
    let before := first.length
    let during := if isOpen then before else before + 1
    let asc := !isOpen || acc.all fun t => (t.pos.1, t.pos.2.1) != mn || decide (t.pos.2.2 < p.2.2)
    let sameK := match prev with | some q => q.2.2 == p.2.2 | none => false
    let sameM := match prev with | some q => q.1 == p.1 | none => false
    let sameN := match prev with | some q => q.2.1 == p.2.1 | none => false
    let held' := if closes then first.filter (· != mn) else if isOpen then first else first ++ [mn]
    planRun k kk bFlags held' (some p) rest
      ({ pos := p, blocks := k.kBlocks kk p.2.2, openBefore := before, openDuring := during, closes := closes, ascending := asc,
         fillA := !(bit bFlags 0 && sameK && sameM), fillB := !(bit bFlags 1 && sameK && sameN) } :: acc)

/-- Every tile's plan. -/
def Image.tilePlans (im : Image) (k : Kernel) (m n kk : Nat) : List (List TilePlan) :=
  match im.loopsOf k with
  | none => []
  | some (_, _, b, _) => (im.tileRuns k m n kk).map fun r => planRun k kk b.flags [] none r []

/-- Bytes of the M side, the N side, one group and one group's close for n K-blocks (R88). -/
structure SideBytes where
  a : Nat
  b : Nat
  group : Nat
  close : Nat
  deriving DecidableEq, Repr

def Image.sideBytes (im : Image) (k : Kernel) (n : Nat) : SideBytes :=
  match k.shapeOf, im.buf k.bufA, im.buf k.bufB, im.buf k.bufOut with
  | some (ab, blk), some a, some b, some o =>
    { a := ab.1 * blk.1 * a.lineBytes (32 * n), b := ab.2 * blk.2 * b.lineBytes (32 * n), group := 4 * blk.1 * blk.2,
      close := blk.1 * o.lineBytes blk.2 }
  | _, _, _, _ => { a := 0, b := 0, group := 0, close := 0 }

/-- Groups of one arrangement. -/
def Kernel.groups (k : Kernel) : Nat := match k.shapeOf with | some (ab, _) => ab.1 * ab.2 | none => 0

/-- R88: tile-buffer bytes of one execution. A kernel whose REFERENCE mode runs in FP32 segments counts a checkpoint for every
group (R218), whatever its marked format. -/
def Image.bufferNeed (im : Image) (k : Kernel) (bFlags : Nat) (t : TilePlan) : Nat :=
  let s := im.sideBytes k t.blocks
  let twice := if bit bFlags 2 then 2 else 1
  let chk := if k.wideFmt = 2 then t.openDuring else t.openBefore
  (if bit bFlags 0 then s.a else twice * s.a) + (if bit bFlags 1 then s.b else twice * s.b) +
  (t.openDuring + chk) * k.groups * s.group + (if t.closes then s.close else 0)

/-- R206's group and tile-buffer checks of a matrix kernel. -/
def Image.groupStatus (im : Image) (k : Kernel) : Option Half :=
  let plans := (im.tilePlans k k.mMax k.nMax k.kMax).flatMap id
  if plans.any fun t => decide (8 < t.openDuring * k.groups) then some stGroupLimit
  else if plans.any fun t => !t.ascending then some stGroupState
  else none
def Image.bufferFits (im : Image) (k : Kernel) : Bool :=
  match im.loopsOf k with
  | none => false
  | some (_, _, b, _) =>
    ((im.tilePlans k k.mMax k.nMax k.kMax).flatMap id).all fun t => decide (im.bufferNeed k b.flags t ≤ 3 * 2 ^ 20)

/-- R203: bytes of a kernel's stage in each kiln's scratchpad. -/
def Image.stageBytes (im : Image) (k : Kernel) : Nat :=
  match im.loopsOf k with
  | none => 0
  | some (_, s, _, _) =>
    if s.stepM = 0 && s.stepN = 0 && s.stepK = 0 then 0
    else
      let g := k.grid k.mMax k.nMax k.kMax
      let sm := if s.stepM = 0 then g.pm else min s.stepM g.pm
      let sn := if s.stepN = 0 then g.pn else min s.stepN g.pn
      let sk := if s.stepK = 0 then g.pk else min s.stepK g.pk
      let b := im.sideBytes k (min k.execK (cdiv k.kMax 32))
      (sm * b.a + sn * b.b) * sk * (if bit s.flags 0 then 2 else 1)

/-- R229: scratchpad bytes a kernel needs on a kiln: its stage, the groups that can be open across a boundary, attention
state. -/
def Image.scratchNeed (im : Image) (k : Kernel) (kiln : Nat) : Nat :=
  if !bit k.kilnMask kiln then 0
  else if k.kind = 0 then
    let gb := (im.sideBytes k 1).group * k.groups
    let held := (k.tileList.zip (im.tilePlans k k.mMax k.nMax k.kMax)).filter fun p => p.1.1 == kiln
    im.stageBytes k + sumNat (held.map fun p => maxNat (p.2.map fun t =>
      if k.wideFmt = 2 then t.openDuring else t.openBefore) * gb)
  else if k.kind = 1 then
    match im.pattern k with
    | some p => (k.pipeList.filter fun q => q.1 == kiln).length * (512 * (headDim p.hd).getD 0 + 1024)
    | none => 0
  else 0
/-- R229: the reservation of a program by kiln; kernels run one after another, so the largest counts. -/
def Image.scratchOf (im : Image) : List Nat := (List.range 12).map fun i => maxNat (im.kernels.map fun k => im.scratchNeed k i)

-- Chains (R205)

/-- Keep the first of each run of equal elements. -/
def dedup : List Nat → List Nat
  | [] => []
  | [x] => [x]
  | x :: y :: r => if x = y then dedup (y :: r) else x :: dedup (y :: r)

/-- Places in the tile list of the K positions at one (m, n), in ascending K. -/
def kOwners (sched : List (Nat × (Nat × Nat × Nat))) (m n : Nat) : List Nat :=
  (sortBy (fun a b => decide (a.2.2.2 ≤ b.2.2.2)) (sched.filter fun p => p.2.1 == m && p.2.2.1 == n)).map (·.1)

/-- R205: the places of the K shares at one (m, n), in ascending K. -/
def kShares (d : Loop) (sched : List (Nat × (Nat × Nat × Nat))) (m n : Nat) : List Nat :=
  if d.stepK = 0 then dedup (kOwners sched m n) else (indexed (kOwners sched m n)).filterMap fun o => if o.1 % d.stepK = 0 then some o.2 else none

/-- R151, R205: the chain of an attention kernel names a pipeline of the kernel for each part. -/
def Image.attnChainOk (im : Image) (k : Kernel) : Bool :=
  match im.chainOf k, im.pattern k with
  | some c, some p =>
    c.members.length == p.keySplits && c.members.all (fun m => k.pipeList.contains (m.kiln, m.tile / 2)) &&
    (pairs (c.members.map fun m => (m.rank, m.kiln, m.tile / 2))).all (fun q => q.1 != q.2) && (c.scope == 1 || c.members.all fun x => x.rank == 0)
  | _, _ => k.chain == noIx

/-- R205: the chain of a matrix or attention kernel, or its absence, is legal. -/
def Image.chainOk (im : Image) (k : Kernel) : Bool :=
  match im.loopsOf k with
  | none => false
  | some (d, _, b, _) =>
    if k.kind = 1 then im.attnChainOk k else
    let g := k.grid k.mMax k.nMax k.kMax
    let sched := gridSchedule d b g k.tileList.length
    let shares := (List.range g.pm).flatMap fun m => (List.range g.pn).map fun n => kShares d sched m n
    let owners := (List.range g.pm).flatMap fun m => (List.range g.pn).map fun n => dedup (kOwners sched m n)
    if k.chain = noIx then owners.all fun o => decide (o.length ≤ 1)
    else
      match im.chains[k.chain]? with
      | none => false
      | some c =>
        let places := c.members.map fun x => (k.tileList.findIdx? fun t => t == (x.kiln, x.tile)).getD noIx
        (places.all (· != noIx)) && (c.scope == 1 || (pairs places).all fun p => p.1 != p.2) &&
        (c.scope == 1 || c.members.all fun x => x.rank == 0) &&
        if c.scope = 1 then shares.all fun o => o == places else owners.all fun o => o == dedup places

-- Parameters of attention, vector and pixel kernels

/-- R156's refusals at load. -/
def Image.attnStatus (im : Image) (k : Kernel) : Option Half :=
  match im.pattern k, im.buf k.bufA, im.buf k.bufB with
  | some p, some q, some c =>
    let d := (headDim p.hd).getD 0
    if q.ext 0 != d || c.ext 0 != d then some stAttnHeadDim
    else if p.keyRun = 0 || 52800 < attnTime d true true p.keyRun
        (d + (match im.buf k.bufOut with | some o => cdiv (128 * o.lineBytes d) 512 | none => 0)) then some stTileTooLong
    else none
  | _, _, _ => some stAttnPattern

/-- A non-negative, finite FP32 value. -/
def epsOk (x : Word) : Bool := isFinite x && (!signOf x || x == 0x80000000#32)

/-- R127, R133, R137, R141, R199: does a vector operation's parameter pass. -/
def Image.vecParamOk (im : Image) (k : Kernel) (o : VecOp) : Bool :=
  let cp := o.conv
  let map (i : Nat) : Bool := match im.buf i with
    | some b => [BFmt.fp32, .bf16, .fp16, .fp8e4m3, .fp8e5m2].contains b.fmt
    | none => false
  let rowLimit := !(0x24 ≤ o.op && o.op ≤ 0x28) || decide (k.nMax ≤ 16777216)
  rowLimit &&
  (if o.op = 0x0B then isFinite o.param
   else if o.op = 0x26 || o.op = 0x27 || o.op = 0x28 then epsOk o.param
   else if o.op = 0x29 || o.op = 0x2A then
     ([0, 1, 2].all fun i => decide (1 ≤ cp i) && decide (cp i ≤ 7)) &&
     ([3, 4, 5, 6, 7, 8].all fun i => decide (1 ≤ cp i) && decide (cp i ≤ 4)) &&
     ([9, 10, 11, 12, 13, 14].all fun i => decide (cp i ≤ 6)) &&
     (if o.op = 0x29 then cp 18 == 1 else [2, 4, 8, 16].contains (cp 18)) &&
     decide (cp 0 * cp 1 * cp 2 * cp 18 ≤ 128) && map o.src0 && map o.dst &&
     (match im.buf o.aux with | some b => b.fmt == .fp32 | none => true)
   else true)

/-- Formats of pixel maps and weights (R303). -/
def mapFmt (f : BFmt) : Bool := f == .fp8e4m3 || f == .fp8e5m2 || f == .bf16 || f == .fp16
def weightFmt (f : BFmt) : Bool := f == .fp8e4m3 || f == .fp8e5m2 || f == .bf16

/-- R301: the term width for the operands' formats. -/
def termWidth (a b : BFmt) : Nat := if a.elemBytes = 1 && b.elemBytes = 1 then 296 else 74

/-- R302, R303, R309: a pixel kernel's parameters. Weights have Cg, KW, KH and then KT × C_OUT with KT inner, the four dimensions
a buffer has (DEDUCED, log 14). -/
def Image.pixelParamOk (im : Image) (k : Kernel) : Bool :=
  match im.pixel k, im.buf k.bufA, im.buf k.bufB, im.buf k.bufOut with
  | some p, some a, some w, some o =>
    let out := im.pixelOut k (a.ext 3)
    mapFmt a.fmt && mapFmt o.fmt && weightFmt w.fmt && a.ext 0 == p.cIn &&
    decide (1 ≤ out.1) && decide (1 ≤ out.2.1) && decide (1 ≤ out.2.2) &&
    (p.padMode != 2 || (p.t.reflectOk (a.ext 3) && p.h.reflectOk (a.ext 2) && p.w.reflectOk (a.ext 1))) &&
    o.ext 0 == p.cOut && o.ext 1 == out.2.2 && o.ext 2 == out.2.1 && o.ext 3 == out.1 &&
    w.ext 0 == p.cIn / p.groups && w.ext 1 == p.w.k && w.ext 2 == p.h.k && w.ext 3 == p.t.k * p.cOut &&
    (k.bufAux == noIx || (match im.buf k.bufAux with | some b => b.ext 0 == p.cOut | none => false)) &&
    (List.range (cdiv (out.1 * out.2.1 * out.2.2) p.execPos)).all (fun i =>
      let lo := i * p.execPos
      let hi := min (lo + p.execPos) (out.1 * out.2.1 * out.2.2) - 1
      decide (p.regionBytes 1 (a.ext 2) (a.ext 3) a.fmt.elemBytes out.2.1 out.2.2 lo hi ≤ 8 * 2 ^ 20))
  | _, _, _, _ => false

/-- R307: bytes an execution of a pixel kernel reads, halo included, and whether it runs in strips. -/
def Image.pixelReads (im : Image) (k : Kernel) (tIn lo hi : Nat) : Nat × Bool :=
  match im.pixel k, im.buf k.bufA with
  | some p, some a =>
    let o := im.pixelOut k tIn
    let total := p.regionBytes (a.ext 1) (a.ext 2) tIn a.fmt.elemBytes o.2.1 o.2.2 lo hi
    let col := p.regionBytes 1 (a.ext 2) tIn a.fmt.elemBytes o.2.1 o.2.2 lo hi
    if total ≤ 8 * 2 ^ 20 then (total, false)
    else
      let halo := p.w.dl * (p.w.k - 1)
      let strips := cdiv total (max 1 (8 * 2 ^ 20 - halo * col))
      (total + (strips - 1) * halo * col, true)
  | _, _ => (0, false)

/-- R306, R308: worst time of an execution of a pixel kernel on a wheel. -/
def Image.pixelTime (im : Image) (k : Kernel) (wheel tIn lo hi : Nat) : Nat :=
  match im.pixel k, im.buf k.bufA, im.buf k.bufB with
  | some p, some a, some w =>
    let r := if a.level = 3 && a.home = wheel then 512 else 96
    200 + max ((hi + 1 - lo) * p.costPer (termWidth a.fmt w.fmt)) (cdiv (im.pixelReads k tIn lo hi).1 r)
  | _, _, _ => 0

-- Execution times and the limit (R218)

/-- Is an operand buffer of a matrix or attention kernel declared in a 4- or 6-bit format (R57). -/
def Image.storedTiny (im : Image) (k : Kernel) : Bool :=
  [k.bufA, k.bufB].any fun i => match im.buf i with | some b => b.fmt.tiny | none => false

/-- The rungs a kernel can reach in SCORED mode (R56, R57). -/
def Image.rungs (im : Image) (k : Kernel) : List BFmt := ladder k.mark (im.storedTiny k)

/-- R56, R57, R160: the forms an attention execution can take at its rungs: the score product's format, and whether P and the value
product are at BF16. A BF16 mark with P in MXFP8 has the value product's step alone. -/
def Image.attnForms (im : Image) (k : Kernel) (bf16P : Bool) : List (BFmt × Bool) :=
  match im.rungs k with
  | [] => []
  | [f] => if bf16P then [(f, true)] else [(f, false), (f, true)]
  | f :: fs => (f, bf16P) :: fs.map fun g => (g, true)

/-- R86, R87: the time of a matrix execution of n K-blocks at a format. -/
def Image.matrixTime (im : Image) (k : Kernel) (f : BFmt) (n : Nat) (closes : Bool) : Nat :=
  match k.shapeOf with
  | none => 0
  | some (_, blk) => execTime f blk k.groups n (if closes then (im.sideBytes k n).close else 0)

/-- R218: K-blocks of one REFERENCE segment at FP32. -/
def Image.segBlocks (im : Image) (k : Kernel) : Nat :=
  let per := im.matrixTime k .fp32 1 false - 36
  max 1 (if per = 0 then 1 else (52800 - 36 - cdiv (im.sideBytes k 1).close 512) / per)

/-- R218: the sum of the segment times of a REFERENCE execution at FP32. -/
def Image.segTimes (im : Image) (k : Kernel) (n : Nat) (closes : Bool) : Nat :=
  let c := im.segBlocks k
  let segs := max 1 (cdiv n c)
  sumNat ((List.range segs).map fun i =>
    im.matrixTime k .fp32 (min c (n - i * c)) (closes && i + 1 == segs))

/-- R218's check of one kernel. -/
def Image.timeOk (im : Image) (k : Kernel) : Bool :=
  match k.kind with
  | 0 =>
    let n := min k.execK (cdiv k.kMax 32)
    (im.rungs k).all fun f => decide (im.matrixTime k f n true ≤ 52800)
  | 1 => true
  | 2 =>
    (List.range (cdiv k.mMax 256)).all fun g => (im.vecGroup k k.mMax k.nMax k.kMax g).all fun p =>
      decide (im.vecExecTime k k.mMax k.nMax k.kMax p ≤ 52800)
  | _ =>
    match im.pixel k, im.buf k.bufA with
    | some p, some a =>
      let o := im.pixelOut k (a.ext 3)
      let n := o.1 * o.2.1 * o.2.2
      (List.range (cdiv n p.execPos)).all fun i =>
        [0, 1].all fun w => !bit p.wheels w ||
          decide (im.pixelTime k w (a.ext 3) (i * p.execPos) (min ((i + 1) * p.execPos) n - 1) ≤ 52800)
    | _, _ => false

-- WCET (R219)

/-- Worst latency and rate of a fill of a buffer into a tile of a kiln, in ac and bytes per ac; staged says that it comes
from the kiln's own scratchpad stage. -/
def Buf.fillCost (b : Buf) (kiln : Nat) (staged : Bool) (bytes : Nat) : Nat × Nat :=
  if staged then (198, cdiv bytes 256)
  else if b.level = 0 then (if b.home = kiln then (792, cdiv bytes 96) else (1386, cdiv bytes 24))
  else if b.level = 1 then (if b.home = kiln then (198, cdiv bytes 256) else (792, cdiv bytes 24))
  else if b.level = 2 then (1386, cdiv bytes 24)
  else (792, cdiv bytes 24)

/-- R219: one matrix execution's term, and its narrow and widest times. how is 0 for every rung, 1 for REFERENCE mode, 2 for
the marked format alone (BUDGET_MARKED, R436). -/
def Image.execTerm (im : Image) (how : Nat) (k : Kernel) (kiln prev : Nat) (t : TilePlan) : Nat × Nat × Nat :=
  let staged := im.stageBytes k != 0
  let s := im.sideBytes k t.blocks
  let times :=
    if how = 1 && !k.mark.isWide then
      [if k.wideFmt = 2 then im.segTimes k t.blocks t.closes
       else im.matrixTime k (wideFmtOf k.wideFmt) t.blocks t.closes]
    else (im.rungs k).map fun f => im.matrixTime k f t.blocks t.closes
  let ca := match im.buf k.bufA with | some b => if t.fillA then b.fillCost kiln staged s.a else (0, 0) | none => (0, 0)
  let cb := match im.buf k.bufB with | some b => if t.fillB then b.fillCost kiln staged s.b else (0, 0) | none => (0, 0)
  let cc := match im.buf k.bufAux, k.shapeOf with
    | some b, some (ab, blk) =>
      if t.pos.2.2 = 0 then b.fillCost kiln false (ab.1 * blk.1 * b.lineBytes (ab.2 * blk.2)) else (0, 0)
    | _, _ => (0, 0)
  let fill := max (max ca.1 cb.1) cc.1 + ca.2 + cb.2 + cc.2
  ((if how = 2 then times.headD 0 else sumNat times) + (fill - prev), times.headD 0, times.getLastD 0)

/-- R219: the sum over one tile's executions, and the widest single time. -/
def Image.tileTerm (im : Image) (how : Nat) (k : Kernel) (kiln : Nat) (ts : List TilePlan) : Nat × Nat :=
  let r := ts.foldl (fun (a : Nat × Nat × Nat) t =>
    let e := im.execTerm how k kiln a.2.1 t
    (a.1 + e.1, e.2.1, max a.2.2 e.2.2)) (0, 0, 0)
  (r.1, r.2.2)

/-- R98: worst time of a chain after its members' partials are complete. -/
def Image.chainWorst (im : Image) (k : Kernel) : Nat :=
  match im.chains[k.chain]? with
  | none => 0
  | some c =>
    let hops := (c.members.zip (c.members.drop 1)).map fun p =>
      24 + (if p.1.rank != p.2.rank then 13200 else if p.1.kiln == p.2.kiln then 132 else 1320)
    let segs := cdiv ((im.sideBytes k 1).group * k.groups) 4096
    sumNat hops + (segs - 1) * 16

/-- R91, R211: what serving an UNBOUND tile adds to its server: the served executions and two switches for each. -/
def Image.servedTerm (im : Image) (how : Nat) (k : Kernel) (kiln : Nat) (ts : List TilePlan) : Nat :=
  let gb := (im.sideBytes k 1).group * k.groups
  (im.tileTerm how k kiln ts).1 + 2 * ts.length * cdiv (maxNat (ts.map (·.openDuring)) * gb) 512

/-- R219: the sum over one unit's executions, each with the times of its rungs and its worst fill, and the widest single time. -/
def unitTerm (how : Nat) (xs : List (List Nat × Nat)) : Nat × Nat :=
  let r := xs.foldl (fun (a : Nat × Nat × Nat) x =>
    (a.1 + (if how = 2 then x.1.headD 0 else sumNat x.1) + (x.2 - a.2.1), x.1.headD 0, max a.2.2 (x.1.getLastD 0))) (0, 0, 0)
  (r.1, r.2.2)

/-- Worst fill of several operands, each a buffer with the bytes read of it. -/
def Image.fillOf (im : Image) (kiln : Nat) (ops : List (Nat × (Buf → Nat))) : Nat :=
  let cs := ops.filterMap fun o => (im.buf o.1).map fun b => b.fillCost kiln false (o.2 b)
  maxNat (cs.map (·.1)) + sumNat (cs.map (·.2))

/-- How a kiln's logical tiles and pipelines are bound: its UNBOUND tiles (R211) and the pipelines it forms (R144). -/
structure KilnBind where
  unbound : List Nat
  formed : Nat
  deriving DecidableEq, Repr

/-- R144: the formed pipeline that does the work of a logical one; those beyond the formed ones are served in turn (DEDUCED, log 139). -/
def pipeServed (formed lp : Nat) : Nat := if lp < formed then lp else (lp - formed) % max 1 formed

/-- R159, R164, R219: one pipeline execution of r key blocks: its times at the forms it can take, and its worst fill. -/
def Image.attnExecTimes (im : Image) (how : Nat) (k : Kernel) (p : Pattern) (kiln r : Nat) (last : Bool) : List Nat × Nat :=
  let d := (headDim p.hd).getD 0
  let w := match im.buf k.bufOut with | some o => cdiv (128 * o.lineBytes d) 512 | none => 0
  let f := if last then d + w else 0
  let wideV := match im.buf k.bufB with | some b => b.fmt.isWide | none => false
  let forms := if how = 1 then [(BFmt.bf16, true)] else im.attnForms k p.pBf16
  (forms.map fun x => attnTime d x.1.isWide (x.2 || wideV) r f,
   im.fillOf kiln [(k.bufA, fun b => 128 * b.lineBytes d), (k.bufB, fun b => r * 256 * b.lineBytes d)])

/-- R218, R219: one vector execution's time and worst fill. -/
def Image.vecExecTerm (im : Image) (k : Kernel) (die m n len : Nat) (pos : Nat × Nat × Nat) : List Nat × Nat :=
  let s := im.vecSpan k m n len pos
  let reads := (im.opsOf k).flatMap fun o =>
    ([o.src0] ++ (if o.usesSrc1 then [o.src1] else []) ++ (if o.usesAux then [o.aux] else [])).map fun i =>
      (i, fun (b : Buf) => s.2.1 * b.lineBytes s.2.2.2)
  ([im.vecExecTime k m n len pos], im.fillOf die reads)

/-- R306, R308, R219: one pixel execution's time and the worst fill of its map. -/
def Image.pixelExecTerm (im : Image) (k : Kernel) (wheel tIn lo hi : Nat) : List Nat × Nat :=
  let fill := match im.buf k.bufA with
    | some a => (if a.level = 3 then 792 else 1386) + cdiv (im.pixelReads k tIn lo hi).1 (if a.level = 3 && a.home = wheel then 512 else 96)
    | none => 0
  ([im.pixelTime k wheel tIn lo hi], fill)

/-- R219: one kernel's worst unit and its widest execution, over all entries; binds gives how each kiln is bound. -/
def Image.kernelTerm (im : Image) (how : Nat) (binds : Nat → KilnBind) (entries : List Entry) (globals : List Nat)
    (k : Kernel) : Nat × Nat :=
  let worst (ts : List (Nat × Nat)) : Nat × Nat := (maxNat (ts.map (·.1)), maxNat (ts.map (·.2)))
  let live := (indexed entries).filter fun e => !e.2.zero
  match k.kind with
  | 0 =>
    let perEntry := live.map fun e => (im.headsOf k e.2).map fun _ => im.tilePlans k e.2.m e.2.n e.2.k
    let plans := (indexed k.tileList).map fun p => (p.2, perEntry.flatMap fun hs => hs.flatMap fun ts => ts.getD p.1 [])
    let planAt (q : Nat × Nat) : List TilePlan := match plans.find? fun p => p.1 == q with | some p => p.2 | none => []
    worst (((List.range 12).filter fun i => bit k.kilnMask i).flatMap fun i =>
      let un := (binds i).unbound
      let bound := (List.range 16).filter fun t => !un.contains t
      (indexed bound).map fun s =>
        let own := im.tileTerm how k i (planAt (i, s.2))
        let served := (indexed un).filter fun u => u.1 % max 1 bound.length == s.1
        (own.1 + sumNat (served.map fun u => im.servedTerm how k i (planAt (i, u.2))),
         maxNat (own.2 :: served.map fun u => (im.tileTerm how k i (planAt (i, u.2))).2)))
  | 1 =>
    match im.pattern k with
    | none => (0, 0)
    | some p =>
      let runs : List (Nat × (List Nat × Nat)) := live.flatMap fun e => (im.headsOf k e.2).flatMap fun h =>
        (List.range (cdiv (e.2.m * p.g) 128)).flatMap fun qb =>
          let parts := p.runsOf (p.visitList e.2.k globals e.2.qpos e.2.m qb)
          (indexed parts).flatMap fun part =>
            let u := im.attnUnit k p e.1 e.2 h qb part.1
            (indexed part.2).map fun r =>
              (u, im.attnExecTimes how k p (k.pipeList.getD u (0, 0)).1 r.2.length
                (decide (part.1 + 1 = parts.length) && decide (r.1 + 1 = part.2.length)))
      worst (((List.range 12).filter fun i => bit k.kilnMask i).flatMap fun i =>
        (List.range (binds i).formed).map fun s =>
          unitTerm how ((runs.filter fun r =>
            match k.pipeList[r.1]? with | some q => q.1 == i && pipeServed (binds i).formed q.2 == s | none => false).map (·.2)))
  | 2 =>
    let shares := live.flatMap fun e => (im.headsOf k e.2).map fun _ =>
      (e.2, splitRuns (List.range (cdiv e.2.m 256)) k.vecList.length)
    worst ((indexed k.vecList).map fun u =>
      unitTerm how (shares.flatMap fun s => (s.2.getD u.1 []).flatMap fun g =>
        (im.vecGroup k s.1.m s.1.n s.1.k g).map (im.vecExecTerm k u.2.1 s.1.m s.1.n s.1.k)))
  | _ =>
    match im.pixel k with
    | none => (0, 0)
    | some p =>
      let wheels := (List.range 2).filter fun w => bit p.wheels w
      worst ((indexed wheels).map fun w =>
        unitTerm how (live.flatMap fun e =>
          let o := im.pixelOut k e.2.m
          let n := o.1 * o.2.1 * o.2.2
          ((splitRuns (List.range (cdiv n p.execPos)) wheels.length).getD w.1 []).map fun i =>
            im.pixelExecTerm k w.2 e.2.m (i * p.execPos) (min ((i + 1) * p.execPos) n - 1)))

/-- R219: the WCET of a launch in ac. globalsFor gives a kernel's global list. -/
def Image.wcet (im : Image) (how : Nat) (binds : Nat → KilnBind) (globalsFor : Kernel → List Nat) (entries : List Entry) :
    Nat :=
  let ks := im.kernels.map fun k =>
    let t := im.kernelTerm how binds entries (globalsFor k) k
    (t.1 + im.chainWorst k + 1320, t.2)
  8250 + sumNat (ks.map (·.1)) + maxNat (ks.map (·.2))

end Sys2Proof.Machine
end

