-- ==== Sys2Proof/Machine/Rings.lean ====
section
/-! DEFINITION. The rings: configuration, doorbells, fetching, replies, interrupts (R392 to R401, R402, R403, R556). -/
namespace Sys2Proof.Machine

def State.sq (s : State) (n : Fin 64) : Sq := s.rings.sq.get n
def State.cq (s : State) (n : Fin 64) : Cq := s.rings.cq.get n
def State.setSq (n : Fin 64) (q : Sq) (s : State) : State := { s with rings := { s.rings with sq := s.rings.sq.set n q } }
def State.setCq (n : Fin 64) (q : Cq) (s : State) : State := { s with rings := { s.rings with cq := s.rings.cq.set n q } }

/-- R474: ring registers may be written from the end of step S01; they keep their values in ember (R464). -/
def Dev.ringsOpen (d : Dev) : Bool := d.ready || decide (1 < d.start.step)

/-- Ring sizes (R394, R395). -/
def ringSizeOk (l : BitVec 5) : Bool := decide (6 ≤ l.toNat) && decide (l.toNat ≤ 16)
def ringSize (l : BitVec 5) : Nat := 2 ^ l.toNat

/-- A refused ring write: CFG_ERR of a submission ring, and a register-protocol error (R397). -/
def State.sqRefuse (n : Fin 64) (s : State) : State :=
  (s.setSq n { s.sq n with cfgErr := true }).onDev Dev.protoError
def State.cqRefuse (n : Fin 64) (s : State) : State :=
  (s.setCq n { s.cq n with cfgErr := true }).onDev Dev.protoError

/-- R388: an 8-byte register has taken a value: no lower half is held for it any more. -/
def Dev.dropHold (r : Reg) (d : Dev) : Dev := { d with link := { d.link with holds := d.link.holds.filter fun h => h.1 != r } }

/-- A write to HUB_SQn_BASE or HUB_CQn_BASE, taken whole (R388, R393, R397). A reserved bit discards it (R3). -/
def State.ringBase (isCq : Bool) (n : Fin 64) (v : Long) (s : State) : State :=
  if !s.dev.ringsOpen then s
  else if v.toNat % 4096 ≠ 0 then s.onDev Dev.protoError
  else if isCq then
    if (s.cq n).enable then s.cqRefuse n else (s.setCq n { s.cq n with base := v }).onDev (Dev.dropHold (.cqBase n))
  else
    if (s.sq n).enable then s.sqRefuse n else (s.setSq n { s.sq n with base := v }).onDev (Dev.dropHold (.sqBase n))

/-- Bits of HUB_SQn_CFG and HUB_CQn_CFG that are reserved (R394, R395). -/
def sqRsv : Word := 0xFF80C080#32
def cqRsv : Word := 0x00080000#32

/-- The indices a completion ring starts from when enabled (R397). -/
def Cq.restart (q : Cq) : Cq := { q with tail := 0, head := 0, phase := true, uncovered := 0 }

/-- A write to HUB_SQn_CFG (R394, R397). ENABLE as it stood decides what may change; a refusal sets CFG_ERR, which wins over a
clear in the same write (R4), and counts once. -/
def State.sqWrite (n : Fin 64) (v : Word) (s : State) : State :=
  if !s.dev.ringsOpen then s
  else if v &&& sqRsv ≠ 0#32 then s.onDev Dev.protoError
  else
    let q := s.sq n
    let log2 := v.extractLsb' 0 5
    let cq := v.extractLsb' 8 6
    let want := v.getLsbD 5
    let q1 := { q with weight := v.extractLsb' 16 4, classMask := v.extractLsb' 20 3,
                       cfgErr := q.cfgErr && !v.getLsbD 6 }
    if q.enable then
      let bad := log2 != q.log2 || cq != q.cq
      let q2 := { q1 with enable := want, cfgErr := q1.cfgErr || bad }
      if bad then (s.setSq n q2).onDev Dev.protoError else s.setSq n q2
    else
      let q2 := { q1 with log2 := log2, cq := cq }
      if want then
        if ringSizeOk log2 && (s.cq (Fin.ofNat 64 cq.toNat)).enable then
          s.setSq n { q2 with enable := true, head := 0, tail := 0 }
        else (s.setSq n { q2 with cfgErr := true }).onDev Dev.protoError
      else s.setSq n q2

/-- Does an enabled submission ring name a completion ring, or a command in flight reply to it (R397). -/
def State.cqBusy (n : Fin 64) (s : State) : Bool :=
  (List.finRange 64).any (fun i => (s.sq i).enable && (s.sq i).cq.toNat == n.val) ||
  s.dev.link.cmds.any fun c => c.cq == n

/-- A write to HUB_CQn_CFG (R395, R397). -/
def State.cqWrite (n : Fin 64) (v : Word) (s : State) : State :=
  if !s.dev.ringsOpen then s
  else if v &&& cqRsv ≠ 0#32 then s.onDev Dev.protoError
  else
    let q := s.cq n
    let log2 := v.extractLsb' 0 5
    let want := v.getLsbD 5
    let q1 := { q with vector := v.extractLsb' 8 11, coalesceCount := v.extractLsb' 20 8,
                       coalesceUs := v.extractLsb' 28 4, cfgErr := q.cfgErr && !v.getLsbD 6,
                       fullSeen := q.fullSeen && !v.getLsbD 7 }
    if q.enable then
      let held := !want && s.cqBusy n
      let bad := log2 != q.log2 || held
      let q2 := { q1 with enable := want || held, cfgErr := q1.cfgErr || bad }
      if bad then (s.setCq n q2).onDev Dev.protoError else s.setCq n q2
    else
      let q2 := { q1 with log2 := log2 }
      if want then
        if ringSizeOk log2 then s.setCq n { q2.restart with enable := true }
        else (s.setCq n { q2 with cfgErr := true }).onDev Dev.protoError
      else s.setCq n q2

/-- A submission doorbell write (R398). -/
def State.sqBell (n : Fin 64) (v : Word) (s : State) : State :=
  if !s.dev.ringsOpen then s
  else
    let q := s.sq n
    if !q.enable || v.toNat ≥ ringSize q.log2 then s.sqRefuse n
    else s.setSq n { q with tail := BitVec.ofNat 16 v.toNat }

/-- A completion doorbell write (R398). -/
def State.cqBell (n : Fin 64) (v : Word) (s : State) : State :=
  if !s.dev.ringsOpen then s
  else
    let q := s.cq n
    if !q.enable || v.toNat ≥ ringSize q.log2 then s.cqRefuse n
    else s.setCq n { q with head := BitVec.ofNat 16 v.toNat }

-- Packets (R402 to R404)

/-- The fields of a packet's 64 bytes (R402). -/
def parsePacket (e : BitVec 512) : Packet :=
  { opcode := e.extractLsb' 0 8, cls := e.extractLsb' 8 2, fenceBefore := e.getLsbD 10, tag := e.extractLsb' 16 12,
    deadline := e.extractLsb' 64 48, o0 := e.extractLsb' 128 64, o1 := e.extractLsb' 192 64, o2 := e.extractLsb' 256 64,
    o3 := e.extractLsb' 320 64, o4 := e.extractLsb' 384 64, o5 := e.extractLsb' 448 64 }

/-- Reserved bits of the header: bits [7:3] of byte 1, bits [15:12] of TAG, bytes [7:4], bits [63:48] of DEADLINE. -/
def headerClean (e : BitVec 512) : Bool :=
  e.extractLsb' 11 5 == 0#5 && e.extractLsb' 28 4 == 0#4 && e.extractLsb' 32 32 == 0#32 && e.extractLsb' 112 16 == 0#16

/-- The classes an opcode runs in from a ring, by bit: service, bulk, bounded (R404); none for an unknown opcode. -/
def opClasses (op : Byte) : Option (BitVec 3) :=
  let o := op.toNat
  if o = 0x01 then some 3#3
  else if o = 0x02 then some 7#3
  else if o = 0x12 || o = 0x13 || o = 0x61 || o = 0x62 then some 6#3
  else if [0x20, 0x21, 0x22, 0x23].contains o then some 2#3
  else if [0x30, 0x31, 0x32, 0x33, 0x50].contains o then some 3#3
  else if [0x03, 0x10, 0x11, 0x14, 0x15, 0x16, 0x24, 0x40, 0x41, 0x51, 0x52, 0x60, 0x63, 0x70, 0x71, 0x72, 0x80, 0x81,
           0x82, 0x83, 0x90, 0x91, 0xA0, 0xA1, 0xA2, 0xB0, 0xB1, 0xF0].contains o then some 1#3
  else none

/-- A mask of bits [hi:lo]. -/
def maskBits (hi lo : Nat) : Nat := (2 ^ (hi + 1 - lo) - 1) * 2 ^ lo
def daMask : Nat := maskBits 47 0

/-- The bits of each operand slot that a packet's layout names (R403, R404). -/
def namedBits (p : Packet) : List Nat :=
  match p.opcode.toNat with
  | 0x02 => [1]
  | 0x03 => [maskBits 31 0, daMask, maskBits 31 0]
  | 0x10 => [daMask, maskBits 39 0]
  | 0x11 => [maskBits 7 0]
  | 0x12 => [maskBits 9 0, daMask, maskBits 63 0]
  | 0x13 => [maskBits 8 0, daMask]
  | 0x14 => [maskBits 11 0]
  | 0x15 => [maskBits 11 0]
  | 0x16 => [maskBits 11 0]
  | 0x20 => [if p.o3.getLsbD 16 then maskBits 63 0 else daMask, if p.o3.getLsbD 17 then maskBits 63 0 else daMask,
             maskBits 39 0, maskBits 17 0, daMask, daMask]
  | 0x21 => [daMask, maskBits 39 0, maskBits 63 0]
  | 0x22 => [daMask, maskBits 39 0, 1 + maskBits 15 8]
  | 0x23 => [daMask, maskBits 39 0, 1 + maskBits 15 8]
  | 0x24 => [maskBits 24 0, daMask, maskBits 15 0]
  | 0x30 => if p.o0.getLsbD 0 then [1, maskBits 3 0 + maskBits 16 8, daMask, daMask, daMask, daMask]
            else [1, maskBits 3 0 + maskBits 24 16 + maskBits 38 32 + maskBits 42 40 + maskBits 51 48, maskBits 17 0]
  | 0x31 => [maskBits 13 0, maskBits 31 0, maskBits 17 0]
  | 0x32 => if p.o0.getLsbD 0 then [1, maskBits 3 0] else [1, maskBits 13 0]
  | 0x33 => [maskBits 13 0, maskBits 31 0]
  | 0x40 => [daMask, maskBits 31 0, maskBits 16 0]
  | 0x41 => [daMask, maskBits 31 0, maskBits 7 0 + maskBits 32 16]
  | 0x50 => [daMask]
  | 0x51 => [daMask]
  | 0x52 => [maskBits 15 0]
  | 0x60 => [daMask]
  | 0x61 => [maskBits 5 0 + maskBits 63 32, daMask, maskBits 31 0, daMask]
  | 0x62 => [maskBits 5 0 + maskBits 17 8, daMask, maskBits 31 0, daMask]
  | 0x63 => [maskBits 5 0]
  | 0x70 => [daMask, maskBits 31 0]
  | 0x71 => [maskBits 4 0, maskBits 31 0]
  | 0x72 => [maskBits 4 0]
  | 0x80 => [daMask, maskBits 39 0, maskBits 2 0]
  | 0x81 => [maskBits 2 0]
  | 0x83 => [daMask, daMask, maskBits 31 0]
  | 0x90 => [maskBits 8 0]
  | 0x91 => [maskBits 31 0]
  | 0xA1 => [1]
  | 0xA2 => [maskBits 13 0 + maskBits 30 16 + maskBits 35 32, daMask]
  | 0xB0 => [daMask]
  | 0xB1 => [daMask]
  | 0xF0 => [daMask, maskBits 31 0]
  | _ => []

/-- Does every set bit of a slot lie in a mask. -/
def inMask (x : Long) (m : Nat) : Bool := x.toNat &&& m == x.toNat

/-- R403's last check: unnamed bits zero, and the operands whose range R404 or the command's rule gives without a status of its
own (DEDUCED, log 5). -/
def operandsOk (p : Packet) : Bool :=
  let ms := namedBits p
  ([p.o0, p.o1, p.o2, p.o3, p.o4, p.o5].zip (List.range 6)).all (fun x => inMask x.1 (ms.getD x.2 0)) &&
  match p.opcode.toNat with
  | 0x12 => opnd p.o0 9 8 != 3
  | 0x13 => decide (1 ≤ opnd p.o0 8 0) && decide (opnd p.o0 8 0 ≤ 256)
  | 0x20 => opnd p.o3 15 0 != 0
  | 0x22 => decide (opnd p.o2 15 8 ≤ 11) || opnd p.o2 15 8 == 0xFF
  | 0x23 => decide (opnd p.o2 15 8 ≤ 11) || opnd p.o2 15 8 == 0xFF
  | 0x40 => decide (opnd p.o2 15 8 ≤ 11)
  | _ => true

/-- Opcodes carried out in ember (R469) and in recovery mode (R494). -/
def emberOps : List Nat := [0x01, 0x03, 0x90, 0x91, 0x83, 0xF0]
def recoveryOps : List Nat := [0x01, 0x03, 0x80, 0x81, 0x83, 0xF0]

/-- R403: the checks in order; the status of the first that fails, and whether the packet holds its tag (R409). In ember and
in recovery mode the opcodes that R469 and R494 leave out are refused once R403 has passed. -/
def checkPacket (q : Sq) (e : BitVec 512) (d : Dev) : Half × Bool :=
  let p := parsePacket e
  match opClasses p.opcode with
  | none => (stOpcodeInvalid, false)
  | some cs =>
    if !headerClean e || (p.cls != 2#2 && p.deadline != 0#48) then (stPacketFormat, false)
    else if p.cls == 3#2 || !(cs &&& q.classMask).getLsbD p.cls.toNat then (stClassInvalid, false)
    else if (d.tagHolder p.tag).isSome then (stTagBusy, false)
    else if !operandsOk p then (stPacketFormat, true)
    else if d.ember && !emberOps.contains p.opcode.toNat then (stPowerState, true)
    else if d.start.recovery && !recoveryOps.contains p.opcode.toNat then (stFiringNone, true)
    else (stOk, true)

-- Fetching (R398, R399, R410, R411)

def Sq.hasWork (q : Sq) : Bool := q.enable && q.head != q.tail

/-- Does a fence, fetched and not complete, hold a ring's packets (R411). -/
def Dev.ringHeld (d : Dev) (n : Fin 64) : Bool :=
  d.link.cmds.any fun c => c.sq == n &&
    (c.phase == .fence || (c.phase == .waiting && c.pkt.opcode == 0x02#8) ||
     (c.phase == .waiting && c.pkt.fenceBefore && !controlOp c.pkt.opcode && !d.admissible c))

/-- Rings in the order of the round robin: the ring of the current turn while its WEIGHT lasts, then the others ascending
(R399). -/
def State.rrOrder (s : State) : List (Fin 64) :=
  let r := s.dev.link.rrRing
  let rest := (List.range 64).map fun i => Fin.ofNat 64 (r.val + 1 + i)
  if s.dev.link.rrTaken < max 1 (s.sq r).weight.toNat then r :: rest.dropLast else rest

/-- May the next entry be fetched from ring n, when its opcode is op: the ring has work, no fence holds the entry, and every
ring before it in the order is skipped. -/
def State.mayFetch (n : Fin 64) (op : Byte) (s : State) : Bool :=
  (s.sq n).hasWork && (controlOp op || !s.dev.ringHeld n) &&
  ((s.rrOrder.takeWhile (· != n)).all fun m => !(s.sq m).hasWork || s.dev.ringHeld m)

/-- The device fetches from rings at all (R386, R468, R474). -/
def Dev.fetching (d : Dev) : Bool :=
  d.ready && (d.power.state == 0#2 || d.power.state == 2#2) && decide (0 < (d.repair.lamps.toList.filter (·.ok)).length)

/-- The next entry of a ring, by index. -/
def nextIndex (i : Half) (l : BitVec 5) : Half := BitVec.ofNat 16 ((i.toNat + 1) % ringSize l)

/-- R399, R402, R403, R410: fetch the entry at a ring's HEAD. -/
def State.fetch (n : Fin 64) (e : BitVec 512) (s : State) : State :=
  if !s.dev.fetching then s
  else if s.dev.link.cmds.length ≥ 4096 then
    if (s.sq n).hasWork then s.onDev fun d => { d with link := { d.link with tagLimitSeen := true } } else s
  else
    let p := parsePacket e
    if !s.mayFetch n p.opcode then s
    else
      let q := s.sq n
      let chk := checkPacket q e s.dev
      let lamps := (List.range 9).filter fun i => match s.dev.repair.lamps[i]? with | some l => l.ok | none => false
      let pk := s.dev.pick lamps
      let c : Cmd := { id := s.dev.link.nextId, sq := n, cq := Fin.ofNat 64 q.cq.toNat, core := pk.1.getD 0,
                       holdsTag := chk.2, pkt := p, phase := if chk.1 = stOk then .waiting else .refused,
                       reply := { status := chk.1 } }
      (s.setSq n { q with head := nextIndex q.head q.log2 }).onDev fun _ =>
        let d := pk.2.count hubDie 0x01 n.val 1
        { d with link := { d.link with
            cmds := d.link.cmds ++ [c], nextId := d.link.nextId + 1, rrRing := n,
            rrTaken := if d.link.rrRing = n && d.link.rrTaken < max 1 q.weight.toNat then d.link.rrTaken + 1 else 1,
            tagBusySeen := d.link.tagBusySeen || chk.1 == stTagBusy } }

/-- R556: a host error on the read of the entry at a ring's HEAD. -/
def State.entryError (n : Fin 64) (s : State) : State :=
  if s.dev.fetching && (s.sq n).hasWork then
    (s.setSq n { s.sq n with enable := false, cfgErr := true }).onDev (Dev.emit (.aer .ringEntry))
  else s

-- Replies (R400, R401, R406)

/-- The 32 bytes of a reply. -/
def replyBytes (c : Cmd) (sqHead : Half) (phase : Bool) : List Byte :=
  leBytes 2 c.reply.status.toNat ++ leBytes 2 (c.pkt.tag.toNat + b2n phase * 2 ^ 15) ++ [c.pkt.opcode] ++
  leBytes 1 c.sq.val ++ leBytes 2 sqHead.toNat ++ (c.reply.body ++ List.replicate 24 0#8).take 24

def Cq.full (q : Cq) : Bool := nextIndex q.tail q.log2 == q.head

/-- Advance a completion ring's tail, inverting the phase when it wraps (R400). -/
def Cq.advance (q : Cq) : Cq :=
  let t := nextIndex q.tail q.log2
  { q with tail := t, phase := if t = 0 then !q.phase else q.phase }

/-- R401: after an entry with a status is written, send the ring's message or leave it uncovered. -/
def State.cqNotify (n : Fin 64) (status : Half) (s : State) : State :=
  let q := s.cq n
  let un := q.uncovered + 1
  if q.vector = 0#11 then s
  else if un ≥ max 1 q.coalesceCount.toNat || q.coalesceUs = 0#4 || 0x10 ≤ status.toNat then
    (s.setCq n { q with uncovered := 0 }).onDev (Dev.sendMsix q.vector.toNat)
  else s.setCq n { q with uncovered := un, coverAt := if q.uncovered = 0 then s.dev.after q.coalesceUs.toNat else q.coverAt }

/-- Write one 32-byte entry at a completion ring's tail, with its interrupt. -/
def State.post (n : Fin 64) (status : Half) (bytes : List Byte) (s : State) : State :=
  let q := s.cq n
  ((s.setCq n q.advance).onDev fun d =>
    (d.emit (.ringWrite n (q.base.toNat + 32 * q.tail.toNat) bytes)).count hubDie 0x02 n.val 1).cqNotify n status

/-- R411: fences whose earlier commands have all written their replies complete. -/
def Dev.settleFences (d : Dev) : Dev :=
  d.each (d.link.cmds.filter fun c => c.phase == .fence &&
      !(d.link.cmds.any fun e => decide (e.id < c.id) && (e.sq == c.sq || c.pkt.o0.getLsbD 0)))
    fun c d => d.okCmd c.id 0 0 0

/-- R413, R414: CANCEL and PREEMPT that wait for a command's reply complete once it is written, with the status they were
given; a CANCEL whose target finished first, with a status st of its own, with ST_TAG_IDLE. -/
def Dev.settleAfter (gone : Nat) (st : Half) (d : Dev) : Dev :=
  d.each (d.link.cmds.filter fun c => c.phase == .after gone) fun c d =>
    d.endCmd c.id (if c.pkt.opcode == 0x16#8 && st != stCancelled then stTagIdle else c.reply.status) (vals 0 0 0)

/-- R468, R471: once EMBER's reply is written STATE becomes EMBER; a wake that waited begins the exit. -/
def Dev.emberReached (gone : Nat) (d : Dev) : Dev :=
  if d.power.state == 1#2 && d.power.emberCmds.contains gone then
    let cs := d.power.emberCmds.filter (· != gone)
    match d.power.pendingWake with
    | some w => { d with power := { d.power with state := 3, wakeSource := w, pendingWake := none, emberCmds := cs },
                         pins := { d.pins with wakeN := d.pins.wakeN && w != 2#2 } }
    | none => { d with power := { d.power with state := 2, emberCmds := cs } }
  else d

/-- R400: write the oldest reply that waits for a completion ring, if the ring has room. -/
def State.replyWrite (n : Fin 64) (s : State) : State :=
  match s.dev.link.replies.find? fun id => s.dev.link.cmds.any fun c => c.id == id && c.cq == n with
  | none => s
  | some id =>
    match s.dev.cmd id with
    | none => s
    | some c =>
      if !(s.cq n).enable then s
      else if (s.cq n).full then
        (s.setCq n { s.cq n with fullSeen := true }).onDev fun d => { d with link := { d.link with cqFullSeen := true } }
      else
        let b := replyBytes c (s.sq c.sq).head (s.cq n).phase
        (s.post n c.reply.status b).onDev fun d =>
          let d := { d with link := { d.link with cmds := d.link.cmds.filter (fun e => e.id != id),
                                                  replies := d.link.replies.filter (· != id) } }
          ((d.settleAfter id c.reply.status).settleFences).emberReached id

/-- R401: COALESCE_US after the first uncovered reply. -/
def State.coalesceEnd (n : Fin 64) (s : State) : State :=
  let q := s.cq n
  if q.uncovered = 0 || q.vector = 0#11 || !s.dev.due q.coverAt then s
  else (s.setCq n { q with uncovered := 0 }).onDev (Dev.sendMsix q.vector.toNat)

/-- R439: post the candle reports that wait; one that finds its ring full or disabled is discarded. -/
def State.flushReports (s : State) : State :=
  let rs := s.dev.candle.reports
  rs.foldl (fun acc r =>
    let q := acc.cq r.1
    if !q.enable || q.full then
      acc.onDev fun d => { d with candle := { d.candle with seen := d.candle.seen ||| 8#6 } }
    else
      acc.post r.1 (BitVec.ofNat 16 (bytesAt r.2 1 0))
        (r.2.take 2 ++ leBytes 2 (b2n q.phase * 2 ^ 15) ++ r.2.drop 4))
    (s.onDev fun d => { d with candle := { d.candle with reports := [] } })

-- Meanings

/-- RING_BASE_WRITE (R397). -/
def execRingBaseWrite (isCq : Bool) (n : Fin 64) (v : Long) (s : State) : Out := .next (s.ringBase isCq n v)
/-- SQ_ENABLE (R397): a write that has ENABLE set. -/
def execSqEnable (n : Fin 64) (v : Word) (s : State) : Out := .next (s.sqWrite n (v ||| 0x20#32))
/-- SQ_DISABLE (R397): a write that has ENABLE clear. -/
def execSqDisable (n : Fin 64) (v : Word) (s : State) : Out := .next (s.sqWrite n (v &&& ~~~0x20#32))
/-- CQ_ENABLE (R397). -/
def execCqEnable (n : Fin 64) (v : Word) (s : State) : Out := .next (s.cqWrite n (v ||| 0x20#32))
/-- CQ_DISABLE (R397). -/
def execCqDisable (n : Fin 64) (v : Word) (s : State) : Out := .next (s.cqWrite n (v &&& ~~~0x20#32))
/-- SQ_DOORBELL (R398). -/
def execSqDoorbell (n : Fin 64) (v : Word) (s : State) : Out := .next (s.sqBell n v)
/-- CQ_DOORBELL (R398). -/
def execCqDoorbell (n : Fin 64) (v : Word) (s : State) : Out := .next (s.cqBell n v)
/-- PACKET_FETCH (R399). -/
def execPacketFetch (n : Fin 64) (e : BitVec 512) (s : State) : Out := .next (s.fetch n e)
/-- SQ_ENTRY_READ_ERROR (R556). -/
def execSqEntryReadError (n : Fin 64) (s : State) : Out := .next (s.entryError n)
/-- OPCODE_INVALID_PACKET (R403): the oldest packet that failed R403 completes with its status. -/
def execOpcodeInvalidPacket (s : State) : Out :=
  .next (s.onDev fun d =>
    match d.link.cmds.find? fun c => c.phase == .refused with
    | some c => d.endCmd c.id c.reply.status (vals 0 0 0)
    | none => d)
/-- REPLY_WRITE (R400). -/
def execReplyWrite (n : Fin 64) (s : State) : Out := .next (s.replyWrite n)
/-- MSIX_COALESCE_TIMEOUT (R401). -/
def execMsixCoalesceTimeout (n : Fin 64) (s : State) : Out := .next (s.coalesceEnd n)

/-- R401: send the pending messages that no mask holds. -/
def Dev.flushPending (d : Dev) : Dev :=
  let m := d.link.msix
  if !m.enable || m.functionMask then d
  else
    let free := m.pending.filter fun v => !(m.entry v).control.getLsbD 0
    let d1 := { d with link := { d.link with msix := { m with pending := m.pending.filter fun v => !free.contains v } } }
    d1.each free Dev.sendMsix

/-- MSIX_UNMASK (R401): Function Mask, or one vector's Mask bit, is cleared. -/
def execMsixUnmask (v : Option (Fin 2048)) (s : State) : Out :=
  .next (s.onDev fun d =>
    let m := d.link.msix
    let m' := match v with
      | none => { m with functionMask := false }
      | some v =>
        let e := m.entry v.val
        { m with entries := insertBy (fun a b => decide (a.1 ≤ b.1)) (v.val, { e with control := e.control &&& ~~~1#32 })
                              (m.entries.filter fun p => p.1 != v.val) }
    ({ d with link := { d.link with msix := m' } } : Dev).flushPending)

/-- NOP (R404). -/
def execNop (tag : Tag) (s : State) : Out := .next (s.onDev (Dev.onCmd tag 0x01 fun c d => d.okCmd c.id 0 0 0))

/-- FENCE (R411); a bounded FENCE whose DEADLINE has been reached is refused (R429). -/
def execFence (tag : Tag) (s : State) : Out :=
  .next (s.onDev (Dev.onCmd tag 0x02 fun c d =>
    if c.cls = 2 && reached d.phaseNow c.pkt.deadline.toNat then d.refuse c.id stDeadline
    else (d.setPhase c.id .fence).settleFences))

end Sys2Proof.Machine
end

