-- ==== Sys2Proof/Machine/Cache.lean ====
section
/-! DEFINITION. The shared caches of the kilns, and what accesses count on stacks and board memory (R229, R230, R240, R528). -/
namespace Sys2Proof.Machine

/-- The lines of 64 bytes a kiln's shared cache holds: the steps of die shared memory that are not scratchpad (R228). -/
def Dev.cacheLines (d : Dev) (k : Fin 12) : Nat := (16 - (d.kilns.get k).shmem.inForce) * 0x20000

/-- The kiln of a stack number. -/
def stackKiln (s : Nat) : Fin 12 := Fin.ofNat 12 (s / 2)

/-- 64 B units of a stack's bytes read or written (R528). -/
def Dev.stackBytes (write : Bool) (s : Nat) (d : Dev) : Dev := d.count (kilnDie (stackKiln s)) (if write then 0x21 else 0x20) (s % 2) 1

/-- A dirty line that leaves a cache is written back to its stack. -/
def Dev.writeBack (line : Nat × Bool) (d : Dev) : Dev :=
  match line.2, d.stackOf (64 * line.1) with
  | true, some s => d.stackBytes true s
  | _, _ => d

/-- R230: a line enters a cache; a full cache drops one, whose choice is the device's (DESIGN CHOICE, log 142). -/
def Dev.allocLine (k : Fin 12) (line : Nat) (dirty : Bool) (d : Dev) : Dev :=
  let held := d.caches.get k
  let i := Config.cacheVictim held line % max 1 held.length
  let full := decide (d.cacheLines k ≤ held.length)
  let d1 := match full, held[i]? with
    | true, some v => d.writeBack v
    | _, _ => d
  { d1 with caches := d1.caches.set k ((line, dirty) :: if full then held.eraseIdx i else held) }

/-- R230: an access to one line of a stack. A cache of zero steps serves and counts nothing; a hit is served by the cache, and a write
makes its line dirty; a miss goes to the stack, through a new line where the access allocates. -/
def Dev.lineAccess (write alloc : Bool) (s line : Nat) (d : Dev) : Dev :=
  let k := stackKiln s
  let c := d.caches.get k
  if d.cacheLines k = 0 then d.stackBytes write s
  else if c.any fun x => x.1 == line then
    ({ d with caches := d.caches.set k (c.map fun x => if x.1 == line then (line, x.2 || write) else x) } : Dev).count (kilnDie k) 0x24 0 1
  else
    let d1 := d.count (kilnDie k) 0x25 0 1
    if alloc then (if write then d1 else d1.stackBytes false s).allocLine k line write else d1.stackBytes write s

/-- Bytes of [o, o+n) of the crock tier in the channel of place c among m. -/
def channelBytes (c m o n : Nat) : Nat :=
  let below (x : Nat) : Nat := x / (1024 * m) * 1024 + min 1024 (x % (1024 * m) - 1024 * c)
  below (o + n) - below o

/-- [a, a+n) by the units of the window, each of which lies whole in one place; a direct range is one piece. -/
def unitPieces (a n : Nat) : List (Nat × Nat) :=
  if n = 0 then [] else if a < windowBase then [(a, n)]
  else (unitsOf a n).map fun ix =>
    let lo := max a (windowBase + ix * unitBytes)
    (lo, min (a + n) (windowBase + (ix + 1) * unitBytes) - lo)

/-- The counts of a piece: lines of a stack through its cache, or bytes of the crock tier by channel. -/
def Dev.pieceTraffic (write alloc : Bool) (a n : Nat) (d : Dev) : Dev :=
  match d.stackOf a with
  | some s => d.each ((List.range ((a + n - 1) / 64 + 1 - a / 64)).map (· + a / 64)) (Dev.lineAccess write alloc s)
  | none =>
    if d.whereOf a ≠ 2 then d
    else
      d.each (indexed d.tier.channels) fun c e =>
        e.count crockDie (if write then 0x02 else 0x01) c.2 (cdiv (channelBytes c.1 (max 1 d.tier.channels.length) (d.crockOff a) n) 64)

/-- R230, R528: an access to memory as the caches and counters see it. alloc says that it is an atomic's, the host's or a vector
unit's. -/
def Dev.traffic (write alloc : Bool) (a n : Nat) (d : Dev) : Dev :=
  d.each (unitPieces a n) fun p d => d.pieceTraffic write alloc p.1 p.2

/-- R229, R464: a cache writes its dirty lines back and is emptied, or drops the lines it has no room for; which ones is not said, and
all go. -/
def Dev.emptyCache (k : Fin 12) (d : Dev) : Dev :=
  let d1 := d.each (d.caches.get k) Dev.writeBack
  { d1 with caches := d1.caches.set k [] }

/-- R241: the lines of a unit leave the cache of the stack it moves from. -/
def Dev.dropUnitLines (ix : Nat) (d : Dev) : Dev :=
  let mine (x : Nat × Bool) : Bool := unitOf (64 * x.1) == ix && decide (windowBase ≤ 64 * x.1)
  match (d.tier.unit ix).place with
  | none => d
  | some s =>
    let c := d.caches.get (stackKiln s)
    let d1 := d.each (c.filter mine) Dev.writeBack
    { d1 with caches := d1.caches.set (stackKiln s) (c.filter fun x => !mine x) }

end Sys2Proof.Machine
end

