-- ==== Sys2Proof/Machine/Tier.lean ====
section
/-! DEFINITION. Migration beneath stable addresses: slots, heat, promotions, demotions, pins (R241 to R246, R511). -/
namespace Sys2Proof.Machine

/-- R246: units that carry a pin mark. -/
def TierPart.pinnedCount (t : TierPart) : Nat := (t.placed.filter UUnit.pinned).length
/-- R246: how many units may be pinned. -/
def TierPart.pinLimit (t : TierPart) : Nat := t.stackUnits - t.reserve - 512
/-- Units that a PIN in progress will pin (R246). -/
def TierPart.pinGoing (t : TierPart) : List Nat :=
  (t.migCmds.flatMap fun q => if q.pin then q.left else []).eraseDups.filter fun ix => !(t.unit ix).pinned
/-- R246: the units pinned once these and those that PINs in progress still promote are. -/
def TierPart.pinnedWith (t : TierPart) (ixs : List Nat) : Nat :=
  t.pinnedCount + ((t.pinGoing.filter fun ix => !ixs.contains ix) ++ ixs.filter fun ix => !(t.unit ix).pinned).length

/-- A unit is being moved, or is the victim of a swap. -/
def TierPart.moving (t : TierPart) (ix : Nat) : Bool := t.moves.any fun m => m.ix == ix || m.victim == some ix
/-- Moves that fill an empty stack slot, and those that empty one. -/
def TierPart.filling (t : TierPart) : Nat := t.moves.countP fun m => m.dest.isSome && m.victim.isNone
def TierPart.emptying (t : TierPart) : Nat := t.moves.countP fun m => m.dest.isNone
/-- Stack slots that no unit has and no move fills. -/
def TierPart.emptySlots (t : TierPart) : Nat := t.stackUnits - t.retiredSince.length - t.inStack - t.filling

/-- R245: automatic migration leaves a unit alone that an outstanding MIGRATE names, or named until an epoch ago. -/
def TierPart.named (t : TierPart) (ix : Nat) : Bool :=
  t.migCmds.any (fun q => decide (q.first ≤ ix) && decide (ix < q.first + q.named)) ||
  t.rests.any fun r => decide (r.1 ≤ ix) && decide (ix < r.1 + r.2.1) && decide (t.epochNo ≤ r.2.2)

-- Slots (R241)

/-- A slot that a recorded unit has, that a move will fill, or that has retired since the start. -/
def TierPart.slotTaken (t : TierPart) (p : Option Nat × Nat) : Bool :=
  t.placed.any (fun u => u.place == p.1 && u.slot == p.2) ||
  match p.1 with
  | none => false
  | some s => t.moves.any (fun m => m.dest == some s && m.victim.isNone && m.slot == p.2) || t.retiredSince.contains (t.slotNo s p.2)
/-- The slots that recorded units left. -/
def TierPart.leftSlots (t : TierPart) : List (Option Nat × Nat) := t.placed.map fun u => ((t.fresh u.ix).place, (t.fresh u.ix).slot)
/-- Empty slots of stacks for which a test holds: those that units left, and those that were empty at the start. -/
def TierPart.emptyStack (ok : Nat → Bool) (t : TierPart) : List (Nat × Nat) :=
  let near := t.stacksIn.length * (t.placed.length + t.moves.length + t.retiredSince.length + 1)
  let first := ((List.range (min near (t.stackUnits - t.stackFill))).map fun g => t.goodSlot (t.stackFill + g)).filter fun p =>
    !t.slotTaken (some p.1, p.2)
  let again := (t.leftSlots.filter fun p => !t.slotTaken p).filterMap fun p => p.1.map fun s => (s, p.2)
  (again ++ first).filter fun p => ok p.1
/-- Empty slots of the crock's backing. -/
def TierPart.emptyCrock (t : TierPart) : List Nat :=
  let used := t.units - t.stackFill
  let first := (List.range (min (t.placed.length + 1) (t.crockUnits - used))).map (· + used)
  ((t.leftSlots.filter fun p => p.1.isNone).map (·.2) ++ first).filter fun s => !t.slotTaken (none, s)

/-- Give a unit a slot, keeping the count of units in stacks. -/
def TierPart.settle (ix : Nat) (p : Option Nat) (slot : Nat) (t : TierPart) : TierPart :=
  let u := t.unit ix
  let t1 := t.putUnit { u with place := p, slot := slot }
  { t1 with inStack := t1.inStack - b2n u.place.isSome + b2n p.isSome }

-- What moves (R243)

/-- R243: of the unpinned stack units that are not moving and not barred, the one of lowest heat, and among equals of lowest DA. -/
def TierPart.coldest (t : TierPart) (barred : UUnit → Bool) : Option UUnit :=
  let us := ((List.range t.units).map t.unit).filter fun u => u.place.isSome && !u.pinned && !t.moving u.ix && !barred u
  match us with
  | [] => none
  | u :: r => some (r.foldl (fun b x => if x.heat < b.heat then x else b) u)

def TierPart.addMove (m : UMove) (t : TierPart) : TierPart := { t with moves := t.moves ++ [m] }

/-- R243: keep the reserve: queue demotions of the coldest units for the slots that are short. -/
def TierPart.keepReserve (t : TierPart) : TierPart :=
  iterate (fun (t : TierPart) =>
    match t.coldest fun u => t.named u.ix with
    | some u => t.addMove { ix := u.ix, dest := none }
    | none => t) (t.reserve - (t.emptySlots + t.emptying)) t

/-- R243: a promotion into stacks for which a test holds: into an empty slot of the device's choice, or as a swap with the coldest
unit there that is not barred. -/
def Dev.promoteTo (ok : Nat → Bool) (barred : UUnit → Bool) (ix : Nat) (d : Dev) : Option Dev :=
  match d.tier.emptyStack ok with
  | e :: es =>
    let r := d.pick (e :: es)
    let s := r.1.getD e
    some { r.2 with tier := r.2.tier.addMove { ix := ix, dest := some s.1, slot := s.2 } }
  | [] =>
    match d.tier.coldest fun u => barred u || u.ix == ix || !(u.place.any ok) with
    | some v => some { d with tier := d.tier.addMove { ix := ix, dest := v.place, slot := v.slot, victim := some v.ix } }
    | none => none

/-- R245: a promotion to a kiln's stacks, or to any where the kiln has no place for it; without a place at all the unit waits
(DESIGN CHOICE, log 12). -/
def Dev.promote (kiln : Nat) (barred : UUnit → Bool) (ix : Nat) (d : Dev) : Dev :=
  match d.promoteTo (fun s => kiln = 0xFF || s / 2 == kiln) barred ix with
  | some e => e
  | none => (d.promoteTo (fun _ => true) barred ix).getD d

def TierPart.setHeat (t : TierPart) : TierPart :=
  { t with placed := t.placed.map fun u =>
      { u with heat := u.heat / 2 + min 128 (u.traffic / 0x10000), traffic := 0 } }

-- Commands that wait for moves (R245, R246)

/-- The units of a command that have not switched; one that was pinned stays where it is. -/
def TierPart.stillLeft (t : TierPart) (q : MigCmd) : List Nat :=
  q.left.filter fun ix => if q.up then (t.unit ix).place.isNone else (t.unit ix).place.isSome && !(t.unit ix).pinned

/-- Set or clear the host pin mark of a unit. -/
def TierPart.hostPin (on : Bool) (ix : Nat) (t : TierPart) : TierPart := t.putUnit { t.unit ix with hostPin := on }

/-- Moves towards what a command asks for, for its units that are not moving yet. Its own units are no victims. -/
def Dev.startMoves (q : MigCmd) (d : Dev) : Dev :=
  d.each q.left fun ix d =>
    if d.tier.moving ix then d
    else if q.up then d.promote q.kiln (fun u => q.left.contains u.ix || (decide (q.first ≤ u.ix) && decide (u.ix < q.first + q.named))) ix
    else { d with tier := d.tier.addMove { ix := ix, dest := none } }

/-- A command's progress: pin marks for units that have switched, its end when none is left, and else moves for those that wait. -/
def Dev.migStep (q : MigCmd) (d : Dev) : Dev :=
  let left := d.tier.stillLeft q
  let t := if q.pin then (q.left.filter fun ix => !left.contains ix).foldl (fun t ix => t.hostPin true ix) d.tier else d.tier
  if left.isEmpty then
    let rests := if q.named = 0 then t.rests else t.rests ++ [(q.first, q.named, t.epochNo + 1)]
    ({ d with tier := { t with migCmds := t.migCmds.filter fun x => x.cmd != q.cmd, rests := rests } } : Dev).okCmd q.cmd q.count 0 0
  else
    ({ d with tier := { t with migCmds := t.migCmds.map fun x => if x.cmd == q.cmd then { x with left := left } else x } } : Dev).startMoves
      { q with left := left }
def Dev.migSettle (d : Dev) : Dev := d.each d.tier.migCmds Dev.migStep

/-- R242: units that become pinned do not leave their stacks: demotions of them and swaps with them are given up. -/
def TierPart.hold (ixs : List Nat) (t : TierPart) : TierPart :=
  { t with moves := t.moves.filter fun m => !((m.dest.isNone && ixs.contains m.ix) || m.victim.any ixs.contains) }

-- Units and failed channels (R240, R513)

/-- The KiB blocks of the window that lie in a failed channel, after the channel fails or a unit moves. -/
def Dev.remap (d : Dev) : Dev :=
  if d.mem.dead.isEmpty then d
  else
    let crock := (List.range d.tier.units).filter fun ix => (d.tier.unit ix).place.isNone
    let blocks := crock.flatMap fun ix => (List.range 2048).map fun b => windowBase / 1024 + ix * 2048 + b
    { d with mem := { d.mem with deadWin := blocks.filter fun b => d.mem.dead.contains (d.crockOff (b * 1024) / 1024 % max 1 d.mem.channels) } }

-- A move's end (R242)

/-- The crock unit of greatest heat that is not moving: the one that gives its slot for a unit that MIGRATE sends down where the crock's
backing is full (DESIGN CHOICE, log 12). -/
def TierPart.hottestCrock (t : TierPart) : Option UUnit :=
  match ((List.range t.units).map t.unit).filter fun u => u.place.isNone && !t.moving u.ix with
  | [] => none
  | u :: r => some (r.foldl (fun b x => if b.heat < x.heat then x else b) u)

/-- The units a finished move puts elsewhere, with their new slots: none where a demotion finds no slot. -/
def Dev.moveEnds (m : UMove) (d : Dev) : List (Nat × Option Nat × Nat) × Dev :=
  let u := d.tier.unit m.ix
  match m.dest, m.victim with
  | some s, none => ([(m.ix, some s, m.slot)], d)
  | some _, some v => let w := d.tier.unit v; ([(m.ix, w.place, w.slot), (v, none, u.slot)], d)
  | none, _ =>
    match d.tier.emptyCrock with
    | e :: es => let r := d.pick (e :: es); ([(m.ix, none, r.1.getD e)], r.2)
    | [] =>
      match d.tier.migCmds.any (fun q => !q.up && q.left.contains m.ix), d.tier.hottestCrock with
      | true, some h => ([(m.ix, none, h.slot), (h.ix, u.place, u.slot)], d)
      | _, _ => ([], d)

/-- R242: a unit's mapping switches. Its cached lines are written back, a poisoned word moves with its poison and strikes no command
(R503, R504), and the switch is counted. -/
def Dev.switch (x : Nat × Option Nat × Nat) (d : Dev) : Dev :=
  let d1 := (match d.mem.firstPoison (windowBase + x.1 * unitBytes) unitBytes with
    | some w => d.ueAt w false
    | none => d).dropUnitLines x.1
  ({ d1 with tier := d1.tier.settle x.1 x.2.1 x.2.2 } : Dev).count crockDie (if x.2.1.isSome then 0x03 else 0x04) 0 1

/-- R242: a unit's move completes. A pinned unit does not leave its stack. -/
def Dev.moveDone (ix : Nat) (d : Dev) : Dev :=
  match d.tier.moves.find? fun m => m.ix == ix with
  | none => d
  | some m =>
    let stays := (m.dest.isNone && (d.tier.unit ix).pinned) || m.victim.any fun v => (d.tier.unit v).pinned
    let d0 : Dev := { d with tier := { d.tier with moves := d.tier.moves.filter fun x => x.ix != ix } }
    let r := if stays then ([], d0) else d0.moveEnds m
    let d1 := ((r.2.each r.1 Dev.switch).remap).migSettle
    { d1 with tier := d1.tier.keepReserve }

/-- UNIT_MOVE_COMPLETE (R242). -/
def execUnitMoveComplete (ix : Nat) (s : State) : Out := .next (s.onDev (Dev.moveDone ix))

/-- R511: the unit in a backing slot that retires moves to another slot at once, even when it is pinned. -/
def Dev.slotLost (stack slot : Nat) (d : Dev) : Dev :=
  let no := d.tier.slotNo stack slot
  if d.tier.retiredSince.contains no then d
  else
    let t : TierPart := { d.tier with retiredSince := d.tier.retiredSince ++ [no],
                                      moves := d.tier.moves.filter fun m => !(m.dest == some stack && m.victim.isNone && m.slot == slot) }
    let d1 : Dev := { d with tier := t }
    let d2 := match (List.range t.units).find? fun ix => (t.unit ix).place == some stack && (t.unit ix).slot == slot with
      | none => d1
      | some ix =>
        let d1 := d1.dropUnitLines ix
        match t.emptyStack fun _ => true, t.emptyCrock with
        | e :: es, _ => let r := d1.pick (e :: es); let s := r.1.getD e; { r.2 with tier := r.2.tier.settle ix (some s.1) s.2 }
        | [], c :: cs => let r := d1.pick (c :: cs); { r.2 with tier := r.2.tier.settle ix none (r.1.getD c) }
        | [], [] => d1
    d2.remap.migSettle

-- Commands (R245, R246)

/-- The range operands of MIGRATE and PIN: address fault, alignment, or the units named. -/
def Dev.unitRange (a n : Nat) (d : Dev) : Half :=
  if a % unitBytes ≠ 0 || n % unitBytes ≠ 0 then stAlignment
  else if n ≠ 0 && !d.inWindow a n then stAddress else stOk

/-- A command with units to move joins those in progress, and its moves begin. -/
def Dev.beginMig (q : MigCmd) (d : Dev) : Dev :=
  (({ d with tier := { d.tier with migCmds := d.tier.migCmds ++ [q] } } : Dev).startMoves q).setPhase q.cmd .running

/-- MIGRATE (R245). -/
def Dev.migrate (c : Cmd) (d : Dev) : Dev :=
  let a := opDa c.pkt.o0
  let n := opnd c.pkt.o1 39 0
  let down := c.pkt.o2.getLsbD 0
  let st := d.unitRange a n
  if st ≠ stOk then d.refuse c.id st
  else
    let ixs := unitsOf a n
    let us := ixs.map d.tier.unit
    if down && us.any UUnit.pinned then d.refuse c.id stPinned
    else if !down && ixs.length > d.tier.stackUnits - d.tier.pinnedCount then d.refuse c.id stMigrateRange
    else
      let go := (us.filter fun u => if down then u.place.isSome else u.place.isNone).map (·.ix)
      if go.isEmpty then d.okCmd c.id 0 0 0
      else d.beginMig { cmd := c.id, left := go, up := !down, kiln := opnd c.pkt.o2 15 8, first := unitOf a, named := ixs.length, count := go.length }

/-- MIGRATE (R245). -/
def execMigrate (tag : Tag) (s : State) : Out := .next (s.onDev (Dev.onCmd tag 0x22 Dev.migrate))

/-- PIN without UNPIN (R246). -/
def Dev.pinRange (c : Cmd) (d : Dev) : Dev :=
  let a := opDa c.pkt.o0
  let n := opnd c.pkt.o1 39 0
  let st := d.unitRange a n
  if st ≠ stOk then d.refuse c.id st
  else
    let us := (unitsOf a n).map d.tier.unit
    if d.tier.pinnedWith (us.map (·.ix)) > d.tier.pinLimit then
      ({ d with tier := { d.tier with pinLimitSeen := true } } : Dev).refuse c.id stPinLimit
    else
      let changed := (us.filter fun u => !u.hostPin).length
      let here := (us.filter fun (u : UUnit) => u.place.isSome).map (·.ix)
      let d1 : Dev := { d with tier := here.foldl (fun t ix => t.hostPin true ix) (d.tier.hold here) }
      let go := (us.filter fun u => u.place.isNone).map (·.ix)
      if go.isEmpty then d1.okCmd c.id changed 0 0
      else d1.beginMig { cmd := c.id, left := go, up := true, kiln := opnd c.pkt.o2 15 8, count := changed, pin := true }

/-- PIN (R246), the packet's UNPIN clear. -/
def execPin (tag : Tag) (s : State) : Out :=
  .next (s.onDev (Dev.onCmd tag 0x23 fun c d => if c.pkt.o2.getLsbD 0 then d else d.pinRange c))

/-- UNPIN (R246): PIN with UNPIN set. -/
def Dev.unpinRange (c : Cmd) (d : Dev) : Dev :=
  let a := opDa c.pkt.o0
  let n := opnd c.pkt.o1 39 0
  let st := d.unitRange a n
  if st ≠ stOk then d.refuse c.id st
  else
    let us := ((unitsOf a n).map d.tier.unit).filter fun u => u.hostPin
    ({ d with tier := us.foldl (fun t u => t.hostPin false u.ix) d.tier } : Dev).okCmd c.id us.length 0 0

/-- UNPIN (R246). -/
def execUnpin (tag : Tag) (s : State) : Out :=
  .next (s.onDev (Dev.onCmd tag 0x23 fun c d => if c.pkt.o2.getLsbD 0 then d.unpinRange c else d))

/-- R413: a cancelled MIGRATE or PIN leaves the moves that only it wants; what has switched stays. -/
def Dev.migCancel (id : Nat) (d : Dev) : Dev :=
  let mine := (d.tier.migCmds.filter fun q => q.cmd == id).flatMap (·.left)
  let rest := d.tier.migCmds.filter fun q => q.cmd != id
  { d with tier := { d.tier with
      migCmds := rest,
      moves := d.tier.moves.filter fun m => !(mine.contains m.ix && !rest.any fun q => q.left.contains m.ix && q.up == m.dest.isSome) } }

/-- R243, R244: at an epoch's end heat is updated, the reserve is kept, and with AUTO set the hot crock units are promoted,
hottest first, a swap skipped where its victim is as hot. -/
def Dev.epochEnd (d : Dev) : Dev :=
  if !d.running then d
  else
    let t : TierPart := { d.tier.setHeat with epochNo := d.tier.epochNo + 1 }
    let t : TierPart := { t with rests := t.rests.filter fun r => decide (t.epochNo ≤ r.2.2) }
    let cfg := t.migCfg.toNat
    let d1 := ({ d with tier := t.keepReserve } : Dev).each t.migCmds Dev.startMoves
    if !bit cfg 0 then d1
    else
      let hot := ((List.range t.units).map t.unit).filter fun u => u.place.isNone && decide (field cfg 23 16 ≤ u.heat) && !t.named u.ix
      d1.each (sortBy (fun a b => decide (b.heat ≤ a.heat)) hot) fun u d =>
        if d.tier.moving u.ix then d else d.promote 0xFF (fun v => d.tier.named v.ix || decide (u.heat ≤ v.heat)) u.ix

/-- MIGRATION_EPOCH_END (R243). -/
def execMigrationEpochEnd (s : State) : Out := .next (s.onDev Dev.epochEnd)

end Sys2Proof.Machine
end

