-- ==== Sys2Proof/Machine/Memory.lean ====
section
/-! DEFINITION. BAR2, atomics, copy and fill (R230 to R234, R247, R389 to R391, R499 to R504). -/
namespace Sys2Proof.Machine

-- Reading codewords (R500, R502, R503)

/-- What reading the word that holds an address gives, with some of its 80 bits flipped: the device after it, and whether the
word reads uncorrectable. Four or more flipped bits have no promised outcome: a free choice among the three (log 11). -/
def Dev.readUpset (a : Nat) (mask : BitVec 80) (d : Dev) : Bool × Dev :=
  let w := a / 8 * 8
  let n := popcount 80 mask.toNat
  if d.mem.poisoned w then (true, d)
  else if n = 0 then (false, d)
  else if n ≤ 2 then
    (false, if d.whereOf w = 2 then d.count crockDie 0x06 (d.channelOf w) 1
            else d.count (d.dieOf w) 0x22 (match d.stackOf w with | some s => s % 2 | none => 2) 1)
  else if n = 3 then (true, { d with mem := d.mem.setPoison w })
  else
    let r := d.choose 3
    if r.1 = 0 then (true, { r.2 with mem := r.2.mem.setPoison w })
    else if r.1 = 1 then
      (false, { r.2 with mem := r.2.mem.writeBytes w (leBytes 8 (r.2.mem.readNat w 8 ^^^ mask.toNat % 2 ^ 64)) })
    else
      (false, { r.2 with mem := r.2.mem.writeBytes w (leBytes 8 (Config.freeWord r.2.freeCtr).toNat),
                         freeCtr := r.2.freeCtr + 1 })

/-- The words that [a, a+n) touches, by address. -/
def wordsOf (a n : Nat) : List Nat :=
  if n = 0 then [] else (List.range ((a + n - 1) / 8 + 1 - a / 8)).map fun i => (a / 8 + i) * 8

-- BAR2 (R223, R389, R171)

/-- R389: the DA a BAR2 offset reaches. -/
def Link.bar2Da (l : Link) (off : Nat) : Nat :=
  (l.bar2Base.toNat * gib / (2 ^ l.bar2Size * gib) * (2 ^ l.bar2Size * gib) + off) % 2 ^ 48

/-- Is an address in a defined pool's regions (R171, R247). -/
def Dev.inPools (d : Dev) (a n : Nat) : Bool :=
  d.cx.pools.toList.any fun p =>
    match p.pool with
    | some q => overlaps a n q.frameBase q.frameLen || overlaps a n q.tabBase q.tabLen
    | none => false

/-- Does a range touch an open window's destination ranges (R247). -/
def Dev.inWindowDst (d : Dev) (a n : Nat) : Bool :=
  d.tier.windows.any fun w => w.layers.any fun l => l.any fun g => overlaps a n g.dst g.len

/-- BAR2 answers accesses once the device is ready and not in ember (R469, R474). -/
def Dev.bar2Open (d : Dev) : Bool := d.ready && d.power.state == 0#2

/-- A BAR2 read (R389, R504). upsets gives flipped bits of the words read, by address. -/
def Dev.bar2Read (off len : Nat) (upsets : List (Nat × BitVec 80)) (d : Dev) : Dev :=
  let a := d.link.bar2Da off
  if !d.bar2Open then
    (if d.ready then d.protoError else d).emit (.readData (List.replicate len 0#8) false)
  else if !d.daOk a len then (d.protoError).emit (.readData (List.replicate len 0#8) false)
  else
    let r := (wordsOf a len).foldl (fun (acc : List Nat × Dev) w =>
      let m := match upsets.find? fun u => u.1 / 8 * 8 == w with
        | some u => u.2
        | none => 0#80
      let x := acc.2.readUpset w m
      if x.1 then (acc.1 ++ [w], x.2.ueAt w false) else (acc.1, x.2)) ([], d)
    let d1 := ((r.2.heat a len).traffic false true a len).meshMove (d.dieOf a) hubDie len
    let bs := d1.mem.readBytes a len
    if r.1.isEmpty then d1.emit (.readData bs false) else (d1.emit (.aer .poisonedRead)).emit (.readData bs true)

/-- A BAR2 write (R171, R223, R389, R503). -/
def Dev.bar2Write (off : Nat) (bs : List Byte) (d : Dev) : Dev :=
  let a := d.link.bar2Da off
  if !d.ready then d
  else if !d.bar2Open then d.protoError
  else if !d.daOk a bs.length || d.inPools a bs.length then d.protoError
  else
    let struck := (wordsOf a bs.length).filter fun w => (d.mem.unpoisonWhole a bs.length).poisoned w
    (((d.write a bs).traffic true true a bs.length).meshMove hubDie (d.dieOf a) bs.length).each struck fun w d => d.ueAt w false

/-- BAR2_READ (R389). -/
def execBar2Read (off len : Nat) (upsets : List (Nat × BitVec 80)) (s : State) : Out :=
  .next (s.onDev (Dev.bar2Read off len upsets))
/-- BAR2_WRITE (R389). -/
def execBar2Write (off : Nat) (bs : List Byte) (s : State) : Out := .next (s.onDev (Dev.bar2Write off bs))

-- Atomics (R231 to R234)

/-- R231: the new value of a word, by integer operation and width. -/
def atomicInt (op : AtomicOp) (w : Nat) (old x cmp : Nat) : Nat :=
  let o := old % 2 ^ w
  let v := x % 2 ^ w
  match op with
  | .add => (o + v) % 2 ^ w
  | .sub => (o + 2 ^ w - v) % 2 ^ w
  | .smin => if ofTwos w v < ofTwos w o then v else o
  | .smax => if ofTwos w o < ofTwos w v then v else o
  | .umin => min o v
  | .umax => max o v
  | .and => o &&& v
  | .or => o ||| v
  | .xor => o ^^^ v
  | .swap => v
  | .cas => if o = cmp % 2 ^ w then v else o
  | .fadd => (fadd (BitVec.ofNat 32 o) (BitVec.ofNat 32 v)).toNat
  | .fmin => (fmin (BitVec.ofNat 32 o) (BitVec.ofNat 32 v)).toNat
  | .fmax => (fmax (BitVec.ofNat 32 o) (BitVec.ofNat 32 v)).toNat
  | .lineFadd => o

/-- The width in bytes of an atomic. -/
def AtomicReq.bytes (r : AtomicReq) : Nat :=
  match r.op with
  | .lineFadd => 64
  | .fadd | .fmin | .fmax => 4
  | _ => if r.wide then 8 else 4

/-- The bytes an atomic writes. -/
def AtomicReq.result (r : AtomicReq) (m : Mem) : List Byte :=
  match r.op with
  | .lineFadd =>
    (List.range 16).flatMap fun i =>
      leBytes 4 (fadd (BitVec.ofNat 32 (m.readNat (r.da + 4 * i) 4)) (r.line.getD i 0#32)).toNat
  | _ => leBytes r.bytes (atomicInt r.op (8 * r.bytes) (m.readNat r.da r.bytes) r.operand.toNat r.compare.toNat)

/-- R232: the line lies in a stack of a kiln whose shared cache has a step; a window unit is pinned as well. -/
def Dev.atomicTier (d : Dev) (a : Nat) : Bool :=
  match d.stackOf a with
  | none => false
  | some s =>
    (match d.kilns[s / 2]? with
     | some k => decide (k.shmem.inForce < 16)
     | none => false) &&
    (if windowBase ≤ a then d.inWindow a 1 && (d.tier.unit (unitOf a)).pinned else d.inStack a 1)

/-- ATOMIC (R231 to R234): refused, struck by a poisoned word, or performed. -/
def Dev.atomic (r : AtomicReq) (d : Dev) : Dev :=
  if !d.atomicTier r.da then d.emit (.atomicResult stAtomicTier none)
  else if r.da % r.bytes ≠ 0 then d.emit (.atomicResult stAlignment none)
  else
    match d.mem.firstPoison r.da r.bytes with
    | some w => (d.ueAt w true).emit (.atomicResult stUncorrectable none)
    | none =>
      let old := d.mem.readNat r.da r.bytes
      let d1 := ((d.write r.da (r.result d.mem)).traffic true true r.da r.bytes).count (d.dieOf r.da) 0x26 0 1
      d1.emit (.atomicResult stOk (match r.op with | .lineFadd => none | _ => some old))

/-- ATOMIC (R233). -/
def execAtomic (r : AtomicReq) (s : State) : Out := .next (s.onDev (Dev.atomic r))

-- MEM_COPY and MEM_FILL (R247, R391)

/-- The fields of a MEM_COPY. -/
structure CopyReq where
  src : Nat
  dst : Nat
  len : Nat
  rows : Nat
  srcPitch : Nat
  dstPitch : Nat
  hostSrc : Bool
  hostDst : Bool
  deriving DecidableEq, Repr

def copyReq (p : Packet) : CopyReq :=
  let hs := p.o3.getLsbD 16
  let hd := p.o3.getLsbD 17
  { src := if hs then p.o0.toNat else opDa p.o0, dst := if hd then p.o1.toNat else opDa p.o1, len := opnd p.o2 39 0,
    rows := opnd p.o3 15 0, srcPitch := opDa p.o4, dstPitch := opDa p.o5, hostSrc := hs, hostDst := hd }

def CopyReq.srcRow (q : CopyReq) (r : Nat) : Nat := q.src + r * q.srcPitch
def CopyReq.dstRow (q : CopyReq) (r : Nat) : Nat := q.dst + r * q.dstPitch

/-- R247, R391: the checks in order. -/
def Dev.copyCheck (q : CopyReq) (d : Dev) : Half :=
  if q.len = 0 then stOk
  else
    let rs := List.range q.rows
    if (!q.hostSrc && rs.any fun r => !d.daOk (q.srcRow r) q.len) ||
       (!q.hostDst && rs.any fun r => !d.daOk (q.dstRow r) q.len || d.inPools (q.dstRow r) q.len ||
          d.inWindowDst (q.dstRow r) q.len) then stAddress
    else if !q.hostSrc && !q.hostDst &&
        rs.any fun r => rs.any fun t => overlaps (q.srcRow r) q.len (q.dstRow t) q.len then stMemOverlap
    else stOk

/-- Copy one piece between device addresses; the flag says an uncorrectable word stopped it (R504). -/
def Dev.copyPiece (src dst n : Nat) (d : Dev) : Bool × Dev :=
  match d.mem.firstPoison src n with
  | some w => (true, d.ueAt w true)
  | none =>
    if d.mem.storeStruck dst n then
      (true, match (d.mem.unpoisonWhole dst n).firstPoison dst n with
        | some w => d.ueAt w true
        | none => d)
    else
      (false, ((((d.write dst (d.mem.readBytes src n)).heat src n).traffic false false src n).traffic true false dst n).meshMove
        (d.dieOf src) (d.dieOf dst) n)

/-- The 64 KiB pieces of a row (R413). -/
def piecesOf (n : Nat) : List (Nat × Nat) :=
  (List.range (cdiv n 0x10000)).map fun i => (i * 0x10000, min 0x10000 (n - i * 0x10000))

/-- Copy a row between device addresses, piece by piece, stopping at an uncorrectable word. -/
def Dev.copyRow (src dst n : Nat) (d : Dev) : Bool × Dev :=
  (piecesOf n).foldl (fun (acc : Bool × Dev) p =>
    if acc.1 then acc else acc.2.copyPiece (src + p.1) (dst + p.1) p.2) (false, d)

/-- One row of a MEM_COPY (R247, R391); host holds the bytes read from host memory, row after row. -/
def Dev.copyOne (q : CopyReq) (host : List Byte) (r : Nat) (d : Dev) : Bool × Dev :=
  if q.hostSrc then
    let bs := (host.drop (r * q.len)).take q.len
    if q.hostDst then (false, d.emit (.hostWrite (q.dstRow r) bs))
    else if d.mem.storeStruck (q.dstRow r) q.len then
      (true, match (d.mem.unpoisonWhole (q.dstRow r) q.len).firstPoison (q.dstRow r) q.len with
        | some w => d.ueAt w true
        | none => d)
    else (false, ((d.write (q.dstRow r) bs).traffic true false (q.dstRow r) q.len).meshMove hubDie (d.dieOf (q.dstRow r)) q.len)
  else if q.hostDst then
    match d.mem.firstPoison (q.srcRow r) q.len with
    | some w => (true, d.ueAt w true)
    | none =>
      (false, (((d.emit (.hostWrite (q.dstRow r) (d.mem.readBytes (q.srcRow r) q.len))).heat (q.srcRow r) q.len).traffic
        false false (q.srcRow r) q.len).meshMove (d.dieOf (q.srcRow r)) hubDie q.len)
  else d.copyRow (q.srcRow r) (q.dstRow r) q.len

/-- The rows of a MEM_COPY from r0 up to n, until one is struck. -/
def Dev.copyRows (q : CopyReq) (host : List Byte) (n : Nat) (d : Dev) : Bool × Dev :=
  (List.range n).foldl (fun (acc : Bool × Dev) r => if acc.1 then acc else acc.2.copyOne q host r) (false, d)

/-- MEM_COPY (R247, R391): failRow is the row at which a host read fails. -/
def Dev.memCopy (host : List Byte) (failRow : Option Nat) (c : Cmd) (d : Dev) : Dev :=
  let q := copyReq c.pkt
  let st := d.copyCheck q
  if st ≠ stOk then d.refuse c.id st
  else if q.len = 0 then d.okCmd c.id 0 0 0
  else
    let stop := match failRow with
      | some r => if q.hostSrc && r < q.rows then some r else none
      | none => none
    let r := d.copyRows q host (stop.getD q.rows)
    if r.1 then r.2.refuse c.id stUncorrectable
    else
      match stop with
      | some k =>
        let d1 := if q.hostDst then r.2 else
          { r.2 with mem := ((List.range q.rows).drop k).foldl (fun m i => m.forget (q.dstRow i) q.len) r.2.mem }
        (d1.emit (.aer .hostRead)).refuse c.id stHostAccess
      | none => r.2.okCmd c.id (q.len * q.rows) 0 0

/-- MEM_COPY (R247). -/
def execMemCopy (tag : Tag) (host : List Byte) (failRow : Option Nat) (s : State) : Out :=
  .next (s.onDev (Dev.onCmd tag 0x20 (Dev.memCopy host failRow)))

/-- MEM_FILL (R247). Whole words are written, so no poisoned word stops it. -/
def Dev.memFill (c : Cmd) (d : Dev) : Dev :=
  let a := opDa c.pkt.o0
  let n := opnd c.pkt.o1 39 0
  if n ≠ 0 && (!d.daOk a n || d.inPools a n || d.inWindowDst a n) then d.refuse c.id stAddress
  else if n % 8 ≠ 0 || a % 8 ≠ 0 then d.refuse c.id stAlignment
  else
    ((d.write a ((List.range (n / 8)).flatMap fun _ => leBytes 8 c.pkt.o2.toNat)).traffic true false a n).okCmd c.id n 0 0

/-- MEM_FILL (R247). -/
def execMemFill (tag : Tag) (s : State) : Out := .next (s.onDev (Dev.onCmd tag 0x21 Dev.memFill))

end Sys2Proof.Machine
end

