-- ==== Sys2Proof/Machine/Tables.lean ====
section
/-! DEFINITION. Function-table slots and slip code-table slots (R115 to R126, R260 to R264). -/
namespace Sys2Proof.Machine

def Dev.fnSlot (d : Dev) (k : Fin 8) : FnSlot := d.fn.slots.get k
def Dev.setFnSlot (k : Fin 8) (x : FnSlot) (d : Dev) : Dev := { d with fn := { d.fn with slots := d.fn.slots.set k x } }

/-- A refused FN_TABLE_LOAD: the slot field is recorded (R121, R126). -/
def Dev.fnRefuse (id slot : Nat) (st : Half) (d : Dev) : Dev :=
  ({ d with fn := { d.fn with refusedValid := true, lastRefused := BitVec.ofNat 8 slot } } : Dev).refuse id st

/-- FN_TABLE_LOAD with RELEASE clear (R121, R122): the checks before the range check; a table that passes them is CHECKING. A range that
faults is refused after the slot checks (DESIGN CHOICE, log 130). -/
def Dev.fnLoad (c : Cmd) (d : Dev) : Dev :=
  let slot := opnd c.pkt.o2 7 0
  let a := opDa c.pkt.o0
  let n := opnd c.pkt.o1 31 0
  if slot < 8 || 15 < slot then d.fnRefuse c.id slot stFnSlotInvalid
  else
    let k : Fin 8 := Fin.ofNat 8 slot
    if (d.fnSlot k).state ≠ 0 then d.fnRefuse c.id slot stFnSlotBusy
    else if !d.daOk a n then d.fnRefuse c.id slot stAddress
    else
      match d.mem.firstPoison a n with
      | some w => (d.ueAt w true).fnRefuse c.id slot stUncorrectable
      | none =>
        match parseSegTable (d.mem.readBytes a n) with
        | none => d.fnRefuse c.id slot stFnTableFormat
        | some t =>
          if !segBoundsOk t then d.fnRefuse c.id slot stFnTableBounds
          else if !segSeamsOk t then d.fnRefuse c.id slot stFnTableSeam
          else (d.setFnSlot k { state := 1, table := some t, cmd := c.id }).setPhase c.id .running

/-- FN_TABLE_LOAD (R121), RELEASE clear. -/
def execFnTableLoad (tag : Tag) (s : State) : Out :=
  .next (s.onDev (Dev.onCmd tag 0x40 fun c d => if c.pkt.o2.getLsbD 16 then d else d.fnLoad c))

/-- FN_TABLE_CHECK_COMPLETE (R121 to R123): the range and monotone checks end. -/
def Dev.fnChecked (k : Fin 8) (d : Dev) : Dev :=
  let x := d.fnSlot k
  match x.table with
  | none => d
  | some t =>
    if x.state ≠ 1 then d
    else if !segRangeOk t then (d.setFnSlot k {}).fnRefuse x.cmd (8 + k.val) stFnTableRange
    else if !segMonoOk t then (d.setFnSlot k {}).fnRefuse x.cmd (8 + k.val) stFnNotMonotone
    else (d.setFnSlot k { x with state := 2 }).okCmd x.cmd 0 0 0

/-- FN_TABLE_CHECK_COMPLETE (R123). -/
def execFnTableCheckComplete (k : Fin 8) (s : State) : Out := .next (s.onDev (Dev.fnChecked k))

/-- FN_TABLE_LOAD with RELEASE set (R124). -/
def Dev.fnRelease (c : Cmd) (d : Dev) : Dev :=
  let slot := opnd c.pkt.o2 7 0
  if slot < 8 || 15 < slot then d.fnRefuse c.id slot stFnSlotInvalid
  else
    let k : Fin 8 := Fin.ofNat 8 slot
    let x := d.fnSlot k
    if x.state = 2 then
      (if x.holders.isEmpty then d.setFnSlot k {} else d.setFnSlot k { x with state := 3 }).okCmd c.id 0 0 0
    else if x.state = 1 then d.fnRefuse c.id slot stFnSlotBusy
    else d.fnRefuse c.id slot stFnSlotState

/-- FN_TABLE_RELEASE (R124). -/
def execFnTableRelease (tag : Tag) (s : State) : Out :=
  .next (s.onDev (Dev.onCmd tag 0x40 fun c d => if c.pkt.o2.getLsbD 16 then d.fnRelease c else d))

/-- R125: a launch takes, and gives back, its references. -/
def Dev.fnHold (launch : Nat) (ks : List (Fin 8)) (d : Dev) : Dev :=
  d.each ks fun k d => let x := d.fnSlot k
    if x.holders.contains launch then d else d.setFnSlot k { x with holders := x.holders ++ [launch] }
def Dev.fnDrop (launch : Nat) (d : Dev) : Dev :=
  d.each (List.finRange 8) fun k d =>
    let x := d.fnSlot k
    if !x.holders.contains launch then d
    else
      let hs := x.holders.filter (· != launch)
      if x.state = 3 && hs.isEmpty then d.setFnSlot k {} else d.setFnSlot k { x with holders := hs }

-- Slip tables

/-- The kilns a mask names: 0 names all twelve (R262). -/
def maskKilns (m : Nat) : List (Fin 12) := (List.finRange 12).filter fun k => m == 0 || bit m k.val

def Dev.slip (d : Dev) (k : Fin 12) : SlipPart := (d.kilns.get k).slip
def Dev.setSlip (k : Fin 12) (x : SlipPart) (d : Dev) : Dev :=
  { d with kilns := vmod d.kilns k fun kl => { kl with slip := x } }
def SlipPart.slotState (x : SlipPart) (i : Nat) : Nat :=
  match x.slots[i]? with
  | some s => s.state
  | none => 0
def SlipPart.setSlot (i : Fin 4) (s : SlipSlot) (x : SlipPart) : SlipPart := { x with slots := x.slots.set i s }

/-- R263: a RETIRING slot becomes FREE once no queued block is bound to it. -/
def SlipPart.settle (x : SlipPart) : SlipPart :=
  (List.finRange 4).foldl (fun acc i =>
    let s := acc.slots.get i
    if s.state = 2 && !(acc.queue.any fun q => q.head.slot == i.val && q.table.isSome) then acc.setSlot i {} else acc) x

/-- SLIP_TABLE_LOAD with RELEASE clear (R262). -/
def Dev.slipLoad (c : Cmd) (d : Dev) : Dev :=
  let slot := opnd c.pkt.o2 7 0
  let mask := opnd c.pkt.o2 31 16
  let ks := maskKilns mask
  if 3 < slot || 4095 < mask then d.refuse c.id stSlipSlotInvalid
  else if ks.any fun k => (d.slip k).slotState slot != 0 then d.refuse c.id stSlipSlotBusy
  else
    d.fetchBytes c.id (opDa c.pkt.o0) (opnd c.pkt.o1 31 0) (fun bs d =>
      match parseSlipTable bs with
      | none => d.refuse c.id stSlipTableFormat
      | some t =>
        (d.each ks fun k d => d.setSlip k ((d.slip k).setSlot (Fin.ofNat 4 slot) { state := 1, table := some t })).okCmd
          c.id 0 0 0)

/-- SLIP_TABLE_LOAD (R262), RELEASE clear. -/
def execSlipTableLoad (tag : Tag) (s : State) : Out :=
  .next (s.onDev (Dev.onCmd tag 0x41 fun c d => if c.pkt.o2.getLsbD 32 then d else d.slipLoad c))

/-- SLIP_TABLE_LOAD with RELEASE set (R263). -/
def Dev.slipRelease (c : Cmd) (d : Dev) : Dev :=
  let slot := opnd c.pkt.o2 7 0
  let mask := opnd c.pkt.o2 31 16
  let ks := maskKilns mask
  if 3 < slot || 4095 < mask then d.refuse c.id stSlipSlotInvalid
  else if ks.any fun k => (d.slip k).slotState slot != 1 then d.refuse c.id stSlipSlotState
  else
    (d.each ks fun k d =>
      let x := d.slip k
      let i : Fin 4 := Fin.ofNat 4 slot
      d.setSlip k (x.setSlot i { x.slots.get i with state := 2 }).settle).okCmd c.id 0 0 0

/-- SLIP_TABLE_RELEASE (R263). -/
def execSlipTableRelease (tag : Tag) (s : State) : Out :=
  .next (s.onDev (Dev.onCmd tag 0x41 fun c d => if c.pkt.o2.getLsbD 32 then d.slipRelease c else d))

end Sys2Proof.Machine
end

