-- ==== Sys2Proof/Machine/Loader.lean ====
section
/-! DEFINITION. Loading and unloading programs (R206 to R209, R229). -/
namespace Sys2Proof.Machine

/-- A refused PROGRAM_LOAD: HUB_PROG_STATUS keeps its status (R209). -/
def Dev.loadRefuse (id : Nat) (st : Half) (d : Dev) : Dev :=
  ({ d with progs := { d.progs with lastRefusal := st } } : Dev).refuse id st

/-- The first check that fails. -/
def firstFail : List (Bool × Half) → Option Half
  | [] => none
  | (ok, st) :: r => if ok then firstFail r else some st

/-- The first status among those a check gives per kernel. -/
def firstStatus (ks : List Kernel) (f : Kernel → Option Half) : Option Half := ks.findSome? f

/-- A range lies within the usable memory of a buffer's LEVEL on its HOME die (R206, R213). -/
def Dev.levelHolds (d : Dev) (b : Buf) (a n : Nat) : Bool :=
  n == 0 ||
  (match b.level with
   | 0 => within a n (stackBase (2 * b.home)) (d.stackDirect (2 * b.home)) ||
          within a n (stackBase (2 * b.home + 1)) (d.stackDirect (2 * b.home + 1))
   | 1 => within a n (scratchBase b.home) (d.scratchDirect b.home)
   | 2 => d.inWindow a n
   | _ => d.running && within a n (mapBase b.home) 0x10000000)

/-- R206: a buffer's planned span is placed; LISTED and context buffers have no base. -/
def Dev.bufPlaced (d : Dev) (b : Buf) : Bool :=
  b.listed || b.kind == 4 || (b.ranges b.base b.exts).all fun r => d.levelHolds b r.1 r.2

/-- Tiles of a kiln that are bound. -/
def Kiln.boundTiles (k : Kiln) : List Nat := (List.range 16).filter fun t => match k.tiles[t]? with | some x => !x.unbound | none => false
/-- Wheel w is in service. -/
def Dev.wheelOk (d : Dev) (w : Nat) : Bool := match d.wheels[w]? with | some x => x.ready | none => false
def Dev.kilnUp (d : Dev) (i : Nat) : Bool := match d.kilns[i]? with | some k => !k.boundTiles.isEmpty | none => false

/-- R206's last check: every kiln of a KILN_MASK has a tile in service, every wheel used is in service. -/
def Dev.resourcesOk (d : Dev) (im : Image) : Bool :=
  im.kernels.all fun k =>
    ((List.range 12).all fun i => !bit k.kilnMask i || d.kilnUp i) &&
    (k.kind != 2 || (List.range 2).all fun w => !bit k.kilnMask (12 + w) || d.wheelOk w) &&
    (match k.kind, im.pixel k with
     | 3, some p => (List.range 2).all fun w => !bit p.wheels w || d.wheelOk w
     | _, _ => true)

/-- R206: the checks from the buffers on, in order, for an image whose records have been read. -/
def Dev.imageStatus (d : Dev) (im : Image) : Option Half :=
  let mats := im.kernels.filter fun k => k.kind = 0
  let looped := im.kernels.filter fun k => k.kind ≤ 1
  let each (f : Kernel → Option Half) (rest : Option Half) : Option Half :=
    match firstStatus im.kernels f with
    | some st => some st
    | none => rest
  if !im.codesOk then some stImageFormat
  else if !(im.bufs.all Buf.aligned) then some stAlignment
  else if !(im.bufs.all d.bufPlaced) then some stBufferSize
  else each im.formatStatus <|
    if !(mats.all im.shapeOk) then some stShapeMenu
    else if !(looped.all im.loopsOk) then some stLoopOrder
    else
      match firstStatus mats im.groupStatus with
      | some st => some st
      | none =>
        if !(mats.all im.bufferFits) then some stBufferSize
        else if !((List.range 12).all fun i => decide (im.scratchOf.getD i 0 ≤ d.scratchDirect i)) then some stScratchpad
        else if !(looped.all im.chainOk) || im.chains.any fun c => c.members.length < 2 then some stChain
        else each (fun k =>
            if k.kind = 1 then im.attnStatus k
            else if k.kind = 2 && !((im.opsOf k).all (im.vecParamOk k)) then some stVecParam
            else if k.kind = 3 && !im.pixelParamOk k then some stPixelParam
            else none) <|
          if !(im.kernels.all im.timeOk) then some stTileTooLong
          else if !d.resourcesOk im then some stResourceAbsent
          else none

/-- The numerics version of the active firing (R492); 0 while none runs. -/
def Dev.numerics (d : Dev) : Word := match d.start.active with | some f => f.numerics | none => 0

/-- R206: load a program. -/
def Dev.programLoad (c : Cmd) (d : Dev) : Dev :=
  let a := opDa c.pkt.o0
  let n := opnd c.pkt.o1 39 0
  if d.progs.programs.length ≥ 256 then
    ({ d with progs := { d.progs with fullSeen := true } } : Dev).loadRefuse c.id stProgramTableFull
  else if !d.daOk a n then d.loadRefuse c.id stAddress
  else
    match d.mem.firstPoison a n with
    | some w => (d.ueAt w true).loadRefuse c.id stUncorrectable
    | none =>
      let bs := d.mem.readBytes a n
      if !headerOk bs n then d.loadRefuse c.id stImageFormat
      else if !digestOk bs then d.loadRefuse c.id stImageDigest
      else if BitVec.ofNat 32 (bytesAt bs 19 16) ≠ d.numerics then d.loadRefuse c.id stNumericsVersion
      else
        match parseImage bs with
        | none => d.loadRefuse c.id stImageFormat
        | some im =>
          match d.imageStatus im with
          | some st => d.loadRefuse c.id st
          | none =>
            let pk := (d.heat a n).pick ((List.range 256).filter fun h => !(d.progs.programs.any fun p => p.handle == h))
            let h := pk.1.getD 0
            ({ pk.2 with progs := { pk.2.progs with programs :=
                pk.2.progs.programs ++ [{ handle := h, image := im, scratch := im.scratchOf }] } } : Dev).okCmd c.id h 0 0

/-- PROGRAM_LOAD (R206). -/
def execProgramLoad (tag : Tag) (s : State) : Out := .next (s.onDev (Dev.onCmd tag 0x10 Dev.programLoad))

/-- A program by handle, retiring or not. -/
def Dev.program (d : Dev) (h : Nat) : Option Program := d.progs.programs.find? fun p => p.handle == h
/-- A program that launches may name. -/
def Dev.liveProgram (d : Dev) (h : Nat) : Option Program := d.progs.programs.find? fun p => p.handle == h && !p.retiring

/-- A launch has been admitted and has not ended. -/
def Launch.alive (l : Launch) : Bool := l.phase != .ended

/-- R208: a retiring program whose last launch has ended leaves the table. -/
def Dev.settlePrograms (d : Dev) : Dev :=
  let ps := d.progs.programs.filter fun p => !p.retiring || d.launches.any fun l => l.handle == p.handle && l.alive
  { d with progs := { d.progs with programs := ps } }

/-- R208, R251, R368: what holds a program. -/
def Dev.programHeld (d : Dev) (h : Nat) : Bool :=
  d.candle.streams.toList.any (fun st => (st.state == 2#2 || st.state == 3#2) &&
    (match st.table with
     | some t => t.entries.any fun e => (e.action == 0x12 || e.action == 0x7F) && e.target == h
     | none => false)) ||
  d.tier.windows.any (fun w => w.program == h) ||
  d.coll.jobs.any fun j => j.trigger == 0 && j.program == h

/-- PROGRAM_UNLOAD (R208). -/
def Dev.programUnload (c : Cmd) (d : Dev) : Dev :=
  let h := opnd c.pkt.o0 7 0
  match d.liveProgram h with
  | none => d.refuse c.id stProgramInvalid
  | some _ =>
    if d.programHeld h then d.refuse c.id stProgramBusy
    else
      let ps := d.progs.programs.map fun (p : Program) => if p.handle == h then { p with retiring := true } else p
      (({ d with progs := { d.progs with programs := ps } } : Dev).settlePrograms).okCmd c.id 0 0 0

/-- PROGRAM_UNLOAD (R208). -/
def execProgramUnload (tag : Tag) (s : State) : Out := .next (s.onDev (Dev.onCmd tag 0x11 Dev.programUnload))

end Sys2Proof.Machine
end

