-- ==== Sys2Proof/Machine/Coll.lean ====
section
/-! DEFINITION. Collective groups and operations: descriptors, messages, READY, the direct and the staged path (R353 to R365). -/
namespace Sys2Proof.Machine

/-- R382: the wait for a READY or a BIND, in µs. -/
def Dev.collLimit (d : Dev) : Nat := 10000 * max 1 (field d.coll.gradCfg.toNat 23 16)

-- Messages (R361)

/-- The header of a collective message with its data. -/
structure CMsg where
  group : Nat
  job : Nat := 0
  epoch : Nat := 0
  seq : Nat := 0
  bucket : Nat := 0
  shard : Nat := 0
  rank : Nat := 0
  kind : Nat
  op : Nat := 0
  dtype : Nat := 0
  reason : Nat := 0
  offset : Nat := 0
  count : Nat := 0
  tally : Nat := 0
  nonFinite : Nat := 0
  data : List Byte := []
  deriving DecidableEq, Repr

def mReady : Nat := 1
def mData : Nat := 2
def mChain : Nat := 3
def mContrib : Nat := 4
def mResult : Nat := 5
def mAbort : Nat := 6
def mEndpoint : Nat := 7
def mBind : Nat := 8

/-- R361: the bytes of a message. -/
def CMsg.bytes (m : CMsg) : List Byte :=
  leBytes 2 m.group ++ leBytes 2 m.job ++ leBytes 4 m.epoch ++ leBytes 4 m.seq ++ leBytes 2 m.bucket ++ leBytes 4 m.shard ++
  leBytes 2 m.rank ++ leBytes 1 m.kind ++ leBytes 1 m.op ++ leBytes 1 m.dtype ++ leBytes 1 m.reason ++ leBytes 8 m.offset ++
  leBytes 4 m.count ++ leBytes 8 m.tally ++ leBytes 2 m.nonFinite ++ List.replicate 18 0#8 ++ m.data

/-- R361: a message from its bytes. -/
def parseMsg (b : List Byte) : CMsg :=
  { group := bytesAt b 1 0, job := bytesAt b 3 2, epoch := bytesAt b 7 4, seq := bytesAt b 11 8, bucket := bytesAt b 13 12,
    shard := bytesAt b 17 14, rank := bytesAt b 19 18, kind := bytesAt b 20 20, op := bytesAt b 21 21, dtype := bytesAt b 22 22,
    reason := bytesAt b 23 23, offset := bytesAt b 31 24, count := bytesAt b 35 32, tally := bytesAt b 43 36,
    nonFinite := bytesAt b 45 44, data := b.drop 64 }

/-- R361: the most data one message carries. -/
def msgData : Nat := 4288

/-- R361: the virtual channel of a message. -/
def msgVc (kind : Nat) : BitVec 2 := if kind = mContrib then 3#2 else if kind = mResult || kind = mData || kind = mChain then 1#2 else 2#2

-- Groups (R353 to R356)

def Dev.group (d : Dev) (h : Nat) : Option Group := d.coll.groups.find? fun g => g.handle == h
def Dev.modGroup (h : Nat) (f : Group → Group) (d : Dev) : Dev :=
  { d with coll := { d.coll with groups := updFirst (fun g => g.handle == h) f d.coll.groups } }
/-- R355: the epoch: GENERATION above the count of applied events. -/
def Group.epoch (g : Group) : Nat := at_ 16 (g.generation % 2 ^ 16) + g.events % 2 ^ 16
def Group.size (g : Group) : Nat := g.members.length
def Dev.rankIn (d : Dev) (g : Group) : Nat := (g.members.findIdx? fun n => n == d.fabric.node).getD 0
def Dev.isMember (d : Dev) : Bool := d.fabric.state == 2#2

/-- Set a bit of HUB_COLL_STATUS's sticky field: 0 STEP_REPEAT, 1 TALLY, 2 TIMEOUT, 3 ENDPOINT, 4 MISMATCH, 5 GROUP_FULL (R383). -/
def Dev.collSeen (i : Nat) (d : Dev) : Dev := { d with coll := { d.coll with seen := d.coll.seen ||| BitVec.ofNat 6 (2 ^ i) } }

/-- The first lantern with a route to a node, or lantern 0 (log 15). -/
def Dev.lanternTo (d : Dev) (dest : NodeId) : Fin 4 :=
  ((List.finRange 4).find? fun l => !(hopsOf (d.fabric.entry l dest.toNat)).isEmpty).getD 0

/-- Send a message to a node; one to the device itself is delivered at once (DEDUCED, log 15). -/
def Dev.sendTo (dest : NodeId) (m : CMsg) (owner : MsgOwner) (d : Dev) : Dev :=
  if dest = d.fabric.node then
    { d with fabric := { d.fabric with inbox := d.fabric.inbox ++ [{ src := dest, lantern := 0, payload := m.bytes }] } }
  else d.sendMsg (d.lanternTo dest) dest (msgVc m.kind) m.bytes owner

def Dev.sendRank (g : Group) (q : Nat) (m : CMsg) (owner : MsgOwner) (d : Dev) : Dev :=
  match g.members[q]? with
  | some n => d.sendTo n m owner
  | none => d

/-- Send data in messages of at most 4,288 bytes; base's OFFSET is that of the first byte. -/
def Dev.sendData (g : Group) (q : Nat) (base : CMsg) (data : List Byte) (owner : MsgOwner) (d : Dev) : Dev :=
  d.each (indexed (chunks msgData (cdiv data.length msgData) data)) fun c d =>
    d.sendRank g q { base with offset := base.offset + msgData * c.1, data := c.2 } owner

/-- Drop what a group's operation still has to send. -/
def Dev.dropMsgs (o : MsgOwner) (d : Dev) : Dev :=
  { d with fabric := { d.fabric with unacked := d.fabric.unacked.filter (fun m => m.owner != o),
                                     waiting := d.fabric.waiting.filter fun m => m.owner != o } }

/-- R341: a message of an owner has a destination with no path from the device. -/
def Dev.noPath (o : MsgOwner) (d : Dev) : Bool :=
  (d.fabric.unacked ++ d.fabric.waiting).any fun m => m.owner == o && d.fabric.entry m.lantern m.dest.toNat == 0#64

/-- A command ends with a status of its own and values (R407, R430). -/
def Dev.endWith (id : Nat) (st : Half) (a b c : Nat) (d : Dev) : Dev :=
  match d.cmd id with
  | none => d
  | some cm =>
    let r := d.overrun cm st
    r.2.endCmd id r.1 (vals a b c)

-- Descriptors (R357, R358)

/-- R357: a descriptor; none where a reserved byte is not zero. -/
def parseColl (b : List Byte) : Option CollDesc :=
  if zeroAt b 35 35 && zeroAt b 63 42 then
    some { op := bytesAt b 0 0, dtype := bytesAt b 1 1, redop := bytesAt b 2 2, path := bytesAt b 3 3, group := bytesAt b 5 4,
           root := bytesAt b 7 6, src := bytesAt b 13 8, dst := bytesAt b 19 14, count := bytesAt b 23 20, stage := bytesAt b 29 24,
           stageLen := bytesAt b 33 30, chunk := bytesAt b 34 34, generation := bytesAt b 37 36, job := bytesAt b 39 38,
           bucket := bytesAt b 41 40 }
  else none

/-- R358's codes. -/
def opBarrier : Nat := 0x01
def opBroadcast : Nat := 0x02
def opReduce : Nat := 0x03
def opAllreduce : Nat := 0x04
def opReduceScatter : Nat := 0x05
def opAllgather : Nat := 0x06
def opAlltoall : Nat := 0x07
def opSend : Nat := 0x08
def opRecv : Nat := 0x09
def opGrad : Nat := 0x0A
def opBind : Nat := 0x10
def opRelease : Nat := 0x11
def collOps : List Nat := [1, 2, 3, 4, 5, 6, 7, 8, 9, 0x0A, 0x10, 0x11]
def reduces (op : Nat) : Bool := op == opReduce || op == opAllreduce || op == opReduceScatter
def pointToPoint (op : Nat) : Bool := op == opSend || op == opRecv

/-- R357: bytes of an element. -/
def dtypeBytes (t : Nat) : Nat := if t = 0 || t = 0x10 then 4 else if t = 1 || t = 2 then 2 else if t = 0x11 then 8 else 1
def dtypeInt (t : Nat) : Bool := t == 0x10 || t == 0x11
def dtypeFmt (t : Nat) : Fmt := if t = 1 then bf16 else if t = 2 then fp16 else if t = 3 then e4m3 else if t = 4 then e5m2 else fp32
/-- Bytes of a running sum: FP32, or the integer type (R363). -/
def runBytes (t : Nat) : Nat := if t = 0x11 then 8 else 4

/-- R364's first row: codes in range that suit one another; a field that an operation does not use is zero. -/
def CollDesc.paramOk (c : CollDesc) : Bool :=
  (decide (c.dtype ≤ 4) || (decide (0x10 ≤ c.dtype) && decide (c.dtype ≤ 0x12))) &&
  decide (c.redop ≤ 2) && (reduces c.op || c.redop == 0) && decide (c.path ≤ 2) && (c.path != 2 || reduces c.op) &&
  decide (12 ≤ c.chunk) && decide (c.chunk ≤ 20) &&
  (!reduces c.op || [0, 1, 2, 0x10, 0x11].contains c.dtype) &&
  (c.op == opBroadcast || c.op == opReduce || pointToPoint c.op || c.root == 0) && c.generation == 0 &&
  (c.op == opGrad || (c.job == 0 && c.bucket == 0))

/-- R358: bytes of the source at a rank. -/
def CollDesc.srcLen (c : CollDesc) (m r : Nat) : Nat :=
  let n := c.count * dtypeBytes c.dtype
  if c.op = opBroadcast then (if r = c.root then n else 0)
  else if c.op = opReduceScatter || c.op = opAlltoall then m * n
  else if c.op = opBarrier || c.op = opRecv || c.op = opGrad then 0 else n

/-- R358: bytes of the destination at a rank. -/
def CollDesc.dstLen (c : CollDesc) (m r : Nat) : Nat :=
  let n := c.count * dtypeBytes c.dtype
  if c.op = opReduce then (if r = c.root then n else 0)
  else if c.op = opAllgather || c.op = opAlltoall then m * n
  else if c.op = opBarrier || c.op = opSend || c.op = opGrad then 0 else n

/-- The place of a loader's reservation in a scratchpad: the spec gives its size alone, so its offset is free (log 18). -/
def Dev.reservation (d : Dev) (p : Program) (k : Nat) : Option (Nat × Nat) :=
  let n := p.scratch.getD k 0
  if n = 0 then none else some (scratchBase k + Config.reserveOffset p.handle k % (d.scratchDirect k + 1 - n), n)
def Dev.reserved (d : Dev) (k : Nat) : List (Nat × Nat) := d.progs.programs.filterMap fun p => d.reservation p k

/-- R364: a staging area in a scratchpad aperture, outside every loader reservation, long enough. -/
def Dev.stageOk (d : Dev) (a n chunk : Nat) : Bool :=
  (List.range 12).any fun k =>
    within a n (scratchBase k) (d.scratchDirect k) && (d.reserved k).all (fun r => !overlaps a n r.1 r.2) && decide (4 * 2 ^ chunk ≤ n)

/-- R364: the checks of an operation, in order. -/
def Dev.collCheck (c : CollDesc) (d : Dev) : Option Half :=
  if reduces c.op && c.path = 1 then some stCollPath
  else if !c.paramOk then some stCollParam
  else
    match d.group c.group with
    | none => some stGroupInvalid
    | some g =>
      let m := g.size
      let r := d.rankIn g
      let sn := c.srcLen m r
      let dn := c.dstLen m r
      if g.stale || m ≤ c.root then some stGroupInvalid
      else if 1 < m && !d.isMember then some stFabricNotMember
      else if c.src % 64 ≠ 0 || c.dst % 64 ≠ 0 || c.stage % 64 ≠ 0 then some stAlignment
      else if !d.daOk c.src sn || !d.daOk c.dst dn then some stAddress
      else if reduces c.op && !d.stageOk c.stage c.stageLen c.chunk then some stScratchpad
      else if sn ≠ 0 && dn ≠ 0 && overlaps c.src sn c.dst dn && !(c.op == opAllreduce && c.src == c.dst) then some stMemOverlap
      else none

-- Operations in flight (R358 to R363)

def Dev.collOp (d : Dev) (id : Nat) : Option CollOp := d.coll.ops.find? fun o => o.id == id
def Dev.modOp (id : Nat) (f : CollOp → CollOp) (d : Dev) : Dev :=
  { d with coll := { d.coll with ops := updFirst (fun o => o.id == id) f d.coll.ops } }

/-- Ranks other than one. -/
def others (m r : Nat) : List Nat := (List.range m).filter (· != r)

/-- The ranks that a rank's bytes come from. -/
def CollDesc.froms (c : CollDesc) (m r : Nat) : List Nat :=
  if c.op = opBarrier || c.op = opAllgather || c.op = opAlltoall then others m r
  else if c.op = opBroadcast then (if r = c.root then [] else [c.root])
  else if reduces c.op then
    (if 0 < r then [r - 1] else []) ++
    (if r + 1 < m && (c.op != opReduce || r == c.root) then [m - 1] else [])
  else if c.op = opRecv then [c.root] else []

/-- The ranks that a rank's bytes go to. -/
def CollDesc.tos (c : CollDesc) (m r : Nat) : List Nat :=
  if c.op = opSend then [c.root] else if c.op = opRecv then [] else (List.range m).filter fun q => (c.froms m q).contains r

/-- Elements a staged operation's chain carries. -/
def CollDesc.chainElems (c : CollDesc) (m : Nat) : Nat := if c.op = opReduceScatter then m * c.count else c.count

/-- Bytes a rank receives from another by DATA. -/
def CollDesc.dataFrom (c : CollDesc) (m r q : Nat) : Nat :=
  if c.op = opBarrier || (reduces c.op && (q + 1 != m || r + 1 == m)) then 0 else c.count * dtypeBytes c.dtype

/-- The header of an operation's messages. -/
def CollOp.msg (o : CollOp) (kind : Nat) : CMsg :=
  { group := o.d.group, epoch := o.epoch, seq := o.seq, rank := o.rank, kind := kind, op := o.d.op, dtype := o.d.dtype, count := o.d.count }

/-- R361: does a message belong to an operation: the same number, or the pair's. -/
def CollOp.matches_ (o : CollOp) (m : CMsg) : Bool :=
  o.d.group == m.group && o.seq == m.seq &&
  (if m.op = opRecv then o.d.op == opSend && o.d.root == m.rank
   else if m.op = opSend then o.d.op == opRecv && o.d.root == m.rank
   else !pointToPoint o.d.op)
def Dev.opOf (d : Dev) (m : CMsg) : Option CollOp := d.coll.ops.find? fun o => o.matches_ m
/-- R360: the sender's descriptor differs from one's own. -/
def CollOp.differs (o : CollOp) (m : CMsg) : Bool :=
  o.d.dtype != m.dtype || o.d.count != m.count || (!pointToPoint o.d.op && o.d.op != m.op)

/-- An operation ends: it leaves the list, its messages are dropped, its reply is posted. -/
def Dev.endColl (id : Nat) (st : Half) (d : Dev) : Dev :=
  match d.collOp id with
  | none => d
  | some o =>
    let d1 : Dev := { d with coll := { d.coll with
      ops := d.coll.ops.filter (fun x => x.id != id),
      ready := d.coll.ready.filter fun r => !(r.handle == o.d.group && r.epoch == o.epoch && r.seq == o.seq &&
        pointToPoint r.op == pointToPoint o.d.op && (!pointToPoint o.d.op || r.rank == o.d.root)) } }
    (d1.dropMsgs (.op id)).endWith id st 0 0 0

/-- ABORT to every other member, or to the peer (R360). -/
def Dev.sendAborts (o : CollOp) (reason : Nat) (d : Dev) : Dev :=
  match d.group o.d.group with
  | none => d
  | some g =>
    d.each (if pointToPoint o.d.op then [o.d.root] else others g.size o.rank) fun q d =>
      d.sendRank g q { o.msg mAbort with reason := reason } .none

/-- R360: the descriptors differ. -/
def Dev.mismatch (o : CollOp) (d : Dev) : Dev := ((d.sendAborts o 4).collSeen 4).endColl o.id stCollMismatch

/-- READY marks of an operation: the ranks that are ready for its data. -/
def Dev.readyRanks (d : Dev) (o : CollOp) : List Nat :=
  (d.coll.ready.filter fun r => r.handle == o.d.group && r.epoch == o.epoch && r.seq == o.seq &&
    (if pointToPoint o.d.op then r.op == opRecv else !pointToPoint r.op)).map (·.rank)

-- Arithmetic of reductions (R359)

/-- An input element as the running type: FP32 bits, or the integer. -/
def runOf (t code : Nat) : Nat := if dtypeInt t then code else (ofV ((dtypeFmt t).decode code)).toNat
/-- Add one rank's element to the running value. -/
def redStep (t redop : Nat) (a b : Nat) : Nat :=
  if dtypeInt t then
    let w := if t = 0x11 then 64 else 32
    let x := ofTwos w a
    let y := ofTwos w b
    toTwos w (if redop = 0 then x + y else if redop = 1 then max x y else min x y)
  else
    let x := BitVec.ofNat 32 a
    let y := BitVec.ofNat 32 b
    (if redop = 0 then fadd x y else if redop = 1 then fmax x y else fmin x y).toNat
/-- The result in the operation's type. -/
def redEnd (t a : Nat) : Nat := if dtypeInt t then a else (dtypeFmt t).encode (toV (BitVec.ofNat 32 a))

/-- Elements of n bytes each. -/
def elems (n : Nat) (bs : List Byte) : List Nat := (chunks n (if n = 0 then 0 else bs.length / n) bs).map leNat
def fromElems (n : Nat) (xs : List Nat) : List Byte := xs.flatMap (leBytes n)

/-- Read a source, or stop the operation at an uncorrectable word (R504, R413). -/
def Dev.collRead (o : CollOp) (a n : Nat) (k : List Byte → Dev → Dev) (d : Dev) : Dev :=
  match d.mem.firstPoison a n with
  | some w => ((d.ueAt w true).sendAborts o 5).endColl o.id stUncorrectable
  | none => k (d.mem.readBytes a n) (d.heat a n)

/-- R363: elements of the chain reach this rank, with its own added; the last rank converts, keeps them, and writes what is
its own; another keeps them until the next rank is ready. -/
def Dev.chainTake (o : CollOp) (m first : Nat) (xs : List Nat) (d : Dev) : Dev :=
  if o.rank + 1 < m then d.modOp o.id fun p => { p with sums := p.sums ++ [(first, xs)], formed := p.formed + xs.length }
  else
    let t := o.d.dtype
    let ys := xs.map (redEnd t)
    let own := (indexed ys).filterMap fun e =>
      let i := first + e.1
      if o.d.op = opReduceScatter then (if i / max 1 o.d.count = o.rank then some (i % max 1 o.d.count, e.2) else none)
      else if o.d.op = opReduce && o.d.root ≠ o.rank then none else some (i, e.2)
    let d1 := d.each own fun e d => d.write (o.d.dst + e.1 * dtypeBytes t) (leBytes (dtypeBytes t) e.2)
    d1.modOp o.id fun p => { p with results := p.results ++ [(first, ys)], formed := p.formed + ys.length }

/-- R363: rank 0 puts its input into the chain. -/
def Dev.chainStart (o : CollOp) (m : Nat) (d : Dev) : Dev :=
  d.collRead o o.d.src (o.d.srcLen m o.rank) fun bs d =>
    d.chainTake o m 0 ((elems (dtypeBytes o.d.dtype) bs).map (runOf o.d.dtype))

/-- What the last rank sends another: its elements of the result, and where they begin (R363). -/
def CollOp.resultFor (o : CollOp) (q : Nat) : List Nat :=
  let all_ := (sortBy (fun a b => decide (a.1 ≤ b.1)) o.results).flatMap (·.2)
  if o.d.op = opReduceScatter then (all_.drop (q * o.d.count)).take o.d.count else all_

/-- R360, R362, R363: send a rank its data, once it is ready. -/
def Dev.sendShare (o : CollOp) (g : Group) (q : Nat) (d : Dev) : Dev :=
  let m := g.size
  let es := dtypeBytes o.d.dtype
  let n := o.d.count * es
  let mark (d : Dev) : Dev := d.modOp o.id fun p => { p with sentTo := p.sentTo ++ [q] }
  if o.d.op = opBarrier then mark d
  else if reduces o.d.op then
    if q = o.rank + 1 then
      let d1 := d.each o.sums fun c d =>
        d.sendData g q { o.msg mChain with offset := c.1 * runBytes o.d.dtype } (fromElems (runBytes o.d.dtype) c.2) (.op o.id)
      let d2 := d1.modOp o.id fun p => { p with sums := [] }
      if o.formed = o.d.chainElems m then mark d2 else d2
    else if o.formed = o.d.chainElems m then
      mark (d.sendData g q (o.msg mData) (fromElems es (o.resultFor q)) (.op o.id))
    else d
  else
    let from_ := if o.d.op = opAlltoall then o.d.src + q * n else o.d.src
    let off := if o.d.op = opAllgather || o.d.op = opAlltoall then o.rank * n else 0
    mark (d.collRead o from_ n fun bs d => d.sendData g q { o.msg mData with offset := off } bs (.op o.id))

/-- Everything the operation waits for has happened. -/
def Dev.collDone (o : CollOp) (g : Group) (d : Dev) : Bool :=
  let m := g.size
  let ready := d.readyRanks o
  (o.d.tos m o.rank).all (fun q => o.sentTo.contains q && ready.contains q) &&
  (o.d.froms m o.rank).all (fun q =>
    decide (o.d.dataFrom m o.rank q ≤ sumNat ((o.got.filter fun e => e.1 == q).map fun e => e.2.2))) &&
  (!reduces o.d.op || o.formed == o.d.chainElems m) &&
  (d.fabric.unacked ++ d.fabric.waiting).all fun x => x.owner != .op o.id

/-- R360 to R363: what an operation can now do. -/
def Dev.collStep (id : Nat) (d : Dev) : Dev :=
  match d.collOp id with
  | none => d
  | some o =>
    match d.group o.d.group with
    | none => d
    | some g =>
      if d.noPath (.op id) then d.endColl id stRouteUnreachable else
      let ready := d.readyRanks o
      let d1 := d.each ((o.d.tos g.size o.rank).filter fun q => ready.contains q && !o.sentTo.contains q) fun q d =>
        match d.collOp id with
        | some p => d.sendShare p g q
        | none => d
      match d1.collOp id with
      | none => d1
      | some p => if d1.collDone p g then d1.endColl id stOk else d1

/-- After anything was acknowledged or arrived, every operation goes on. -/
def Dev.collSettle (d : Dev) : Dev := d.each (d.coll.ops.map (·.id)) Dev.collStep

/-- R358: what a member keeps of its own. -/
def Dev.collOwn (o : CollOp) (m : Nat) (d : Dev) : Dev :=
  let n := o.d.count * dtypeBytes o.d.dtype
  let copy (a b : Nat) (d : Dev) : Dev := d.collRead o a n fun bs d => d.write b bs
  if o.d.op = opBroadcast && o.rank = o.d.root then copy o.d.src o.d.dst d
  else if o.d.op = opAllgather then copy o.d.src (o.d.dst + o.rank * n) d
  else if o.d.op = opAlltoall then copy (o.d.src + o.rank * n) (o.d.dst + o.rank * n) d
  else if reduces o.d.op && o.rank = 0 then d.chainStart o m
  else d

/-- R360: the number of a pair of ranks, or the group's OP_SEQ. -/
def Group.number (g : Group) (c : CollDesc) (r : Nat) : Nat × Group :=
  if pointToPoint c.op then
    let key := if c.op = opSend then (r, c.root) else (c.root, r)
    let n := match g.pairSeq.find? fun e => e.1 == key with | some e => e.2 | none => 0
    (n, { g with pairSeq := (key, (n + 1) % 2 ^ 32) :: g.pairSeq.filter fun e => e.1 != key })
  else (g.opSeq, { g with opSeq := (g.opSeq + 1) % 2 ^ 32 })

/-- R358, R360, R364: an operation that passed its checks begins: it takes its number, tells its senders READY, keeps its own
share. The staging area's contents are the device's own from here on (log 19). -/
def Dev.collBegin (c : Cmd) (ds : CollDesc) (g : Group) (d : Dev) : Dev :=
  let r := d.rankIn g
  let num := g.number ds r
  let o : CollOp := { id := c.id, d := ds, rank := r, epoch := g.epoch, seq := num.1, due := d.after d.collLimit }
  let d1 := ((d.modGroup g.handle fun _ => num.2).setPhase c.id .running)
  let d2 : Dev := { d1 with coll := { d1.coll with ops := d1.coll.ops ++ [o] } }
  let d3 : Dev := if reduces ds.op then { d2 with mem := d2.mem.forget ds.stage (4 * 2 ^ ds.chunk) } else d2
  let bad := d.coll.ready.any fun x => x.handle == g.handle && x.epoch == o.epoch && x.seq == o.seq &&
    (let m : CMsg := { o.msg mReady with op := x.op, rank := x.rank, dtype := x.dtype, count := x.count }
     o.matches_ m && (o.differs m || !(ds.tos g.size r).contains x.rank))
  if bad then d3.mismatch o
  else
    let d4 := d3.each (ds.froms g.size r) fun q d => d.sendRank g q (o.msg mReady) (.op c.id)
    let d5 := if ds.count = 0 then d4 else d4.collOwn o g.size
    d5.collStep c.id

/-- COLL_START (R357): a row acts on a descriptor with its own OP; a descriptor that cannot be read, or whose OP is no code,
ends the command by whichever row takes it. -/
def Dev.collStart (op : Nat) (f : Cmd → CollDesc → Dev → Dev) (c : Cmd) (d : Dev) : Dev :=
  let a := opDa c.pkt.o0
  let code := (d.mem.read a).toNat
  if d.daOk a 64 && (d.mem.firstPoison a 64).isNone && collOps.contains code && code != op then d
  else
    d.fetchBytes c.id a 64 (fun bs d =>
      match parseColl bs with
      | some ds => if ds.op = op then f c ds d else d.refuse c.id stCollParam
      | none => d.refuse c.id stCollParam)

/-- R229: a kiln has a split pending, by its number and by a staging area in its scratchpad. -/
def Dev.kilnPending (d : Dev) (i : Nat) : Bool := match d.kilns[i]? with | some k => k.shmem.pending | none => false
def Dev.stagePending (d : Dev) (stage : Nat) : Bool :=
  decide (scratchBase 0 ≤ stage) && d.kilnPending ((stage - scratchBase 0) / 0x40000000)

/-- R364 and the start of an operation that moves or reduces data; one whose staging area lies in a kiln with a split pending waits (R229). -/
def Dev.collRun (c : Cmd) (ds : CollDesc) (d : Dev) : Dev :=
  match d.collCheck ds, d.group ds.group with
  | some st, _ => d.refuse c.id st
  | none, some g => if reduces ds.op && d.stagePending ds.stage then d else d.collBegin c ds g
  | none, none => d

def execBarrier (tag : Tag) (s : State) : Out := .next (s.onDev (Dev.onCmd tag 0x50 (Dev.collStart opBarrier Dev.collRun)))
def execBroadcast (tag : Tag) (s : State) : Out := .next (s.onDev (Dev.onCmd tag 0x50 (Dev.collStart opBroadcast Dev.collRun)))
def execReduce (tag : Tag) (s : State) : Out := .next (s.onDev (Dev.onCmd tag 0x50 (Dev.collStart opReduce Dev.collRun)))
def execAllreduce (tag : Tag) (s : State) : Out := .next (s.onDev (Dev.onCmd tag 0x50 (Dev.collStart opAllreduce Dev.collRun)))
def execReduceScatter (tag : Tag) (s : State) : Out :=
  .next (s.onDev (Dev.onCmd tag 0x50 (Dev.collStart opReduceScatter Dev.collRun)))
def execAllgather (tag : Tag) (s : State) : Out := .next (s.onDev (Dev.onCmd tag 0x50 (Dev.collStart opAllgather Dev.collRun)))
def execAlltoall (tag : Tag) (s : State) : Out := .next (s.onDev (Dev.onCmd tag 0x50 (Dev.collStart opAlltoall Dev.collRun)))
def execSend (tag : Tag) (s : State) : Out := .next (s.onDev (Dev.onCmd tag 0x50 (Dev.collStart opSend Dev.collRun)))
def execRecv (tag : Tag) (s : State) : Out := .next (s.onDev (Dev.onCmd tag 0x50 (Dev.collStart opRecv Dev.collRun)))

-- GROUP_BIND and GROUP_RELEASE (R354, R356)

/-- R354: the first 64 bits of the SHA-384 of a member list. -/
def listDigest (bs : List Byte) : List Byte := (sha384 bs).take 8

/-- A bind ends with ST_OK: the group is bound with its count of events at 0 (R355). -/
def Dev.bindDone (b : Bind) (d : Dev) : Dev :=
  let g : Group := { handle := b.handle, members := b.members, generation := b.generation }
  (({ d with coll := { d.coll with binds := d.coll.binds.filter (fun x => x.handle != b.handle), groups := d.coll.groups ++ [g] } } : Dev).dropMsgs
    (.bind b.handle)).endWith b.cmd stOk 0 0 0
/-- A bind ends in another status: the handle is free. -/
def Dev.bindFail (b : Bind) (st : Half) (d : Dev) : Dev :=
  ({ d with coll := { d.coll with binds := d.coll.binds.filter fun x => x.handle != b.handle } } : Dev).dropMsgs (.bind b.handle)
    |>.endWith b.cmd st 0 0 0

/-- A bind with a BIND from every other member is complete. -/
def Dev.bindSettle (h : Nat) (d : Dev) : Dev :=
  match d.coll.binds.find? fun b => b.handle == h with
  | none => d
  | some b =>
    if d.noPath (.bind h) then d.bindFail b stRouteUnreachable
    else if b.members.all fun n => n == d.fabric.node || b.got.contains n then d.bindDone b else d

/-- GROUP_BIND (R354): its conditions in order, then a BIND to every other member. -/
def Dev.groupBind (c : Cmd) (ds : CollDesc) (d : Dev) : Dev :=
  let n := ds.count
  if 1023 < ds.group || n = 0 || 16384 < n || ds.dtype ≠ 0 || ds.redop ≠ 0 || ds.path ≠ 0 || ds.root ≠ 0 || ds.job ≠ 0 || ds.bucket ≠ 0 then
    d.refuse c.id stCollParam
  else
    d.fetchBytes c.id ds.src (2 * n) (fun bs d =>
      let ids := (elems 2 bs).map fun x => (BitVec.ofNat 14 x : NodeId)
      if (elems 2 bs).any (fun x => decide (16384 ≤ x)) || !ids.contains d.fabric.node || !decide ids.Nodup then d.refuse c.id stCollParam
      else if 1024 ≤ d.coll.groups.length + d.coll.binds.length then (d.collSeen 5).refuse c.id stGroupTableFull
      else if (d.group ds.group).isSome || d.coll.binds.any (fun b => b.handle == ds.group) then d.refuse c.id stGroupBusy
      else if 1 < n && !d.isMember then d.refuse c.id stFabricNotMember
      else
        let dg := listDigest bs
        let early := d.coll.earlyBinds.filter fun e => e.handle == ds.group
        let same := early.filter fun e => e.generation == ds.generation && e.digest == dg
        let clash := early.any fun e => decide (ds.generation ≤ e.generation) && !(e.generation == ds.generation && e.digest == dg)
        let b : Bind := { cmd := c.id, handle := ds.group, members := ids, generation := ds.generation, digest := dg,
                          got := same.map (·.src), due := d.after d.collLimit }
        let d1 : Dev := { d with coll := { d.coll with binds := d.coll.binds ++ [b],
                                                       earlyBinds := d.coll.earlyBinds.filter fun e => e.handle != ds.group } }
        let msg : CMsg := { group := ds.group, epoch := at_ 16 ds.generation, kind := mBind, op := opBind, data := dg,
                            rank := (ids.findIdx? fun x => x == d.fabric.node).getD 0 }
        let d2 := (d1.setPhase c.id .running).each (ids.filter fun x => x != d.fabric.node) fun x d => d.sendTo x msg (.bind ds.group)
        if clash then (d2.collSeen 4).bindFail b stCollMismatch else d2.bindSettle ds.group)

def execGroupBind (tag : Tag) (s : State) : Out := .next (s.onDev (Dev.onCmd tag 0x50 (Dev.collStart opBind Dev.groupBind)))

/-- GROUP_RELEASE (R356). -/
def Dev.groupRelease (c : Cmd) (ds : CollDesc) (d : Dev) : Dev :=
  match d.group ds.group with
  | none => d.refuse c.id stGroupInvalid
  | some _ =>
    if d.coll.ops.any (fun o => o.d.group == ds.group) || d.coll.jobs.any (fun j => j.group == ds.group) then d.refuse c.id stGroupBusy
    else ({ d with coll := { d.coll with
        groups := d.coll.groups.filter (fun g => g.handle != ds.group),
        ready := d.coll.ready.filter fun r => r.handle != ds.group } } : Dev).okCmd c.id 0 0 0

def execGroupRelease (tag : Tag) (s : State) : Out := .next (s.onDev (Dev.onCmd tag 0x50 (Dev.collStart opRelease Dev.groupRelease)))

-- Messages that arrive

/-- Take message i of the inbox if it is of a kind: a message of a group's operations is discarded when it is of an earlier
epoch, and held when it is of a later one or of a group not yet bound here (R351). -/
def Dev.takeMsg (i kind : Nat) (f : CMsg → Group → Dev → Dev) (d : Dev) : Dev :=
  match d.fabric.inbox[i]? with
  | none => d
  | some x =>
    let m := parseMsg x.payload
    if m.kind ≠ kind then d
    else
      let gone : Dev := { d with fabric := { d.fabric with inbox := d.fabric.inbox.eraseIdx i } }
      let held : Dev := { d with fabric := { d.fabric with
        inbox := d.fabric.inbox.set i { x with heldTo := some (x.heldTo.getD (d.after 20000)) } } }
      match d.group m.group with
      | none => held
      | some g =>
        if m.epoch < g.epoch then gone
        else if g.epoch < m.epoch then held
        else f m g gone

/-- BIND_MESSAGE (R354). One that comes before this device's own bind waits for it (log 34). -/
def Dev.takeBind (i : Nat) (d : Dev) : Dev :=
  match d.fabric.inbox[i]? with
  | none => d
  | some x =>
    let m := parseMsg x.payload
    if m.kind ≠ mBind then d
    else
      let d1 : Dev := { d with fabric := { d.fabric with inbox := d.fabric.inbox.eraseIdx i } }
      let gen := m.epoch / 2 ^ 16
      match d1.coll.binds.find? fun b => b.handle == m.group with
      | none =>
        let e : EarlyBind := { src := x.src, handle := m.group, generation := gen, digest := m.data.take 8 }
        { d1 with coll := { d1.coll with earlyBinds := d1.coll.earlyBinds ++ [e] } }
      | some b =>
        if b.generation = gen && b.digest == m.data.take 8 then
          (({ d1 with coll := { d1.coll with binds := d1.coll.binds.map fun y =>
              if y.handle == b.handle then { y with got := x.src :: y.got } else y } } : Dev).bindSettle b.handle)
        else (d1.collSeen 4).bindFail b stCollMismatch

def execBindMessage (i : Nat) (s : State) : Out := .next (s.onDev (Dev.takeBind i))

/-- READY_MESSAGE (R360). -/
def Dev.takeReady (m : CMsg) (g : Group) (d : Dev) : Dev :=
  let mark : ReadyMark := { handle := g.handle, epoch := m.epoch, op := m.op, seq := m.seq, rank := m.rank, dtype := m.dtype, count := m.count }
  let marked : Dev := { d with coll := { d.coll with ready := d.coll.ready ++ [mark] } }
  match d.opOf m with
  | none => marked
  | some o =>
    if o.differs m || !(o.d.tos g.size o.rank).contains m.rank then d.mismatch o else marked.collStep o.id

def execReadyMessage (i : Nat) (s : State) : Out := .next (s.onDev (Dev.takeMsg i mReady Dev.takeReady))

/-- COLL_DATA_MESSAGE (R362): the lantern writes the bytes straight into the destination. -/
def Dev.takeData (m : CMsg) (g : Group) (d : Dev) : Dev :=
  match d.opOf m with
  | none => d
  | some o =>
    if o.differs m || !(o.d.froms g.size o.rank).contains m.rank then d.mismatch o
    else if o.d.dstLen g.size o.rank < m.offset + m.data.length then d
    else
      let d1 := d.write (o.d.dst + m.offset) m.data
      (d1.modOp o.id fun p => { p with got := p.got ++ [(m.rank, m.offset, m.data.length)] }).collStep o.id

def execCollDataMessage (i : Nat) (s : State) : Out := .next (s.onDev (Dev.takeMsg i mData Dev.takeData))

/-- R363: a running sum of a staged operation arrives: this rank adds its own input. -/
def Dev.takeSum (m : CMsg) (g : Group) (d : Dev) : Dev :=
  match d.opOf m with
  | none => d
  | some o =>
    if o.differs m || o.rank ≠ m.rank + 1 then d.mismatch o
    else
      let rb := runBytes o.d.dtype
      let es := dtypeBytes o.d.dtype
      let first := m.offset / rb
      let xs := elems rb m.data
      if o.d.chainElems g.size < first + xs.length then d
      else
        (d.collRead o (o.d.src + first * es) (xs.length * es) fun bs d =>
          let own := (elems es bs).map (runOf o.d.dtype)
          d.chainTake o g.size first (xs.zipWith (redStep o.d.dtype o.d.redop) own)).collStep o.id

/-- COLL_TIMEOUT (R354, R360): a wait for READY or for BIND ends the operation. -/
def Dev.collTimeout (id : Nat) (d : Dev) : Dev :=
  match d.coll.binds.find? fun b => b.cmd == id with
  | some b => if d.due b.due then (d.collSeen 2).bindFail b stCollTimeout else d
  | none =>
    match d.collOp id with
    | none => d
    | some o =>
      match d.group o.d.group with
      | none => d
      | some g =>
        let ready := d.readyRanks o
        if !d.due o.due || (o.d.tos g.size o.rank).all fun q => ready.contains q then d else (d.collSeen 2).endColl id stCollTimeout

def execCollTimeout (id : Nat) (s : State) : Out := .next (s.onDev (Dev.collTimeout id))

/-- R413: a COLL_START that a CANCEL ends: ABORT with REASON 5. -/
def Dev.collCancel (id : Nat) (d : Dev) : Dev :=
  match d.collOp id with
  | some o => (d.sendAborts o 5).endColl id stCancelled
  | none =>
    match d.coll.binds.find? fun b => b.cmd == id with
    | some b => d.bindFail b stCancelled
    | none => d

end Sys2Proof.Machine
end

