-- ==== Sys2Proof/Machine/Grad.lean ====
section
/-! DEFINITION. Gradient jobs: steps, contributions, reduction slots, tallies, aborts, thinning (R366 to R381). -/
namespace Sys2Proof.Machine

/-- R366, R382: a job's step timeout in µs. -/
def Dev.stepLimit (d : Dev) (job : Nat) : Nat :=
  let own := match d.coll.jobs.find? fun j => j.id == job with | some j => j.timeout | none => 0
  100 * max 1 (if own = 0 then field d.coll.gradCfg.toNat 15 0 else own)

/-- A unit leaves service until the next start: UNIT_OUT_SEEN, the ledger's record, the REPAIR event (R510, R513, R515). rule is
the rule that took it out, its low 8 bits in DETAIL (log 20). -/
def Dev.unitOut (die : DieIx) (unit rule : Nat) (d : Dev) : Dev :=
  ((({ d with repair := { d.repair with unitOutSeen := true } } : Dev).noteRepair 0x0C (dieCode die) unit (rule % 256)).setEvent evRepair)

-- Jobs (R366 to R369)

def Dev.job (d : Dev) (id : Nat) : Option GradJob := d.coll.jobs.find? fun j => j.id == id
def Dev.modJob (id : Nat) (f : GradJob → GradJob) (d : Dev) : Dev :=
  { d with coll := { d.coll with jobs := updFirst (fun j => j.id == id) f d.coll.jobs } }
def Dev.modLaunch (id : Nat) (f : Launch → Launch) (d : Dev) : Dev :=
  { d with launches := updFirst (fun l => l.id == id) f d.launches }
def Dev.launchOf (d : Dev) (id : Nat) : Option Launch := d.launches.find? fun l => l.id == id

/-- What stops a launch with a status at its next boundaries; the first status stands (R269, R504). -/
def Launch.stop (st : Half) (l : Launch) : Launch :=
  match l.phase with
  | .ending _ => l
  | .ended => l
  | _ => { l with phase := .ending st }
/-- R89, R94: a cancel frees the launch's groups at once on the tiles that are at a boundary of it. -/
def Dev.freeGroups (id : Nat) (d : Dev) : Dev :=
  { d with kilns := d.kilns.map fun (k : Kiln) => { k with tiles := k.tiles.map fun (t : TileSt) =>
      if (t.running.any fun r => r.launch == id) then t else { t with groups := t.groups.filter fun g => g.launch != id } } }
def Dev.stopLaunch (id : Nat) (st : Half) (d : Dev) : Dev :=
  let d1 := d.modLaunch id (Launch.stop st)
  if (d1.launchOf id).any (·.phase == .ending stCancelled) then d1.freeGroups id else d1

/-- R370: values of a shard. -/
def shardValues : Nat := 16384
def GradBucket.shards (b : GradBucket) : Nat := cdiv b.count shardValues
def GradBucket.shardLen (b : GradBucket) (k : Nat) : Nat := min shardValues (b.count - k * shardValues)
/-- Bytes of a shard's result in RESULT_FMT: elements, then scales for MXFP8 (R366, R373). -/
def resultElem (fmt : Nat) : Nat := if fmt = 0 then 2 else if fmt = 1 then 4 else 1
def resultBytes (fmt n : Nat) : Nat := n * resultElem fmt + (if fmt = 2 then n / 32 else 0)
/-- R367: the format of a bucket's source. -/
def gradFmt (b : GradBucket) : BFmt := if b.srcFmt = 0 then .mxfp8e5m2 else .mxfp8e4m3

/-- R367: a bucket record; none where its reserved byte is not zero. -/
def parseBucket (r : List Byte) : Option GradBucket :=
  if zeroAt r 31 31 then
    some { src := bytesAt r 5 0, srcScale := bytesAt r 11 6, dst := bytesAt r 17 12, dstScale := bytesAt r 23 18,
           count := bytesAt r 27 24, kernel := bytesAt r 29 28, srcFmt := bytesAt r 30 30 }
  else none

/-- R366, R367: fields in range. -/
def GradJob.rangeOk (j : GradJob) (mode : Nat) : Bool :=
  j.id != 0 && !j.buckets.isEmpty && decide (mode ≤ 1) && decide (j.resultFmt ≤ 2) && decide (1 ≤ j.thinN) && decide (j.thinN ≤ 64) &&
  decide (j.trigger ≤ 1) && (j.trigger == 0 || j.program == 0) && decide (16 ≤ j.window) && decide (j.window ≤ 4096) &&
  isFinite j.scale && (j.thinN != 1 || j.acc == 0) && decide (12 ≤ j.chunk) && decide (j.chunk ≤ 20) &&
  j.buckets.all fun b => b.count % 32 == 0 && b.count != 0 && decide (b.srcFmt ≤ 1) && (j.trigger == 0 || b.kernel == 0) &&
    (j.resultFmt == 2 || b.dstScale == 0)

/-- R366: a job from its header and records. -/
def parseJob (h : List Byte) (bs : List GradBucket) : GradJob :=
  { id := bytesAt h 1 0, group := bytesAt h 3 2, buckets := bs, ordered := bytesAt h 6 6 == 1, resultFmt := bytesAt h 7 7,
    thinN := bytesAt h 8 8, trigger := bytesAt h 9 9, program := bytesAt h 11 10, window := bytesAt h 13 12, timeout := bytesAt h 15 14,
    scale := BitVec.ofNat 32 (bytesAt h 19 16), acc := bytesAt h 25 20, stage := bytesAt h 31 26, stageLen := bytesAt h 35 32,
    chunk := bytesAt h 36 36 }

/-- All values of a job's buckets. -/
def GradJob.values (j : GradJob) : Nat := sumNat (j.buckets.map (·.count))

/-- R368: ranges a job names. -/
def GradJob.ranges (j : GradJob) : List (Nat × Nat) :=
  (j.buckets.flatMap fun b => [(b.src, b.count), (b.srcScale, b.count / 32), (b.dst, b.count * resultElem j.resultFmt)] ++
    (if j.resultFmt = 2 then [(b.dstScale, b.count / 32)] else [])) ++
  (if 1 < j.thinN then [(j.acc, 4 * j.values)] else [])

/-- R368: the checks, in order. -/
def Dev.jobCheck (j : GradJob) (mode : Nat) (headOk : Bool) (d : Dev) : Option Half :=
  firstFail [
    (headOk && j.rangeOk mode, stCollParam),
    ((d.job j.id).isNone, stGradJobBusy),
    (decide (d.coll.jobs.length < 64), stGradJobFull),
    ((match d.group j.group with | some g => !g.stale | none => false), stGroupInvalid),
    (j.trigger == 1 || (match d.liveProgram j.program with
      | some p => j.buckets.all (fun b => decide (b.kernel < p.image.kernels.length)) &&
          d.coll.jobs.all fun k => !(k.trigger == 0 && k.program == j.program)
      | none => false), stProgramInvalid),
    ((j.ranges.all fun r => r.1 % 64 == 0) && j.stage % 64 == 0, stAlignment),
    (j.ranges.all fun r => d.daOk r.1 r.2, stAddress),
    (d.stageOk j.stage j.stageLen j.chunk, stScratchpad)]

/-- GRAD_JOB_OPEN (R366 to R368); ACC starts at +0 (R380); a kiln with a split pending holds it back (R229). -/
def Dev.gradOpen (c : Cmd) (d : Dev) : Dev :=
  let a := opDa c.pkt.o0
  d.fetchBytes c.id a 64 (fun h d =>
    let n := bytesAt h 5 4
    d.fetchBytes c.id (a + 64) (32 * n) (fun rs d =>
      let recs := (chunks 32 n rs).map parseBucket
      let bs := recs.filterMap id
      let j := parseJob h bs
      match d.jobCheck j (bytesAt h 6 6) (zeroAt h 63 37 && recs.all (·.isSome)) with
      | some st => d.refuse c.id st
      | none =>
        if d.stagePending j.stage then d else
        let d1 : Dev := if 1 < j.thinN then { d with mem := d.mem.clear j.acc (4 * j.values) } else d
        ({ d1 with coll := { d1.coll with jobs := d1.coll.jobs ++ [j] } } : Dev).okCmd c.id 0 0 0))

def execGradJobOpen (tag : Tag) (s : State) : Out := .next (s.onDev (Dev.onCmd tag 0x51 Dev.gradOpen))

-- Steps (R369, R378 to R380)

/-- Is a step in flight on this device. -/
def GradJob.active (j : GradJob) : Bool := j.launch.isSome || !j.cmds.isEmpty
/-- R380: a step that sends nothing. -/
def GradJob.isLocal (j : GradJob) : Bool := decide (1 < j.thinN) && j.step % j.thinN != j.thinN - 1

/-- A step begins: by a launch, or by the first GRAD_CONTRIBUTE (whose random values the spec gives no seed: log 21). -/
def Dev.stepBegin (id : Nat) (launch : Option Nat) (d : Dev) : Dev :=
  let seed := match launch with
    | some l => match d.launchOf l with | some x => x.seed | none => 0
    | none => Config.freeWord d.freeCtr
  let epoch := match d.job id with
    | some j => match d.group j.group with | some g => g.epoch | none => 0
    | none => 0
  ({ d with freeCtr := d.freeCtr + 1 } : Dev).modJob id fun j =>
    { j with launch := launch, seed := seed, epoch := epoch, aborted := false, ready := [], todo := [], inFlight := [], waits := [],
             done := [], gotBytes := [], nonFinite := false, reason := none }

/-- The reply of a step (R404): endpoint shards; REASON, LOCAL. -/
def stepValB (j : GradJob) : Nat := j.reason.getD 0 + at_ 8 (b2n j.isLocal)

/-- R369, R378, R379: the step ends on this device with a status; its commands end with it, or its launch takes it. The step
number advances with ST_OK and ST_NUMERIC_NAN alone; ACC is then cleared if the step sent (R380). -/
def Dev.stepEnd (id : Nat) (st : Half) (d : Dev) : Dev :=
  match d.job id with
  | none => d
  | some j =>
    let good := st == stOk || st == stNumericNan
    let d1 := d.each j.cmds fun c d => d.endWith c st j.endpointCount (stepValB j) 0
    let d2 := match j.launch with
      | none => d1
      | some l => d1.modLaunch l fun x =>
          { x with step := some st, endpoint := j.endpointCount, reason := j.reason.getD 0, isLocal := j.isLocal,
                   nanFinal := x.nanFinal || st == stNumericNan }
    let d3 : Dev := if good && decide (1 < j.thinN) && !j.isLocal then { d2 with mem := d2.mem.clear j.acc (4 * j.values) } else d2
    let d4 := (d3.modJob id fun j => { j with step := if good then j.step + 1 else j.step, launch := none, cmds := [], todo := [], inFlight := [],
                                              ready := [], done := [], held := [], gotBytes := [], endpoints := [], waits := [],
                                              endpointCount := 0 })
    let d5 : Dev := if st = stStepRepeat then d4.collSeen 0 else d4
    { d5 with coll := { d5.coll with marks := d5.coll.marks.filter fun m => !(m.2.job == id && m.2.step == j.step) } }

/-- R381: a job that closes leaves once no step is in flight; launches that waited for it run without reduction. -/
def Dev.jobSettle (id : Nat) (d : Dev) : Dev :=
  match d.job id with
  | none => d
  | some j =>
    match j.closing with
    | none => d
    | some c =>
      if j.active then d
      else
        let d1 := d.each j.queued fun l d => d.modLaunch l fun x => { x with job := none }
        ({ d1 with coll := { d1.coll with
            jobs := d1.coll.jobs.filter (fun x => x.id != id), slots := d1.coll.slots.filter (fun s => s.key.job != id),
            marks := d1.coll.marks.filter fun m => m.2.job != id } } : Dev).okCmd c 0 0 0

-- Contributions (R370, R376, R380)

/-- R107: the FP32 words of stored blocks. -/
def decodeShard (f : BFmt) (n : Nat) (bs : List Byte) : List Word :=
  let es := bs.take n
  let sc := bs.drop n
  (List.range (n / 32)).flatMap fun i =>
    (Block.decode f { codes := unpackElems f (slice es (32 * i) 32), scale := (sc.getD i 0#8).toNat }).map ofV

/-- R376: TALLY and NONFINITE of values. -/
def tallyOf (xs : List Word) : Nat × Nat :=
  (toTwos 64 (xs.foldl (fun (a : Int) x => match toV x with | .fin n m e => a + unitsAt (-160) n m e | _ => a) 0),
   (xs.filter fun x => !isFinite x).length)

/-- The bytes of a shard's source. -/
def Dev.shardSource (b : GradBucket) (k : Nat) (d : Dev) : List Byte :=
  d.mem.readBytes (b.src + k * shardValues) (b.shardLen k) ++ d.mem.readBytes (b.srcScale + k * (shardValues / 32)) (b.shardLen k / 32)

/-- R380: the first value of a shard in the job's order, and what it contributes: its source, or ACC plus its source in
SRC_FMT. -/
def GradJob.index (j : GradJob) (b k : Nat) : Nat := sumNat ((j.buckets.take b).map (·.count)) + k * shardValues
def Dev.shardBytes (j : GradJob) (ix : Nat) (b : GradBucket) (k : Nat) (d : Dev) : List Byte :=
  let src := d.shardSource b k
  if j.thinN ≤ 1 then src
  else
    let n := b.shardLen k
    let f := gradFmt b
    let base := j.index ix k
    let xs := (indexed (decodeShard f n src)).map fun v =>
      fadd (BitVec.ofNat 32 (d.mem.readNat (j.acc + 4 * (base + v.1)) 4)) v.2
    let qs := (List.range (n / 32)).map fun i =>
      (quantGrad f d.num.gradSr d.num.mxFloor ((List.range 32).map fun t => srRandom j.seed 0xFFFF (base + 32 * i + t))
        (((xs.drop (32 * i)).take 32).map toV)).block
    qs.flatMap (fun q => packElems f q.codes) ++ qs.map fun q => BitVec.ofNat 8 q.scale

/-- The header of a job's messages. -/
def GradJob.msg (j : GradJob) (g : Group) (rank kind b k n : Nat) : CMsg :=
  { group := g.handle, job := j.id, epoch := g.epoch, seq := j.step, bucket := b, shard := k, rank := rank, kind := kind, op := opGrad,
    count := n }

/-- R373, R375: y = RNE_FP32(s × RESULT_SCALE), converted once to RESULT_FMT. -/
def resultOf (pol : NumPolicy) (scale : Word) (fmt : Nat) (sums : List Word) : List Byte :=
  let sc := if scale = 0#32 then one32 else scale
  let ys := sums.map fun s => fmul s sc
  if fmt = 0 then ys.flatMap fun y => leBytes 2 (bf16.encode (toV y))
  else if fmt = 1 then ys.flatMap fun y => leBytes 4 y.toNat
  else
    let qs := (List.range (ys.length / 32)).map fun i =>
      (quantBlock .mxfp8e5m2 false pol.mxFloor pol.ratio (List.replicate 32 true) (((ys.drop (32 * i)).take 32).map toV)).block
    qs.flatMap (fun q => packElems .mxfp8e5m2 q.codes) ++ qs.map fun q => BitVec.ofNat 8 q.scale

/-- Send a shard's result to every member (R373, R375). -/
def Dev.sendResult (j : GradJob) (g : Group) (step b k : Nat) (sums : List Word) (d : Dev) : Dev :=
  let data := resultOf d.num j.scale j.resultFmt sums
  let base := { j.msg g (d.rankIn g) mResult b k sums.length with seq := step, dtype := if j.resultFmt = 0 then 1 else if j.resultFmt = 1 then 0 else 4 }
  d.each (List.range g.size) fun q d => d.sendData g q base data (.job j.id)

/-- The FP32 values this member contributes to a shard. -/
def Dev.ownValues (j : GradJob) (b k : Nat) (d : Dev) : List Word :=
  match j.buckets[b]? with
  | some bk => decodeShard (gradFmt bk) (bk.shardLen k) (d.shardBytes j b bk k)
  | none => []

/-- R375: running sums of a shard leave this rank: to the next, or, whole at the last, as the result. -/
def Dev.chainOut (j : GradJob) (g : Group) (b k first : Nat) (xs : List Word) (d : Dev) : Dev :=
  let r := d.rankIn g
  let n := match j.buckets[b]? with | some bk => bk.shardLen k | none => 0
  if r + 1 < g.size then
    d.sendData g (r + 1) { j.msg g r mChain b k n with offset := 4 * first } (xs.flatMap fun x => leBytes 4 x.toNat) (.job j.id)
  else
    let parts := (j.held.filter fun h => h.1 == (b, k)) ++ [((b, k), first, xs)]
    let all_ := (sortBy (fun x y => decide (x.2.1 ≤ y.2.1)) parts).flatMap fun h => h.2.2
    if all_.length < n then d.modJob j.id fun j => { j with held := j.held ++ [((b, k), first, xs)] }
    else (d.sendResult j g j.step b k all_).modJob j.id fun j => { j with held := j.held.filter fun h => h.1 != (b, k) }

/-- R375: rank 0 starts a shard's chain. -/
def Dev.chainBegin (j : GradJob) (g : Group) (b k : Nat) (d : Dev) : Dev :=
  if d.rankIn g = 0 then d.chainOut j g b k 0 (d.ownValues j b k) else d

/-- R370: send a shard's contribution to its reducer. -/
def Dev.sendContrib (j : GradJob) (g : Group) (b k : Nat) (d : Dev) : Dev :=
  match j.buckets[b]? with
  | none => d
  | some bk =>
    let bs := d.shardBytes j b bk k
    let t := tallyOf (decodeShard (gradFmt bk) (bk.shardLen k) bs)
    let base := { j.msg g (d.rankIn g) mContrib b k (bk.shardLen k) with
      dtype := if bk.srcFmt = 0 then 4 else 3, tally := t.1, nonFinite := t.2 }
    d.sendData g ((b + k) % g.size) base bs (.job j.id)

/-- R370: up to WINDOW shards in flight. fuel is the number of shards that wait. -/
def Dev.gradPump (id : Nat) : Nat → Dev → Dev
  | 0, d => d
  | fuel + 1, d =>
    match d.job id with
    | none => d
    | some j =>
      match j.todo, d.group j.group with
      | (b, k) :: rest, some g =>
        if j.window ≤ j.inFlight.length then d
        else
          let d1 := d.modJob id fun j => { j with todo := rest, inFlight := j.inFlight ++ [(b, k)] }
          let d2 := if j.ordered || j.endpoints.contains (b, k) then d1.chainBegin j g b k else d1.sendContrib j g b k
          Dev.gradPump id fuel d2
      | _, _ => d

def Dev.pumpJob (id : Nat) (d : Dev) : Dev :=
  match d.job id with | some j => d.gradPump id j.todo.length | none => d

/-- R378: what an ABORT does at a member: slots and marks of the step are released, the destinations' contents are undefined, the
step ends with ST_STEP_REPEAT. -/
def Dev.stepAbort (id step reason : Nat) (st : Half) (d : Dev) : Dev :=
  match d.job id with
  | none => d
  | some j =>
    if step ≠ j.step || j.aborted then d
    else
      let d1 : Dev := { d with coll := { d.coll with
        slots := d.coll.slots.filter (fun s => !(s.key.job == id && s.key.step == step)),
        marks := d.coll.marks.filter fun m => !(m.2.job == id && m.2.step == step) } }
      let d2 := d1.modJob id fun j => { j with reason := some reason, aborted := true }
      let d3 : Dev := if j.isLocal then d2 else { d2 with mem := j.buckets.foldl (fun (m : Mem) b =>
        let m1 := m.forget b.dst (b.count * resultElem j.resultFmt)
        if j.resultFmt = 2 then m1.forget b.dstScale (b.count / 32) else m1) d2.mem }
      let d4 := if reason = 2 then d3.collSeen 1 else if reason = 1 then d3.collSeen 2 else if reason = 4 then d3.collSeen 4 else d3
      ((d4.dropMsgs (.job id)).stepEnd id st).jobSettle id

/-- An abort starts here: ABORT for the step to every other member, and its effects on this one (R377, R378). -/
def Dev.abortStep (id step reason : Nat) (st : Half) (d : Dev) : Dev :=
  match d.job id with
  | none => d
  | some j =>
    match d.group j.group with
    | none => d
    | some g =>
      let r := d.rankIn g
      let d1 := d.stepAbort id step reason st
      d1.each (others g.size r) fun q d =>
        d.sendRank g q { j.msg g r mAbort 0 0 0 with seq := step, reason := reason } .none

/-- Every shard of every bucket is done. -/
def GradJob.complete (j : GradJob) : Bool :=
  (List.range j.buckets.length).all fun b =>
    j.ready.contains b &&
    (j.isLocal || match j.buckets[b]? with | some x => (List.range x.shards).all fun k => j.done.contains (b, k) | none => true)

/-- R379: a step whose shards are all done ends; a launch that waited begins its own. -/
def Dev.stepSettle (id : Nat) (d : Dev) : Dev :=
  match d.job id with
  | none => d
  | some j =>
    if j.active && d.noPath (.job id) then ((d.dropMsgs (.job id)).stepEnd id stRouteUnreachable).jobSettle id
    else if j.active && j.complete then (d.stepEnd id (if j.nonFinite then stNumericNan else stOk)).jobSettle id else d

/-- R377: this member begins to wait for the chain sums of shards, each a (bucket, index); rank 0 begins the chains itself. -/
def Dev.chainWait (id : Nat) (keys : List (Nat × Nat)) (d : Dev) : Dev :=
  match d.job id with
  | none => d
  | some j =>
    let first := match d.group j.group with | some g => d.rankIn g == 0 | none => true
    let n (k : Nat × Nat) : Nat := match j.buckets[k.1]? with | some b => b.shardLen k.2 | none => 0
    if first then d else d.modJob id fun j => { j with waits := j.waits ++ keys.map fun k => (k, n k, d.after (d.stepLimit id)) }

/-- R377: values of a shard's chain sum have come. -/
def GradJob.came (key : Nat × Nat) (n : Nat) (j : GradJob) : GradJob :=
  { j with waits := (j.waits.map fun w => if w.1 == key then (w.1, w.2.1 - n, w.2.2) else w).filter fun w => decide (0 < w.2.1) }

/-- R375: chain segments that came before this member's bucket was ready. -/
def Dev.chainHeld (id b : Nat) (d : Dev) : Dev :=
  match d.job id with
  | none => d
  | some j =>
    match d.group j.group with
    | none => d
    | some g =>
      let mine := j.held.filter fun h => h.1.1 == b
      if d.rankIn g = 0 then d
      else
        let d1 := d.modJob id fun j => { j with held := j.held.filter fun h => h.1.1 != b }
        d1.each mine fun h d =>
          match d.job id with
          | none => d
          | some j => (d.modJob id (GradJob.came h.1 h.2.2.length)).chainOut j g b h.1.2 h.2.1 (h.2.2.zipWith fadd ((d.ownValues j b h.1.2).drop h.2.1))

/-- R370, R380: a bucket becomes ready. A local step adds it into ACC. -/
def Dev.bucketReady (id b : Nat) (d : Dev) : Dev :=
  match d.job id with
  | none => d
  | some j =>
    match j.buckets[b]? with
    | none => d
    | some bk =>
      let struck := match d.mem.firstPoison bk.src bk.count with
        | some w => some w
        | none => d.mem.firstPoison bk.srcScale (bk.count / 32)
      match struck with
      | some w => (d.ueAt w true).abortStep id j.step 5 stUncorrectable
      | none =>
        let d1 := d.modJob id fun j => { j with ready := j.ready ++ [b] }
        if j.isLocal then
          let d2 := d1.each (List.range bk.shards) fun k d =>
            let base := j.index b k
            d.each (indexed (decodeShard (gradFmt bk) (bk.shardLen k) (d.shardSource bk k))) fun v d =>
              let a := j.acc + 4 * (base + v.1)
              d.write a (leBytes 4 (fadd (BitVec.ofNat 32 (d.mem.readNat a 4)) v.2).toNat)
          d2.stepSettle id
        else
          let keys := (List.range bk.shards).map fun k => (b, k)
          let d2 := (d1.modJob id fun j => { j with todo := j.todo ++ keys }).chainWait id (keys.filter fun k => j.ordered || j.endpoints.contains k)
          ((d2.chainHeld id b).pumpJob id).stepSettle id

/-- R369: the next admitted launch begins the job's next step, with the buckets it has already made ready. -/
def Dev.stepNext (id : Nat) (d : Dev) : Dev :=
  match d.job id with
  | none => d
  | some j =>
    match j.queued with
    | [] => d
    | l :: rest =>
      if j.active || j.closing.isSome then d
      else
        let d1 := (d.modJob id fun j => { j with queued := rest }).stepBegin id (some l)
        let stale := match d1.group j.group with | some g => g.stale | none => true
        if stale then d1.stepEnd id stGroupChanged
        else
          match d1.launchOf l with
          | some x => d1.each x.buckets (Dev.bucketReady id)
          | none => d1

/-- Begin the steps that can begin; fuel bounds steps that end at once. -/
def Dev.stepsGo (id : Nat) : Nat → Dev → Dev
  | 0, d => d
  | n + 1, d => Dev.stepsGo id n (d.stepNext id)
def Dev.jobGo (id : Nat) (d : Dev) : Dev :=
  match d.job id with | some j => d.stepsGo id j.queued.length | none => d

/-- R369: an admitted launch of a job's program carries a step. -/
def Dev.gradAdmit (launch handle : Nat) (d : Dev) : Dev :=
  match d.coll.jobs.find? fun j => j.trigger == 0 && j.program == handle && j.closing.isNone with
  | none => d
  | some j =>
    ((d.modLaunch launch fun l => { l with job := some j.id }).modJob j.id fun j => { j with queued := j.queued ++ [launch] }).jobGo j.id

/-- R369: kernel k of a launch has finished its last execution. -/
def Dev.gradKernel (launch k : Nat) (d : Dev) : Dev :=
  match d.launchOf launch with
  | none => d
  | some l =>
    match l.job with
    | none => d
    | some id =>
      match d.job id with
      | none => d
      | some j =>
        let bs := (List.range j.buckets.length).filter fun b => match j.buckets[b]? with | some x => x.kernel == k | none => false
        if j.launch = some launch then (d.each bs (Dev.bucketReady id)).jobGo id
        else if j.queued.contains launch then d.modLaunch launch fun l => { l with buckets := l.buckets ++ bs }
        else d

/-- R377: a launch that is cancelled aborts its step with REASON 5, or leaves the queue of those that wait for one. -/
def Dev.gradCancelLaunch (launch : Nat) (d : Dev) : Dev :=
  match (d.launchOf launch).bind (·.job) with
  | none => d
  | some id =>
    match d.job id with
    | none => d
    | some j =>
      if j.launch = some launch then (d.abortStep id j.step 5 stStepRepeat).jobGo id
      else d.modJob id fun j => { j with queued := j.queued.filter (· != launch) }

/-- GRAD_CONTRIBUTE (R364, R369); a step does not begin while its kiln's split is pending (R229). -/
def Dev.gradContribute (c : Cmd) (ds : CollDesc) (d : Dev) : Dev :=
  match d.collCheck ds with
  | some st => d.refuse c.id st
  | none =>
    match d.job ds.job with
    | none => d.refuse c.id stGradJobInvalid
    | some j =>
      if j.trigger ≠ 1 || j.group ≠ ds.group || (j.closing.isSome && !j.active) then d.refuse c.id stGradJobInvalid
      else if j.buckets.length ≤ ds.bucket || (j.active && j.ready.contains ds.bucket) then d.refuse c.id stCollParam
      else if !j.active && d.stagePending j.stage then d
      else
        let d1 := if j.active then d else d.stepBegin j.id none
        let d2 := (d1.setPhase c.id .running).modJob j.id fun j => { j with cmds := j.cmds ++ [c.id] }
        d2.bucketReady j.id ds.bucket

def execGradContribute (tag : Tag) (s : State) : Out := .next (s.onDev (Dev.onCmd tag 0x50 (Dev.collStart opGrad Dev.gradContribute)))

/-- GRAD_JOB_CLOSE (R381). -/
def Dev.gradClose (c : Cmd) (d : Dev) : Dev :=
  let id := opnd c.pkt.o0 15 0
  match d.job id with
  | none => d.refuse c.id stGradJobInvalid
  | some j =>
    if j.closing.isSome then d.refuse c.id stGradJobInvalid
    else ((d.setPhase c.id .running).modJob id fun j => { j with closing := some c.id }).jobSettle id

def execGradJobClose (tag : Tag) (s : State) : Out := .next (s.onDev (Dev.onCmd tag 0x52 Dev.gradClose))

/-- R413: a CANCEL of a GRAD_CONTRIBUTE: ABORT with REASON 5; the step ends for its other commands with ST_STEP_REPEAT. -/
def Dev.gradCancelCmd (id : Nat) (d : Dev) : Dev :=
  match d.coll.jobs.find? fun j => j.cmds.contains id with
  | none => d
  | some j => (d.endWith id stCancelled 0 0 0).abortStep j.id j.step 5 stStepRepeat

-- Messages of a job

/-- Take a message of a kind that belongs to a job: held until the job is open here (log 22), discarded where its step is over
or aborted (R378). -/
def Dev.takeJobMsg (i kind : Nat) (f : CMsg → Group → GradJob → Dev → Dev) (d : Dev) : Dev :=
  match d.fabric.inbox[i]? with
  | none => d
  | some x =>
    let m := parseMsg x.payload
    if m.kind ≠ kind then d
    else
      match d.job m.job with
      | none => { d with fabric := { d.fabric with inbox := d.fabric.inbox.set i { x with heldTo := some (x.heldTo.getD (d.after 20000)) } } }
      | some j => d.takeMsg i kind fun m g d => if m.seq < j.step || (m.seq = j.step && j.aborted) then d else f m g j d

def Dev.modRed (l : Fin 4) (f : RedUnit → RedUnit) (d : Dev) : Dev :=
  { d with coll := { d.coll with red := vmod d.coll.red l f } }

/-- Slots a lantern has claimed. -/
def CollPart.claimed (c : CollPart) (l : Fin 4) : Nat := (c.slots.filter fun s => s.lantern == l).length

/-- R374, R377, R378: a lantern aborts a slot. -/
def Dev.slotAbort (s : RedSlot) (reason : Nat) (d : Dev) : Dev :=
  let d1 : Dev := { d with coll := { d.coll with slots := d.coll.slots.filter fun x => x.key != s.key } }
  ((d1.modRed s.lantern fun r => { r with abortSeen := true }).count (lanternDie s.lantern) 0x0A reason 1).abortStep s.key.job s.key.step
    reason stStepRepeat

/-- R374: an abort for residue; the third within an hour takes the lantern's reduction out of service. -/
def Dev.residueAbort (s : RedSlot) (d : Dev) : Dev :=
  let r := d.coll.red.get s.lantern
  let times := (r.aborts.filter fun t => decide (d.nowUs < t + 3600000000)) ++ [d.nowUs]
  let d1 := (d.modRed s.lantern fun r => { r with aborts := times }).slotAbort s 3
  if 3 ≤ times.length && r.ok then (d1.modRed s.lantern fun r => { r with ok := false }).unitOut (lanternDie s.lantern) 0 374 else d1

/-- R372: the shard is reduced at the end points. -/
def Dev.endpointMark (l : Fin 4) (key : RedKey) (j : GradJob) (g : Group) (d : Dev) : Dev :=
  let d1 : Dev := { d with coll := { d.coll with marks := d.coll.marks ++ [(l.val, key)] } }
  let d2 := (d1.modRed l fun r => { r with fullSeen := true }).count (lanternDie l) 0x09 0 1
  d2.each (List.range g.size) fun q d =>
    d.sendRank g q { j.msg g (d.rankIn g) mEndpoint key.bucket key.shard 0 with seq := key.step } (.job j.id)

/-- R371, R373: put a slot back after a change, or in for the first time. -/
def Dev.putSlot (s : RedSlot) (d : Dev) : Dev :=
  { d with coll := { d.coll with slots := d.coll.slots.filter (fun x => x.key != s.key) ++ [s] } }

/-- A contribution's bytes in order. -/
def RedPart.bytes (p : RedPart) : List Byte := (sortBy (fun a b => decide (a.1 ≤ b.1)) p.pieces).flatMap (·.2)

/-- R373, R374, R376: a sender's contribution is complete. -/
def Dev.contribDone (s : RedSlot) (p : RedPart) (j : GradJob) (g : Group) (bk : GradBucket) (fails : Nat) (d : Dev) : Dev :=
  let n := bk.shardLen s.key.shard
  let xs := decodeShard (gradFmt bk) n p.bytes
  if tallyOf xs ≠ (p.tally, p.nonFinite) then d.slotAbort s 2
  else
    let d1 := if fails = 0 then d
      else (d.modRed s.lantern fun r => { r with residueSeen := true }).count (lanternDie s.lantern) 0x0B 0 fails
    if 2 ≤ fails then d1.residueAbort s
    else
      let s' : RedSlot := { s with sums := s.sums.zipWith fadd xs,
                                   parts := s.parts.map fun q => if q.rank == p.rank then { q with added := true } else q }
      if s'.parts.countP (·.added) < g.size then d1.putSlot s'
      else
        let d2 : Dev := { d1 with coll := { d1.coll with slots := d1.coll.slots.filter fun x => x.key != s.key } }
        d2.sendResult j g s.key.step s.key.bucket s.key.shard s'.sums

/-- CONTRIB_MESSAGE (R371 to R374, R376). residueFails counts failures of the additions' residue checks: a second, in the
repeat, aborts. -/
def Dev.takeContrib (residueFails : Nat) (m : CMsg) (g : Group) (j : GradJob) (d : Dev) : Dev :=
  match j.buckets[m.bucket]? with
  | none => d
  | some bk =>
    let l : Fin 4 := Fin.ofNat 4 (m.shard / g.size)
    let key : RedKey := { job := m.job, step := m.seq, bucket := m.bucket, shard := m.shard }
    let n := bk.shardLen m.shard
    if bk.shards ≤ m.shard || (m.bucket + m.shard) % g.size ≠ d.rankIn g then d
    else if d.coll.marks.any fun x => x.2 == key then d
    else
      let claim := (d.coll.slots.find? fun s => s.key == key).isNone
      if claim && (512 ≤ d.coll.claimed l || !(d.coll.red.get l).ok) then d.endpointMark l key j g
      else
        let s := (d.coll.slots.find? fun s => s.key == key).getD
          { lantern := l, key := key, sums := List.replicate n 0#32, due := d.after (d.stepLimit key.job) }
        let old := s.parts.find? fun p => p.rank == m.rank
        let p0 : RedPart := old.getD { rank := m.rank, pieces := [], tally := m.tally, nonFinite := m.nonFinite }
        let p : RedPart := if p0.pieces.any (fun q => q.1 == m.offset) then p0 else { p0 with pieces := p0.pieces ++ [(m.offset, m.data)] }
        let s1 : RedSlot := { s with parts := s.parts.filter (fun q => q.rank != m.rank) ++ [p] }
        let d1 := d.putSlot s1
        let d2 := if claim then
            (d1.modRed l fun r => { r with peak := max r.peak (d1.coll.claimed l) }).count (lanternDie l) 0x08 0 1
          else d1
        if !p.added && p.bytes.length = n + n / 32 then d2.contribDone s1 p j g bk residueFails else d2

def execContribMessage (i : Nat) (residueFails : Nat) (s : State) : Out :=
  .next (s.onDev (Dev.takeJobMsg i mContrib (Dev.takeContrib residueFails)))

/-- RESULT_MESSAGE (R373, R379): the bytes go to DST and DST_SCALE; a shard with all its bytes is no longer in flight. -/
def Dev.takeResult (m : CMsg) (_ : Group) (j : GradJob) (d : Dev) : Dev :=
  match j.buckets[m.bucket]? with
  | none => d
  | some bk =>
    let es := resultElem j.resultFmt
    let n := bk.shardLen m.shard
    let total := resultBytes j.resultFmt n
    if m.seq ≠ j.step || !j.active || bk.shards ≤ m.shard || total < m.offset + m.data.length then d
    else
      let body := n * es
      let inBody := m.data.take (body - m.offset)
      let inScale := m.data.drop (body - m.offset)
      let d1 := d.write (bk.dst + m.shard * shardValues * es + m.offset) inBody
      let d2 := if inScale.isEmpty then d1
        else d1.write (bk.dstScale + m.shard * (shardValues / 32) + (max body m.offset - body)) inScale
      let bad :=
        if j.resultFmt = 2 then inScale.any fun b => b == 0xFF#8
        else (elems es inBody).any fun x => match (if j.resultFmt = 0 then bf16 else fp32).decode x with | .fin .. => false | _ => true
      let key := (m.bucket, m.shard)
      let got := (match j.gotBytes.find? fun e => e.1 == key with | some e => e.2 | none => 0) + m.data.length
      let whole := total ≤ got
      let d3 := d2.modJob j.id fun j =>
        { j with nonFinite := j.nonFinite || bad,
                 gotBytes := (key, got) :: j.gotBytes.filter (fun e => e.1 != key),
                 done := if whole then j.done ++ [key] else j.done,
                 inFlight := if whole then j.inFlight.filter (· != key) else j.inFlight }
      if whole then ((d3.pumpJob j.id).stepSettle j.id).jobGo j.id else d3

def execResultMessage (i : Nat) (s : State) : Out := .next (s.onDev (Dev.takeJobMsg i mResult Dev.takeResult))

/-- ENDPOINT_MESSAGE (R370, R372): the shard is no longer in flight and goes by the chain. -/
def Dev.takeEndpoint (m : CMsg) (g : Group) (j : GradJob) (d : Dev) : Dev :=
  let key := (m.bucket, m.shard)
  if m.seq ≠ j.step || j.endpoints.contains key then d
  else
    let sent := j.ready.contains m.bucket && !j.todo.contains key
    let d1 := (d.modJob j.id fun j =>
      { j with endpoints := j.endpoints ++ [key], endpointCount := j.endpointCount + 1,
               inFlight := j.inFlight.filter (· != key) }).collSeen 3
    let d2 := if j.ready.contains m.bucket then d1.chainWait j.id [key] else d1
    let d3 := if sent then d2.chainBegin j g m.bucket m.shard else d2
    d3.pumpJob j.id

def execEndpointMessage (i : Nat) (s : State) : Out := .next (s.onDev (Dev.takeJobMsg i mEndpoint Dev.takeEndpoint))

/-- R375: a running sum of a job's shard arrives; it waits for this member's own bucket. -/
def Dev.takeJobSum (m : CMsg) (g : Group) (j : GradJob) (d : Dev) : Dev :=
  if m.seq ≠ j.step || m.rank + 1 ≠ d.rankIn g then d
  else
    let xs := (elems 4 m.data).map fun x => BitVec.ofNat 32 x
    let first := m.offset / 4
    if j.active && j.ready.contains m.bucket then
      (d.modJob j.id (GradJob.came (m.bucket, m.shard) xs.length)).chainOut j g m.bucket m.shard first (xs.zipWith fadd ((d.ownValues j m.bucket m.shard).drop first))
    else d.modJob j.id fun j => { j with held := j.held ++ [((m.bucket, m.shard), first, xs)] }

/-- CHAIN_MESSAGE (R363, R375): of an operation, or of a gradient job. -/
def Dev.takeChain (i : Nat) (d : Dev) : Dev :=
  match d.fabric.inbox[i]? with
  | none => d
  | some x => if (parseMsg x.payload).op = opGrad then d.takeJobMsg i mChain Dev.takeJobSum else d.takeMsg i mChain Dev.takeSum

def execChainMessage (i : Nat) (s : State) : Out := .next (s.onDev (Dev.takeChain i))

/-- COLL_ABORT_MESSAGE (R360, R378). -/
def Dev.takeAbort (i : Nat) (d : Dev) : Dev :=
  match d.fabric.inbox[i]? with
  | none => d
  | some x =>
    if (parseMsg x.payload).op = opGrad then
      d.takeJobMsg i mAbort fun m _ j d => (d.stepAbort j.id m.seq m.reason stStepRepeat).jobGo j.id
    else
      d.takeMsg i mAbort fun m _ d =>
        match d.opOf m with
        | none => d
        | some o => (d.collSeen 4).endColl o.id stCollMismatch

def execCollAbortMessage (i : Nat) (s : State) : Out := .next (s.onDev (Dev.takeAbort i))

/-- STEP_TIMEOUT (R377): a slot, or the wait for a chain segment of an ordered or ENDPOINT shard. -/
def Dev.stepTimeout (job bucket shard : Nat) (d : Dev) : Dev :=
  match d.coll.slots.find? fun s => s.key.job == job && s.key.bucket == bucket && s.key.shard == shard with
  | some s => if d.due s.due then (d.slotAbort s 1).jobGo job else d
  | none =>
    match d.job job with
    | none => d
    | some j =>
      if j.active && j.waits.any fun w => w.1 == (bucket, shard) && d.due w.2.2 then
        (d.abortStep job j.step 1 stStepRepeat).jobGo job
      else d

def execStepTimeout (job bucket shard : Nat) (s : State) : Out := .next (s.onDev (Dev.stepTimeout job bucket shard))

-- Membership events (R350, R355, R379)

/-- R99: launches with a chain of a group that a membership change touches. -/
def Dev.chainsChanged (handle : Nat) (d : Dev) : Dev :=
  { d with launches := d.launches.map fun l =>
      let named := match d.progs.programs.find? fun p => p.handle == l.handle with
        | some p => p.image.chains.any fun c => c.scope == 1 && c.group == handle
        | none => false
      if named && l.phase != .waiting then l.stop stGroupChanged else l }

/-- R350: an event that names a member of a group: its epoch advances, or it becomes stale; its binds, operations, chains and the
steps in flight of its jobs end with ST_GROUP_CHANGED. -/
def Dev.groupEvent (node : NodeId) (d : Dev) : Dev :=
  let d1 := d.each (d.coll.binds.filter fun b => b.members.contains node) fun b d => d.bindFail b stGroupChanged
  d1.each (d1.coll.groups.filter fun g => g.members.contains node) fun g d =>
    let d2 := d.modGroup g.handle fun g => if g.events < 0xFFFF then { g with events := g.events + 1 } else { g with stale := true }
    let d3 := (d2.each (d2.coll.ops.filter fun o => o.d.group == g.handle) fun o d => d.endColl o.id stGroupChanged).chainsChanged g.handle
    d3.each (d3.coll.jobs.filter fun j => j.group == g.handle) fun j d =>
      let d4 : Dev := { d with coll := { d.coll with slots := d.coll.slots.filter fun s => s.key.job != j.id } }
      if j.active then (((d4.dropMsgs (.job j.id)).stepEnd j.id stGroupChanged).jobSettle j.id).jobGo j.id else d4

end Sys2Proof.Machine
end

