-- ==== Sys2Proof/Machine/CandleBase.lean ====
section
/-! DEFINITION. Candle streams: when actions fire, what a group instance keeps, the reports, and the end of a stream (R431 to
R443). -/
namespace Sys2Proof.Machine

def Dev.stream (d : Dev) (k : Fin 32) : Stream := d.candle.streams.get k
def Dev.setStream (k : Fin 32) (x : Stream) (d : Dev) : Dev := { d with candle := { d.candle with streams := d.candle.streams.set k x } }
def Dev.modStream (k : Fin 32) (f : Stream → Stream) (d : Dev) : Dev := d.setStream k (f (d.stream k))
/-- A stream's number from arithmetic. -/
def streamIx (n : Nat) : Fin 32 := Fin.ofNat 32 n

/-- The actions of R432. -/
def actLaunch : Nat := 0x12
def actDecode : Nat := 0x61
def actEncode : Nat := 0x62
def actCutoff : Nat := 0x7E
def actDeliver : Nat := 0x7F

/-- R435: the frame at which an action of cycle n is due. -/
def Stream.frameOf (st : Stream) (t : CandleTable) (n : Nat) (e : CandleEntry) : Nat := (st.f0 + n * t.cycleFrames + e.frameOffset) % 2 ^ 32
/-- The candle phase at which it fires. -/
def Stream.fireAt (st : Stream) (t : CandleTable) (n : Nat) (e : CandleEntry) : Nat := st.frameOf t n e * 65536 + e.phase

-- Clocks (R451, R461). A clock is a number of 100 MHz steps.

/-- The clock a kiln runs at: the lower of the cap's and the temperature's (R461). -/
def Dev.kilnClock (d : Dev) (k : Fin 12) : Nat := min (d.power.cap.get k) (d.power.heat.get (kilnDie k))
/-- The clock of a die, numbered as R15. -/
def Dev.dieClock (d : Dev) (x : DieIx) : Nat :=
  if h : x.val < 12 then d.kilnClock ⟨x.val, h⟩ else d.power.heat.get x
/-- The lowest clock among the dies a launch uses, kilns 0 to 11 and wheels 12 and 13 (R452, R461). -/
def Dev.workClock (d : Dev) (dies : List Nat) : Nat :=
  minNat 33 (dies.map fun i => d.dieClock (dieIx (if i < 12 then i else i + 4)))
/-- Slices of a second that every time below is a whole number of: slicesPerAc clk to an ac at a clock, for clocks of 10 to 33. -/
def slicesPerTick : Nat := 144403552893600
def slicesPerSecond : Nat := 100000000 * slicesPerTick
def slicesOf (clk ac : Nat) : Nat := ac * (slicesPerTick / clk)
def Dev.nowSlices (d : Dev) : Nat := d.nowUs * 100 * slicesPerTick

-- Group instances (R441 to R444)

def Stream.inst (st : Stream) (cycle group : Nat) : GroupInst :=
  match st.insts.find? fun g => g.cycle == cycle && g.group == group with
  | some g => g
  | none => { cycle := cycle, group := group }
def Stream.putInst (st : Stream) (g : GroupInst) : Stream :=
  { st with insts := st.insts.filter (fun x => !(x.cycle == g.cycle && x.group == g.group)) ++ [g] }

/-- The group's highest pass. -/
def CandleTable.highest (t : CandleTable) (group : Nat) : Nat :=
  maxNat ((t.entries.filter fun e => e.group == group && e.action == actLaunch).map (·.pass))
/-- The passes of a group, ascending. -/
def CandleTable.passes (t : CandleTable) (group : Nat) : List Nat :=
  sortBy (fun a b => decide (a ≤ b)) ((t.entries.filter fun e => e.group == group && e.action == actLaunch && e.pass != 0).map (·.pass))
/-- R442: the highest pass such that every pass up to it has completed. -/
def CandleTable.deliveredOf (t : CandleTable) (g : GroupInst) : Nat :=
  ((t.passes g.group).takeWhile fun p => g.completed.contains p).getLastD 0

-- Reports (R439)

/-- One report, waiting to be posted. -/
def Dev.report (k : Fin 32) (a : CandleAct) (status : Half) (passes flags widened valA : Nat) (d : Dev) : Dev :=
  match (d.stream k).table with
  | none => d
  | some t =>
    match t.entries[a.entry]? with
    | none => d
    | some e =>
      let bs := leBytes 2 status.toNat ++ leBytes 2 0 ++ leBytes 1 e.action ++ leBytes 1 (0x80 + k.val) ++ leBytes 2 a.entry ++
        leBytes 4 a.due ++ leBytes 1 passes ++ leBytes 1 (a.flags ||| flags) ++ leBytes 6 d.phaseNow ++ leBytes 4 widened ++ leBytes 8 valA
      { d with candle := { d.candle with reports := d.candle.reports ++ [(t.reportCq, bs)] } }

/-- An action has reported and is over. -/
def Dev.actEnd (k : Fin 32) (a : CandleAct) (status : Half) (passes flags widened valA : Nat) (d : Dev) : Dev :=
  (d.report k a status passes flags widened valA).modStream k fun st =>
    { st with acts := st.acts.filter fun x => !(x.entry == a.entry && x.cycle == a.cycle) }

/-- The action fired for an entry in a cycle. -/
def Stream.act (st : Stream) (cycle entry : Nat) : CandleAct :=
  match st.acts.find? fun a => a.entry == entry && a.cycle == cycle with
  | some a => a
  | none => { entry := entry, cycle := cycle, due := 0, flags := 0 }

/-- A group is repeated (R443). -/
def Dev.markRepeated (k : Fin 32) (g : GroupInst) (d : Dev) : Dev :=
  let d1 := d.modStream k fun st => st.putInst { g with repeated := true, deliverDone := true }
  ({ d1 with candle := { d1.candle with seen := d1.candle.seen ||| 4#6, lastLate := BitVec.ofNat 5 k.val } } : Dev).count hubDie 0x08 k.val
    (b2n !g.late)

/-- Launches of a stream's group that carry passes above one. -/
def Dev.laterPasses (k : Fin 32) (cycle group pass : Nat) (d : Dev) : List Nat :=
  match (d.stream k).table with
  | none => []
  | some t =>
    (d.stream k).acts.filterMap fun a =>
      match t.entries[a.entry]?, a.launch with
      | some e, some l => if e.action = actLaunch && e.group = group && e.pass > pass && a.cycle - e.lag = cycle then some l else none
      | _, _ => none

/-- R441: the later passes of a stopped group are cancelled, and report SKIPPED. -/
def Dev.skipLaunch (k : Fin 32) (l : Nat) (d : Dev) : Dev :=
  (d.modLaunch l fun x => { x with phase := if x.phase == .ended then .ended else .ending stCancelled }).modStream k fun st =>
    { st with acts := st.acts.map fun a => if a.launch == some l then { a with flags := a.flags ||| 32 } else a }

/-- What the reports of CUTOFF, DELIVER and MEDIA_ENCODE say of their group: LATE, WIDENED, ESCALATED (DEDUCED from R445 and the
worked stream, log 35). -/
def GroupInst.flags (g : GroupInst) : Nat := b2n g.late + 4 * b2n g.widened + 8 * b2n g.escalated

/-- R438, R441, R443: a launch of a stream has ended, or was refused, with a status. -/
def Dev.candleEnd (k : Fin 32) (cycle entry : Nat) (st : Half) (widened escalated nanRows : Nat) (d : Dev) : Dev :=
  let s := d.stream k
  match s.table with
  | none => d
  | some t =>
    match t.entries[entry]? with
    | none => d
    | some e =>
      let a := s.act cycle entry
      let g := s.inst (cycle - e.lag) e.group
      let good := st == stOk || st == stWidened
      let fl := (if 0 < widened then 4 else 0) + (if 0 < escalated then 8 else 0)
      let valA := min 0xFFFF escalated + at_ 16 (min 0xFFFF nanRows)
      if e.action = actDeliver then
        if good then
          (d.modStream k fun s => s.putInst { g with deliverDone := true }).actEnd k a st (g.delivered.getD 0) (fl ||| g.flags) widened valA
        else (d.markRepeated k g).actEnd k a st (g.delivered.getD 0) ((fl ||| g.flags) + 32) widened valA
      else if e.pass = 0 then d.actEnd k a st 0 fl widened valA
      else
        let late := g.delivered.isSome
        let g1 : GroupInst := { g with open_ := g.open_.filter (· != e.pass),
                                       completed := if good && !late then g.completed ++ [e.pass] else g.completed,
                                       stopped := g.stopped || !good, widened := g.widened || decide (0 < widened),
                                       escalated := g.escalated || decide (0 < escalated) }
        let d1 := (d.modStream k fun s => s.putInst g1).actEnd k a st e.pass (fl + (if late && good then 1 else 0)) widened valA
        if good then d1 else d1.each (d1.laterPasses k g.cycle e.group e.pass) (Dev.skipLaunch k)

-- Planned times (R219, R436)

/-- The logical tiles of a kiln that are UNBOUND. -/
def Dev.unbound (d : Dev) (i : Nat) : List Nat :=
  match d.kilns[i]? with
  | some k => (List.range 16).filter fun t => match k.tiles[t]? with | some x => x.unbound | none => false
  | none => []

/-- How a kiln is bound. -/
def Dev.binding (d : Dev) (i : Nat) : KilnBind :=
  { unbound := d.unbound i, formed := match d.kilns[i]? with | some k => k.pipesFormed | none => 0 }

def Dev.globalsFor (d : Dev) (im : Image) (k : Kernel) : List Nat :=
  match im.pattern k with | some p => globalsOf d.mem p | none => []

/-- An entry at a kernel's planned extents, with every head. -/
def Image.plannedEntry (im : Image) (k : Kernel) : Entry :=
  let hs := (indexed im.bufs).filterMap fun b => if im.headIndexed b.1 then some (b.2.ext 3) else none
  { bases := [], m := k.mMax, n := k.nMax, k := k.kMax, qpos := 0, w0 := 0, w1 := 0, ctx := 0, reads := false, writes := false,
    headFirst := 0, headCount := if hs.isEmpty then 1 else minNat 1 hs }

/-- R436: the WCET at the planned extents. -/
def Dev.planWcet (d : Dev) (im : Image) (how : Nat) : Nat :=
  let n := minNat 1 (im.kernels.map (·.entryMax))
  let ks := im.kernels.map fun k =>
    let t := im.kernelTerm how d.binding (List.replicate n (im.plannedEntry k)) (d.globalsFor im k) k
    (t.1 + im.chainWorst k + 1320, t.2)
  8250 + sumNat (ks.map (·.1)) + maxNat (ks.map (·.2))

/-- The dies an image uses: kilns 0 to 11, wheels 12 and 13. -/
def Image.dies (im : Image) : List Nat :=
  (List.range 14).filter fun i => im.kernels.any fun k =>
    if k.kind = 3 then (match im.pixel k with | some p => decide (12 ≤ i) && bit p.wheels (i - 12) | none => false) else bit k.kilnMask i

/-- How a candle action's WCET counts rungs: REFERENCE, BUDGET_MARKED, or every rung. -/
def howOf (mode : Nat) (marked : Bool) : Nat := if mode % 4 = 2 then 1 else if marked then 2 else 0

/-- How often a stream's entry fires before a phase, from where the stream stands (R429). -/
def Stream.firesBefore (st : Stream) (t : CandleTable) (ix : Nat) (e : CandleEntry) (deadline : Nat) : Nat :=
  let n0 := max (if st.entry ≤ ix then st.cycle else st.cycle + 1) e.lag
  let first := st.fireAt t n0 e
  let ahead := (deadline + 2 ^ 48 - first) % 2 ^ 48
  let n := if ahead = 0 || 2 ^ 47 ≤ ahead then 0 else (ahead - 1) / (t.cycleFrames * 65536) + 1
  match st.last with
  | some m => min n (m + e.lag + 1 - n0)
  | none => n

/-- R429's I: every cyclic launch of an armed stream on a shared die that fires before DEADLINE. -/
def Dev.cyclicTerm (d : Dev) (dies : List Nat) (deadline : Nat) : Nat :=
  sumNat (d.candle.streams.toList.map fun st =>
    match st.table with
    | some t =>
      if st.state == 2#2 || st.state == 3#2 then
        sumNat ((indexed t.entries).map fun e =>
          if e.2.action = actLaunch || e.2.action = actDeliver then
            match d.program e.2.target with
            | some p =>
              if p.image.dies.any dies.contains then
                st.firesBefore t e.1 e.2 deadline * (54848 + d.planWcet p.image (howOf e.2.mode t.budgetMarked))
              else 0
            | none => 0
          else 0)
      else 0
    | none => 0)

end Sys2Proof.Machine
end

