-- ==== Sys2Proof/Machine/Admit.lean ====
section
/-! DEFINITION. Admission of launches, the context arbiter, and the end of a launch (R125, R156, R179 to R181, R188, R191, R212,
R213, R250, R251, R253, R291, R405, R406, R413, R429). -/
namespace Sys2Proof.Machine

-- Buffers under an entry (R212, R554)

def Image.baseOf (im : Image) (i : Nat) (e : Entry) : Nat :=
  match im.buf i with
  | some b => if b.listed then e.bases.getD (im.listedIx i) 0 else b.base
  | none => 0

/-- R554: roles of a buffer, each the extents it gives dimensions 0, 1 and 3. -/
def Image.rolesOf (im : Image) (i : Nat) (e : Entry) : List (Option Nat × Option Nat × Option Nat) :=
  let planned (x : Nat) : Option Nat := (im.buf i).map fun b => b.ext x
  im.kernels.flatMap fun k =>
    match k.kind with
    | 0 => (if k.bufA = i then [(some e.k, some e.m, none)] else []) ++ (if k.bufB = i then [(some e.k, some e.n, none)] else []) ++
           (if k.bufOut = i || k.bufAux = i then [(some e.n, some e.m, none)] else [])
    | 1 => if k.bufA = i || k.bufOut = i then [(planned 0, some e.m, none)] else []
    | 2 => (im.opsOf k).flatMap fun o =>
        let srcs := [o.src0] ++ (if o.usesSrc1 then [o.src1] else []) ++
          (if o.op = 0x04 || o.op = 0x0A || o.op = 0x26 || o.op = 0x28 then [o.aux] else []) ++ (if o.op = 0x24 then [o.maskIx] else [])
        if 0x29 ≤ o.op then []
        else if srcs.contains i || (o.dst = i && o.op != 0x25) then [(some e.n, some e.m, none)] else []
    | _ => (if k.bufA = i then [(planned 0, planned 1, some e.m)] else []) ++
           (if k.bufOut = i then [(planned 0, planned 1, some (im.pixelOut k e.m).1)] else [])

/-- The largest extent that any role gives a dimension, or the planned one. -/
def largest (planned : Nat) (l : List (Option Nat)) : Nat :=
  let xs := l.filterMap id
  if xs.isEmpty then planned else maxNat xs

/-- R554: a buffer's actual extents for an entry. -/
def Image.actual (im : Image) (i : Nat) (e : Entry) : List Nat :=
  match im.buf i with
  | none => []
  | some b =>
    let rs := im.rolesOf i e
    [largest (b.ext 0) (rs.map (·.1)), largest (b.ext 1) (rs.map (·.2.1)), b.ext 2,
     if im.headIndexed i then e.headCount else largest (b.ext 3) (rs.map (·.2.2))]
/-- R214: elements of a buffer's rows that lie below its actual extent. -/
def Image.rowExt (im : Image) (i : Nat) (e : Entry) : Nat := (im.actual i e).headD 0

/-- Streams of a buffer at its actual extents, from the entry's first head. -/
def Image.rangesFor (im : Image) (i : Nat) (e : Entry) : List (Nat × Nat) :=
  match im.buf i with
  | none => []
  | some b =>
    let h := if im.headIndexed i then e.headFirst else 0
    let ex := im.actual i e
    let base := im.baseOf i e
    ([(base + h * b.stride 3, b.elemSpan ex)] ++
     (if b.fmt.isBlock then [(base + b.scaleOff + h * b.auxStride 1 3, b.auxSpan 1 ex)] else []) ++
     (if b.outliers then [(base + b.sideOff + h * b.auxStride 6 3, b.auxSpan 6 ex)] else [])).filter fun r => r.2 != 0

-- Checks (R213 and those after it)

/-- What asks for a launch. -/
structure LaunchReq where
  owner : LaunchOwner
  cls : Nat
  handle : Nat
  mode : Nat
  da : Nat
  seed : Long
  deadline : Nat := 0
  deriving DecidableEq, Repr

/-- The entry a failed check concerns when it concerns none (R406). -/
def noEntry : Nat := 0xFFFFFFFF

/-- R213: a kernel uses an extent. -/
def Image.entryFits (im : Image) (e : Entry) : Bool :=
  (im.kernels.all fun k =>
    (decide (e.m ≤ k.mMax)) &&
    (k.kind == 1 || k.kind == 3 || decide (e.n ≤ k.nMax)) &&
    (k.kind == 3 || (k.kind == 2 && !(im.opsOf k).any fun o => o.op == 0x24) || decide (e.k ≤ k.kMax))) &&
  (indexed im.bufs).all fun b => !im.headIndexed b.1 || decide (e.headFirst + e.headCount ≤ b.2.ext 3)

def Image.listedBufs (im : Image) : List (Nat × Buf) := (indexed im.bufs).filter fun b => b.2.listed && b.2.kind != 4

/-- R213: alignment of the bases that LISTED buffers take. -/
def Image.entryAligned (im : Image) (e : Entry) : Bool :=
  im.listedBufs.all fun b =>
    let base := im.baseOf b.1 e
    base % 64 == 0 && (!b.2.fmt.isBlock || (base + b.2.scaleOff) % 64 == 0) && (!b.2.outliers || (base + b.2.sideOff) % 64 == 0)

/-- R213: LISTED buffers lie within usable memory of their LEVEL. -/
def Dev.entryPlaced (d : Dev) (im : Image) (e : Entry) : Bool :=
  im.listedBufs.all fun b => (im.rangesFor b.1 e).all fun r => d.levelHolds b.2 r.1 r.2

/-- R213: every buffer at LEVEL 2 lies in pinned units. -/
def Dev.entryPinned (d : Dev) (im : Image) (e : Entry) : Bool :=
  (indexed im.bufs).all fun b =>
    b.2.level != 2 || b.2.kind == 4 ||
    (if b.2.listed then im.rangesFor b.1 e else b.2.ranges b.2.base b.2.exts).all fun r =>
      (unitsOf r.1 r.2).all fun u => (d.tier.unit u).pinned

/-- R125: every slot reference names a LOADED slot whose TABLE_ID matches. -/
def Dev.fnRefsOk (d : Dev) (im : Image) : Bool :=
  im.kernels.all fun k =>
    match im.fnRefs[k.fnref]? with
    | none => true
    | some r =>
      if r.slot < 8 then d.fn.builtinReady && decide (r.slot < 6) && r.tableId == builtinTableId d.numerics r.slot
      else
        let x := d.fnSlot (Fin.ofNat 8 r.slot)
        decide (r.slot < 16) && x.state == 2 && (match x.table with | some t => t.tableId == r.tableId | none => false)

/-- R156: a kernel's global list, at one entry. -/
def Dev.globalsOk (d : Dev) (im : Image) (e : Entry) : Bool :=
  im.kernels.all fun k =>
    match im.pattern k with
    | none => true
    | some p =>
      if k.kind ≠ 1 || p.globalCount = 0 then true
      else
        let gs := globalsOf d.mem p
        let n := p.bricks
        d.daOk p.globalList (4 * p.globalCount) && (gs.zip (gs.drop 1)).all (fun q => decide (q.1 < q.2)) &&
        gs.all fun g => !p.isPad g && (p.brick == 0 || decide (g < 128 * (n.1 * n.2.1 * n.2.2))) && decide (g < e.k)

/-- R253: buffers that would be slip-coded, by kernel: KIND 2, LEVEL 0, not LISTED, based at the DST of a segment of the kernel's
layer in the program's open window. -/
def Dev.slipBufs (d : Dev) (handle : Nat) (im : Image) : List (Nat × Nat) :=
  match d.tier.windows.find? fun w => w.program == handle with
  | none => []
  | some w =>
    (indexed im.kernels).flatMap fun k =>
      (im.named k.2).filterMap fun i =>
        match im.buf i with
        | some b =>
          if b.kind = 2 && b.level = 0 && !b.listed && ((w.layers.getD k.2.layer []).any fun s => s.dst == b.base) then some (k.1, i)
          else none
        | none => none

/-- R253, R273: a kernel other than a matrix kernel names a slip-coded buffer, or one writes it (DEDUCED, log 144). -/
def Dev.slipMisuse (d : Dev) (handle : Nat) (im : Image) : Bool :=
  (d.slipBufs handle im).any fun x => im.kernels.any fun k => (k.kind != 0 && (im.named k).contains x.2) || k.bufOut == x.2

/-- R289: slots of sessions that ranges overlap. -/
def Dev.slotsHit (d : Dev) (rs : List (Nat × Nat)) : List (Session × Nat) :=
  d.media.sessions.flatMap fun s =>
    ((List.range s.desc.slots).filter fun k => rs.any fun r => overlaps r.1 r.2 (s.desc.slotDa k) s.desc.planeBytes).map fun k => (s, k)

/-- Ranges of the buffers of some kinds, over all entries. -/
def Image.kindRanges (im : Image) (es : List Entry) (kinds : List Nat) : List (Nat × Nat) :=
  es.flatMap fun e => (indexed im.bufs).flatMap fun b => if kinds.contains b.2.kind && !e.zero then im.rangesFor b.1 e else []

/-- R291: writes to a codec slot or a host slot that carries IN, reads of a slot that carries WRITE. -/
def Dev.mediaBusy (d : Dev) (im : Image) (es : List Entry) : Bool :=
  (d.slotsHit (im.kindRanges es [1, 3])).any (fun h => decide (h.1.desc.hostSlots ≤ h.2) || (h.1.marks.getD h.2 {}).inn) ||
  (d.slotsHit (im.kindRanges es [0, 2])).any fun h => (h.1.marks.getD h.2 {}).write

/-- Does a range touch a stack, directly or through the window. -/
def Dev.touchesStack (d : Dev) (r : Nat × Nat) (s : Fin 24) : Bool :=
  overlaps r.1 r.2 (stackBase s.val) 0x1000000000 ||
  (decide (windowBase ≤ r.1) && (unitsOf r.1 r.2).any fun u => (d.tier.unit u).place == some s.val)

/-- R513: a launch needs a tile sequencer or a stack's controller that has failed. -/
def Dev.crippled (d : Dev) (im : Image) (es : List Entry) : Bool :=
  im.dies.any d.repair.seqFailed.contains ||
  (!d.repair.stacksFailed.isEmpty && (im.kindRanges es [0, 1, 2, 3]).any fun r => d.repair.stacksFailed.any (d.touchesStack r))
/-- How an admitted launch begins: to run, or to end with ST_UNCORRECTABLE. -/
def Dev.firstPhase (d : Dev) (im : Image) (es : List Entry) : LaunchPhase := if d.crippled im es then .ending stUncorrectable else .running

/-- R251: every use of the program's limited window has been released. -/
def Dev.windowSpent (d : Dev) (handle : Nat) : Bool :=
  d.tier.windows.any fun w => w.program == handle && w.passes != 0 && decide (w.passes * w.layers.length ≤ w.released.length)

/-- Engines and vector units that the kernels need (R305, R510). -/
def Dev.unitsOk (d : Dev) (im : Image) : Bool :=
  d.resourcesOk im && im.kernels.all fun k =>
    if k.kind = 3 then
      (match im.pixel k with
       | some p => (List.range 2).all fun w => !bit p.wheels w || (match d.wheels[w]? with | some x => x.engine.ok | none => false)
       | none => true)
    else if k.kind = 2 && decide (2 ^ 12 ≤ k.kilnMask) then d.wheels.toList.any fun w => w.vec.ok
    else true

/-- R174, R188: a context that later operations may name. -/
def Dev.ctxLive (d : Dev) (n : Nat) : Bool := (d.cx.find n).isSome && !d.cx.destroying.contains n

/-- The first entry a check fails on. -/
def failsOn (es : List Entry) (ok : Entry → Bool) (st : Half) : Option (Half × Nat) :=
  ((indexed es).find? fun e => !ok e.2).map fun e => (st, e.1)

/-- Checks in order, each a status with the entry it concerns. -/
def firstBad : List (Option (Half × Nat)) → Option (Half × Nat)
  | [] => none
  | some x :: _ => some x
  | none :: rest => firstBad rest

def orBad (ok : Bool) (st : Half) : Option (Half × Nat) := if ok then none else some (st, noEntry)

/-- R213, R125, R156, R251, R253, R291, R429: what admission checks of a launch whose list has been read. -/
def Dev.launchChecks (r : LaunchReq) (p : Program) (hdrOk : Bool) (recs : List (List Byte)) (es : List Entry) (d : Dev) : Option (Half × Nat) :=
  let im := p.image
  let clsBit := if r.cls = 3 then 0 else if r.cls = 2 then 1 else 2
  firstBad [
    orBad (bit im.classes clsBit) stProgramInvalid,
    orBad hdrOk stListFormat,
    ((indexed recs).find? fun e => (parseEntry e.2).isNone).map fun e => (stListFormat, e.1),
    orBad (decide (es.length ≤ minNat 0 (im.kernels.map (·.entryMax)))) stShapeExceedsPlan,
    failsOn es im.entryFits stShapeExceedsPlan,
    failsOn es im.entryAligned stAlignment,
    failsOn es (d.entryPlaced im) stAddress,
    (if r.cls = 1 then none else failsOn es (d.entryPinned im) stBoundedUnpinned),
    orBad (d.fnRefsOk im) stFnTableMismatch,
    failsOn es (d.globalsOk im) stAttnGlobals,
    failsOn es (fun e => !(e.reads || e.writes) || d.ctxLive e.ctx) stCtxInvalid,
    orBad (!d.slipMisuse r.handle im) stSlipUse,
    orBad (!d.windowSpent r.handle) stWindowExhausted,
    orBad (!d.mediaBusy im es) stMediaSlotBusy,
    orBad (d.unitsOk im) stResourceAbsent]

/-- R429: the predicted finish of a bounded launch, in slices of device time, at the clocks of admission (R452, R461). -/
def Dev.finishOf (d : Dev) (im : Image) (dies : List Nat) (mode deadline : Nat) (es : List Entry) : Nat :=
  let prev := maxNat ((d.launches.filter fun l => l.alive && l.cls == 2 && l.dies.any dies.contains).map (·.finish))
  let w := im.wcet (howOf mode false) d.binding (d.globalsFor im) es
  max d.nowSlices prev + slicesOf (d.workClock dies) (54848 + w + d.cyclicTerm dies deadline)
/-- R429: does the launch finish by its DEADLINE, at the present phase unit. -/
def Dev.meetsDeadline (d : Dev) (finish deadline : Nat) : Bool :=
  !reached d.phaseNow deadline &&
  decide ((finish - d.nowSlices) * (d.time.num * 65536) ≤ (deadline + 2 ^ 48 - d.phaseNow) % 2 ^ 48 * d.time.den * slicesPerSecond)

/-- A pointer list's header and entries (R212), or the status that reading it ends with. -/
def Dev.readList (da : Nat) (d : Dev) : Except Half (Bool × List (List Byte)) :=
  if !d.daOk da 64 then .error stAddress
  else
    let h := d.mem.readBytes da 64
    let n := bytesAt h 3 0
    let ok := bytesAt h 5 4 == 1 && zeroAt h 63 6 && decide (n ≤ 65536)
    if !ok then (if (d.mem.firstPoison da 64).isSome then .error stUncorrectable else .ok (false, []))
    else if !d.daOk da (64 + 64 * n) then .error stAddress
    else if (d.mem.firstPoison da (64 + 64 * n)).isSome then .error stUncorrectable
    else .ok (true, chunks 64 n (d.mem.readBytes (da + 64) (64 * n)))

/-- Admission's verdict: refused with a status and an entry, or the launch (R213). -/
def Dev.judge (r : LaunchReq) (d : Dev) : Except (Half × Nat) Launch :=
  match d.liveProgram r.handle with
  | none => .error (stProgramInvalid, noEntry)
  | some p =>
    match d.readList r.da with
    | .error st => .error (st, noEntry)
    | .ok (hdrOk, recs) =>
      let es := recs.filterMap parseEntry
      match d.launchChecks r p hdrOk recs es with
      | some x => .error x
      | none =>
        let dies := p.image.dies
        let fin := if r.cls = 2 then d.finishOf p.image dies r.mode r.deadline es else 0
        if r.cls = 2 && !d.meetsDeadline fin r.deadline then .error (stDeadline, noEntry)
        else
          .ok { id := d.nextLaunch, owner := r.owner, handle := r.handle, mode := r.mode, seed := r.seed, cls := r.cls, entries := es,
                globals := (indexed p.image.kernels).filterMap fun k =>
                  if k.2.kind = 1 then (p.image.pattern k.2).map fun q => (k.1, globalsOf d.mem q) else none,
                dies := dies, finish := fin, deadline := r.deadline, slips := ((d.slipBufs r.handle p.image).map (·.2)),
                mediaReads := (d.slotsHit (p.image.kindRanges es [0, 2])).map fun h => (h.1.num, h.2),
                mediaWrites := (d.slotsHit (p.image.kindRanges es [1, 3])).map fun h => (h.1.num, h.2) }

-- Replies of launches (R406)

/-- R406: the launch body. -/
def launchBody (widened escalated nan inf conv empty nanRows clamps endpoint index reason : Nat) (isLocal : Bool) : List Byte :=
  let h (n : Nat) := leBytes 2 (min 0xFFFF n)
  let sat := [escalated, nan, inf, conv, empty, nanRows, clamps, endpoint].any fun n => decide (0xFFFF < n)
  leBytes 4 widened ++ h escalated ++ h nan ++ h inf ++ h conv ++ h empty ++ h nanRows ++ h clamps ++ h endpoint ++
  leBytes 1 index ++ leBytes 1 reason ++ leBytes 1 (b2n isLocal + 2 * b2n sat) ++ leBytes 1 0

/-- R406: the body of a refused launch. -/
def refusedBody (entry index : Nat) : List Byte := leBytes 4 entry ++ List.replicate 16 0#8 ++ leBytes 1 index ++ List.replicate 3 0#8

/-- The reply body of launches that ran, summed (R406); slip damage has its own. -/
def bodyOf (ls : List (Launch × Nat)) (index : Nat) (st : Half) : List Byte :=
  let sum (f : Launch → Nat) : Nat := sumNat (ls.map fun l => f l.1)
  let base := launchBody (sum (·.widened)) (sumNat (ls.map (·.2))) (sum (·.nanResults)) (sum (·.infResults)) (sum (·.convEvents))
    (sum (·.emptyRows)) (sum (·.nanRows)) (sum (·.clamps)) (sum (·.endpoint)) index
    (match ls.find? fun l => l.1.reason != 0 with | some l => l.1.reason | none => 0) (ls.any fun l => l.1.isLocal)
  if st = stSlipDamage then
    match ls.find? fun l => l.1.ended == stSlipDamage with
    | some l => leBytes 6 l.1.slipDa ++ leBytes 1 l.1.slipKind ++ leBytes 1 0 ++ base.drop 8
    | none => base
  else base

/-- The schedule of a launch (R204), and its image. -/
def Dev.imageOf (d : Dev) (l : Launch) : Option Image := (d.program l.handle).map (·.image)
def Dev.scheduleOf (d : Dev) (l : Launch) : List Exec :=
  match d.imageOf l with | some im => im.schedule l.globalsOf l.entries | none => []
def Dev.escalatedOf (d : Dev) (l : Launch) : Nat :=
  let xs := d.scheduleOf l
  match d.imageOf l with
  | some im => (distinct ((l.done.filter (·.escalated)).filterMap fun e => (xs[e.ix]?).map im.layerOf)).length
  | none => 0

/-- A bounded launch that ends after its DEADLINE (R430). -/
def Dev.boundEnd (cls deadline : Nat) (st : Half) (d : Dev) : Half × Dev :=
  if cls = 2 && reached d.phaseNow (deadline + 1) then
    (if st = stOk || st = stWidened then stDeadline else st, { d with candle := { d.candle with seen := d.candle.seen ||| 16#6 } })
  else (st, d)

-- Lists of launches (R405)

def Dev.listRun (d : Dev) (cmd : Nat) : Option ListRun := d.progs.lists.find? fun x => x.cmd == cmd
def Dev.modList (cmd : Nat) (f : ListRun → ListRun) (d : Dev) : Dev :=
  { d with progs := { d.progs with lists := updFirst (fun x => x.cmd == cmd) f d.progs.lists } }
/-- Launches of a list, with their record. -/
def Dev.listLaunches (d : Dev) (cmd : Nat) : List (Nat × Launch) :=
  d.launches.filterMap fun l => match l.owner with | .listRec c i => if c = cmd then some (i, l) else none | _ => none

/-- R405: a list's reply is posted once its last admitted launch has completed. The status is the first record's that ended
early or was refused, else ST_NUMERIC_NAN, ST_WIDENED or ST_OK (log 23). -/
def Dev.listSettle (cmd : Nat) (d : Dev) : Dev :=
  match d.listRun cmd with
  | none => d
  | some x =>
    let ls := d.listLaunches cmd
    if (x.refused.isNone && decide (x.next < x.count)) || ls.any (fun l => l.2.alive) then d
    else
      let done := ls.map fun l => (l.1, l.2.ended)
      let all_ := sortBy (fun a b => decide (a.1 ≤ b.1)) (done ++ (match x.refused with | some r => [(r.1, r.2.1)] | none => []))
      let pick (p : Half → Bool) := all_.find? fun e => p e.2
      let worst :=
        match pick fun s => !(s == stOk || s == stWidened || s == stNumericNan) with
        | some e => e
        | none => match pick (· == stNumericNan) with
          | some e => e
          | none => match pick (· == stWidened) with | some e => e | none => (0, stOk)
      let body0 := bodyOf (ls.map fun l => (l.2, d.escalatedOf l.2)) worst.1 worst.2
      let body := match x.refused with | some r => if r.2.1 = stCancelled then body0 else leBytes 4 r.2.2 ++ body0.drop 4 | none => body0
      let d1 : Dev := { d with progs := { d.progs with lists := d.progs.lists.filter fun y => y.cmd != cmd },
                               launches := d.launches.filter fun l => !(ls.any fun m => m.2.id == l.id) }
      match d1.cmd cmd with
      | none => d1
      | some c =>
        let st := d1.boundEnd c.cls c.pkt.deadline.toNat worst.2
        st.2.endCmd cmd st.1 body

-- The end of a launch

/-- What a launch held is free again: contexts, function slots, uses of its window, tiles' buffers and groups, pipelines,
slip streams, programs. -/
def Dev.dropLaunch (id : Nat) (d : Dev) : Dev :=
  let uses := match d.launchOf id with | some l => l.uses.map (fun (x : Nat × Nat) => x.1) | none => []
  let handle := match d.launchOf id with | some l => l.handle | none => 256
  let d1 := d.fnDrop id
  let d2 : Dev := { d1 with
    cx := { d1.cx with arb := d1.cx.arb.filter fun o => !(o.launch && o.owner == id) },
    tier := { d1.tier with windows := d1.tier.windows.map fun w =>
      if w.program = handle then { w with released := w.released ++ uses.filter fun u => !w.released.contains u } else w },
    kilns := d1.kilns.map fun (k : Kiln) => { k with
      tiles := k.tiles.map fun (t : TileSt) => { t with
        ready := t.ready.filter (fun r => r.launch != id), groups := t.groups.filter (fun g => g.launch != id),
        running := match t.running with | some r => if r.launch = id then none else some r | none => none },
      pipes := k.pipes.filter (fun p => p.2.launch != id),
      slip := ({ k.slip with queue := k.slip.queue.filter (fun b => b.launch != id),
                             streams := k.slip.streams.filter fun s => s.launch != id } : SlipPart).settle } }
  d2.settlePrograms

/-- R181: lengths of the contexts a launch wrote. -/
def Dev.ctxEnd (l : Launch) (good : Bool) (d : Dev) : Dev :=
  d.each (l.entries.filter Entry.writer) fun e d =>
    match d.cx.find e.ctx with
    | none => d
    | some c =>
      if good then { d with cx := d.cx.put { c with length := max c.length e.w1 } }
      else
        match d.cx.poolOf c.pool with
        | none => d
        | some p =>
          let hi := min e.w1 c.length
          { d with mem := c.heads.foldl (fun (m : Mem) h =>
              (pagesOf e.w0 hi).foldl (fun (m : Mem) pg =>
                match c.frameAt h.1 h.2 pg with
                | some f => forgetRows m (p.da f) c.streams (e.w0 - 128 * pg) (min 128 (hi - 128 * pg))
                | none => m) m) d.mem }

/-- A launch has ended: its record keeps the status, and its owner is told. -/
def Dev.launchEnded (id : Nat) (st : Half) (d : Dev) : Dev :=
  match d.launchOf id with
  | none => d
  | some l =>
    let esc := d.escalatedOf l
    let d1 := (d.modLaunch id fun x => { x with phase := .ended, ended := st }).dropLaunch id
    match l.owner with
    | .cmd c =>
      let r := d1.boundEnd l.cls l.deadline st
      let d2 := r.2.endCmd c r.1 (bodyOf [({ l with ended := st }, esc)] 0 r.1)
      { d2 with launches := d2.launches.filter fun x => x.id != id }
    | .listRec c _ => d1.listSettle c
    | .candle k n e =>
      let d2 := d1.candleEnd (streamIx k) n e st l.widened esc l.nanRows
      { d2 with launches := d2.launches.filter fun x => x.id != id }

/-- A refused launch: nothing is prepared or written (R213). -/
def Dev.launchRefused (owner : LaunchOwner) (st : Half) (entry : Nat) (d : Dev) : Dev :=
  let d1 := d.noteStatus st
  match owner with
  | .cmd c => d1.endCmd c st (refusedBody entry 0)
  | .listRec c i => (d1.modList c fun x => { x with refused := some (i, st, entry) }).listSettle c
  | .candle k n e => d1.candleEnd (streamIx k) n e st 0 0 0

/-- A launch that the arbiter held is refused when its turn comes. -/
def Dev.launchTurnedAway (l : Launch) (st : Half) (entry : Nat) (d : Dev) : Dev :=
  let d1 := (d.gradCancelLaunch l.id).modLaunch l.id fun x => { x with phase := .ended, ended := st }
  let d2 := d1.dropLaunch l.id
  let d3 : Dev := { d2 with launches := d2.launches.filter fun x => x.id != l.id }
  d3.launchRefused l.owner st entry

-- The context arbiter (R179 to R181, R188, R189, R191)

/-- What the context operations work on, and the device after them. -/
def Dev.ctxEnv (d : Dev) : CtxEnv := { mem := d.mem, cx := d.cx, ctr := d.freeCtr }
def Dev.withEnv (e : CtxEnv) (d : Dev) : Dev := { d with mem := e.mem, cx := e.cx, freeCtr := e.ctr }
/-- R176: a pool's page tables after a change to its contexts. -/
def Dev.putTables (n : Fin 16) (d : Dev) : Dev := { d with mem := d.cx.putTables n d.mem }
/-- R190: does an address lie in stacked DRAM. -/
def Dev.inStackUnit (d : Dev) (a : Nat) : Bool := (d.stackOf a).isSome

/-- R179: what a launch's entries ask of their contexts. -/
def Dev.rangeOk (d : Dev) (im : Image) (e : Entry) : Bool :=
  match d.cx.find e.ctx with
  | none => true
  | some c =>
    let attn := im.kernels.any fun k => k.kind == 1
    !(e.reads || e.writes) ||
    ((!e.writes || (decide (e.w0 ≤ c.length) && decide (e.w1 ≤ 128 * c.capacity))) && (!attn || decide (e.k ≤ c.length)) &&
     decide (e.headFirst + e.headCount ≤ c.groups))

/-- R181: frames that preparation of the entries needs, in each pool. -/
def Dev.poolShort (d : Dev) (l : Launch) : Option (Fin 16) :=
  (List.finRange 16).find? fun n =>
    match d.cx.poolOf n with
    | none => false
    | some p =>
      let need := (l.entries.filter Entry.writer).foldl (fun (x : FrameNeed) e =>
        match d.cx.find e.ctx with
        | some c => if c.pool = n then x.pages p c (preparePages c.length e.w0 e.w1) else x
        | none => x) {}
      decide (p.free < need.frames)

/-- R180, R524: prepare the frames of every entry that writes. -/
def Dev.prepareAll (l : Launch) (d : Dev) : Dev :=
  d.each (l.entries.filter Entry.writer) fun e d =>
    match d.cx.find e.ctx with
    | none => d
    | some c =>
      let pages := preparePages c.length e.w0 e.w1
      let copies := match d.cx.poolOf c.pool with
        | some p => sumNat (c.heads.map fun h => (pages.filter fun pg =>
            match c.frameAt h.1 h.2 pg with | some f => decide (1 < p.count f) | none => false).length)
        | none => 0
      let fresh := sumNat (c.heads.map fun h => (pages.filter fun pg => (c.frameAt h.1 h.2 pg).isNone).length)
      let d1 := (d.withEnv (prepareCtx d.inStackUnit c.num c.length pages d.ctxEnv)).putTables c.pool
      (d1.count hubDie 0x04 c.pool.val copies).count hubDie 0x06 c.pool.val (copies + fresh)

/-- The arbiter takes a launch: R179, R181, R191, then frames are prepared and it runs. -/
def Dev.launchGo (l : Launch) (d : Dev) : Dev :=
  match d.imageOf l with
  | none => d.launchTurnedAway l stProgramInvalid noEntry
  | some im =>
    match failsOn l.entries (d.rangeOk im) stCtxRange with
    | some x => d.launchTurnedAway l x.1 x.2
    | none =>
      match d.poolShort l with
      | some n => ({ d with cx := d.cx.markEmpty n } : Dev).launchTurnedAway l stPoolEmpty noEntry
      | none =>
        let unpinned := failsOn l.entries (fun e => !(e.reads || e.writes) ||
          (match d.cx.find e.ctx with
           | some c => (match d.cx.poolOf c.pool with | some p => p.pinned | none => false)
           | none => true)) stCtxNotPinned
        match (if l.cls = 1 then none else unpinned) with
        | some x => d.launchTurnedAway l x.1 x.2
        | none =>
          let d1 : Dev := { d with cx := { d.cx with arb := d.cx.arb.map fun o =>
            if o.launch && o.owner == l.id then { o with taken := true } else o } }
          (d1.prepareAll l).modLaunch l.id fun x => { x with phase := d.firstPhase im l.entries }

/-- The operations of a context command, in order of arrival, are free to go. -/
def Dev.arbReady (d : Dev) (launch : Bool) (owner : Nat) : Bool :=
  (indexed d.cx.arb).all fun o =>
    !(o.2.launch == launch && o.2.owner == owner) ||
    arbFree ((d.cx.arb.take o.1).filter fun x => !(x.launch == launch && x.owner == owner)) o.2.ctx o.2.write

/-- CTX_FORK at its turn (R183 to R185). -/
def Dev.forkGo (c : Cmd) (d : Dev) : Dev :=
  let parent := opnd c.pkt.o0 13 0
  let f := opnd c.pkt.o1 31 0
  let cap := opnd c.pkt.o2 17 0
  let r := ctxForkCheck d.cx parent f cap
  if r.1 ≠ stOk then
    let d1 : Dev := if r.1 = stTableFull then { d with cx := { d.cx with tableFullSeen := true } }
      else if r.1 = stPoolEmpty then
        (match d.cx.find parent with | some p => { d with cx := d.cx.markEmpty p.pool } | none => d)
      else d
    d1.refuse c.id r.1
  else
    match d.cx.find parent with
    | none => d.refuse c.id stCtxInvalid
    | some p =>
      match d.cx.poolOf p.pool with
      | none => d.refuse c.id stPoolEmpty
      | some pool =>
        let num := newCtxNum d.cx d.freeCtr
        let child : Ctx := { p with num := num, capacity := cap, length := f, table := [], lastUnit := none }
        let e0 : CtxEnv := { d.ctxEnv with cx := d.cx.add child, ctr := d.freeCtr + 1 }
        let e1 := forkMap d.inStackUnit num f (forkPages pool p f) e0
        let d1 := d.withEnv { e1 with cx := { e1.cx with forcedSeen := e1.cx.forcedSeen || decide (0 < r.2) } }
        ((d1.putTables p.pool).count hubDie 0x05 p.pool.val r.2).okCmd c.id num r.2 0

/-- CTX_TRIM at its turn (R186). -/
def Dev.trimGo (c : Cmd) (d : Dev) : Dev :=
  let num := opnd c.pkt.o0 13 0
  let n := opnd c.pkt.o1 31 0
  match d.cx.find num with
  | none => d.refuse c.id stCtxInvalid
  | some x => if x.length < n then d.refuse c.id stCtxRange else ((d.withEnv (trimCtx num n d.ctxEnv)).putTables x.pool).okCmd c.id 0 0 0

/-- CTX_DESTROY of a context at its turn (R187). -/
def Dev.destroyGo (c : Cmd) (d : Dev) : Dev :=
  let num := opnd c.pkt.o1 13 0
  let d1 : Dev := { d with cx := destroyCtx num d.cx }
  (match d.cx.find num with
    | some x => d1.putTables x.pool
    | none => d1).okCmd c.id 0 0 0

/-- The arbiter's next step: a launch or a context command whose turn has come, oldest first. -/
def Dev.arbStep (d : Dev) : Option Dev :=
  match d.cx.arb.find? fun o => !o.taken && d.arbReady o.launch o.owner with
  | none => none
  | some o =>
    if o.launch then
      match d.launchOf o.owner with
      | some l =>
        if l.phase == .waiting then some (d.launchGo l)
        else some { d with cx := { d.cx with arb := d.cx.arb.filter fun x => !(x.launch && x.owner == o.owner) } }
      | none => some { d with cx := { d.cx with arb := d.cx.arb.filter fun x => x != o } }
    else
      let d1 : Dev := { d with cx := { d.cx with arb := d.cx.arb.filter fun x => !(!x.launch && x.owner == o.owner) } }
      match d1.cmd o.owner with
      | none => some d1
      | some c =>
        if c.pkt.opcode = 0x31#8 then some (d1.forkGo c)
        else if c.pkt.opcode = 0x33#8 then some (d1.trimGo c)
        else some (d1.destroyGo c)

-- Admission

/-- The contexts a launch names, each once, with whether it writes it (R188). -/
def Launch.ctxOps (l : Launch) : List ArbOp :=
  let named := distinct ((l.entries.filter fun e => e.reads || e.writes).map (·.ctx))
  named.map fun n => { launch := true, owner := l.id, ctx := n, write := l.entries.any (fun e => e.writes && e.ctx == n), taken := false }

/-- R213, R188: take a launch in, or refuse it. One that waits for no context goes at once. -/
def Dev.admitLaunch (r : LaunchReq) (d : Dev) : Dev :=
  match d.judge r with
  | .error (st, e) =>
    let d1 := if st = stUncorrectable then (match d.mem.firstPoison r.da (64 + 64 * d.mem.readNat r.da 4) with
      | some w => d.ueAt w true | none => d) else d
    d1.launchRefused r.owner st e
  | .ok l =>
    let ops := l.ctxOps
    let first := match d.imageOf l with | some im => d.firstPhase im l.entries | none => .running
    let l1 : Launch := { l with phase := if ops.isEmpty then first else .waiting }
    let slots := match d.imageOf l with
      | some im => (im.kernels.filterMap fun k => im.fnRefs[k.fnref]?).filterMap fun f =>
          if 8 ≤ f.slot then some (Fin.ofNat 8 f.slot) else none
      | none => []
    let d1 : Dev := { d with launches := d.launches ++ [l1], nextLaunch := d.nextLaunch + 1, cx := { d.cx with arb := d.cx.arb ++ ops } }
    (d1.fnHold l.id slots).gradAdmit l.id l.handle

/-- R229: an admission waits while a kiln that it, or the gradient steps it triggers, use has a split pending. -/
def Dev.splitPending (d : Dev) (handle : Nat) : Bool :=
  match d.liveProgram handle with
  | none => false
  | some p => p.image.dies.any d.kilnPending ||
    d.coll.jobs.any fun j => j.trigger == 0 && j.program == handle && j.closing.isNone && d.stagePending j.stage

/-- R405: a list's next record, once the one before it has been admitted. -/
def Dev.listNext (x : ListRun) (d : Dev) : Option Dev :=
  if x.refused.isSome || x.count ≤ x.next || (d.listLaunches x.cmd).any (fun l => l.2.phase == .waiting) then none
  else
    match d.cmd x.cmd with
    | none => none
    | some c =>
      if c.cancelling then none
      else
        let r := d.mem.readBytes (x.base + 32 * x.next) 32
        let o0 := bytesAt r 7 0
        if d.splitPending (field o0 7 0) then none
        else
          let d1 := d.modList x.cmd fun y => { y with next := y.next + 1 }
          if field o0 63 10 ≠ 0 || field o0 9 8 = 3 || !zeroAt r 31 24 || bytesAt r 15 8 ≥ 2 ^ 48 then
            some (d1.launchRefused (.listRec x.cmd x.next) stPacketFormat noEntry)
          else
            some (d1.admitLaunch { owner := .listRec x.cmd x.next, cls := c.cls, handle := field o0 7 0, mode := field o0 9 8,
                                   da := bytesAt r 15 8, seed := BitVec.ofNat 64 (bytesAt r 23 16), deadline := c.pkt.deadline.toNat })

/-- What the arbiter and the lists can now do; fuel bounds the steps. -/
def Dev.settleArb : Nat → Dev → Dev
  | 0, d => d
  | n + 1, d =>
    match d.arbStep with
    | some d1 => Dev.settleArb n d1
    | none =>
      match d.progs.lists.findSome? fun x => d.listNext x with
      | some d1 => Dev.settleArb n d1
      | none => d

/-- Let everything that waits for the arbiter, and for no event, go on. -/
def Dev.settle (d : Dev) : Dev :=
  d.settleArb (d.cx.arb.length + 4 * sumNat (d.progs.lists.map fun x => x.count + 1 - x.next) + 1)

/-- LAUNCH (R210 to R213, R405). -/
def Dev.launchCmd (c : Cmd) (d : Dev) : Dev :=
  let h := opnd c.pkt.o0 7 0
  if d.splitPending h then d
  else
    ((d.setPhase c.id .running).admitLaunch { owner := .cmd c.id, cls := c.cls, handle := h, mode := opnd c.pkt.o0 9 8, da := opDa c.pkt.o1,
                                              seed := c.pkt.o2, deadline := c.pkt.deadline.toNat }).settle

def execLaunch (tag : Tag) (s : State) : Out := .next (s.onDev (Dev.onCmd tag 0x12 Dev.launchCmd)).flushReports

/-- LAUNCH_LIST (R405): records in order; the records are read where they lie. -/
def Dev.launchList (c : Cmd) (d : Dev) : Dev :=
  let n := opnd c.pkt.o0 8 0
  let a := opDa c.pkt.o1
  d.fetchBytes c.id a (32 * n) (fun _ d =>
    ({ d.setPhase c.id .running with progs := { d.progs with lists := d.progs.lists ++ [{ cmd := c.id, base := a, count := n }] } } : Dev).settle)

def execLaunchList (tag : Tag) (s : State) : Out := .next (s.onDev (Dev.onCmd tag 0x13 Dev.launchList)).flushReports

end Sys2Proof.Machine
end

