-- ==== Sys2Proof/Machine/Operands.lean ====
section
/-! DEFINITION. Operands and results of executions: rows of buffers, rows of context pages, bytes of slip streams, and the
writing of result rows (R37, R50, R167, R176, R182, R196, R212, R214, R215, R255, R554). -/
namespace Sys2Proof.Machine

/-- R167: token row r of a frame as a buffer of one row, with its element address; part 0 is K, 1 is V. -/
def rowBufAt (f : BFmt) (outliers : Bool) (d da part r : Nat) : Buf × Nat :=
  let ss := frameStreams f outliers d
  let at_ (i : Nat) : Nat := match ss[3 * part + i]? with | some s => da + s.1 + r * s.2 | none => da
  ({ kind := 4, fmt := f, outliers := outliers, listed := false, rank := 1, tscale := 0, exts := [d, 1, 1, 1], strides := [0, 0, 0],
     base := at_ 0, scaleOff := at_ 1 - at_ 0, sideOff := at_ 2 - at_ 0, home := 0, level := 2 }, at_ 0)

/-- A context's K or V row of a layer and head group at a token position. -/
def Dev.ctxRow (d : Dev) (c : Ctx) (layer group part pos : Nat) : Option (Buf × Nat) :=
  match ctxFmt c.fmtCode, headDim c.hdCode, d.cx.poolOf c.pool, c.frameAt layer group (pos / 128) with
  | some (f, s), some hd, some p, some fr => some (rowBufAt f s hd (p.da fr) part (pos % 128))
  | _, _, _, _ => none

/-- Elements c0 to c0 + n − 1 of a context row by part: K's values of the first KV-head group (part 0), V's (1), then those of the groups
after it (R212; log 25): (part, first, count). -/
def ctxParts (hd c0 n : Nat) : List (Nat × Nat × Nat) :=
  if n = 0 || hd = 0 then []
  else
    (List.range (cdiv (c0 + n) hd - c0 / hd)).map fun i =>
      let p := c0 / hd + i
      let lo := max c0 (p * hd)
      (p, lo - p * hd, min (c0 + n) ((p + 1) * hd) - lo)

/-- Where rows of a buffer lie: address of the stream and the indices of dimensions 2 and 3; for a context buffer head is the first KV-head
group of groups. -/
structure RowPlace where
  im : Image
  e : Entry
  layer : Nat
  head : Nat
  d2 : Nat := 0
  groups : Nat := 1
  deriving DecidableEq, Repr

/-- The rows of one kernel's run for a head of an entry. -/
def placeOf (im : Image) (k : Kernel) (e : Entry) (head : Nat) : RowPlace :=
  { im := im, e := e, layer := k.layer, head := head, groups := im.groupsAt k e }

/-- The K or V row at a part of a context row; none outside the groups the place takes in. -/
def Dev.ctxPart (d : Dev) (c : Ctx) (w : RowPlace) (part pos : Nat) : Option (Buf × Nat) :=
  if part < 2 * w.groups then d.ctxRow c w.layer (w.head + part / 2) (part % 2) pos else none

/-- n values of +0 as a row of a format. -/
def zeroRow (wide : Bool) (n : Nat) : OpRow :=
  if wide then .wide (List.replicate n (FV.fin false 0 0))
  else .stored (List.replicate (cdiv n 32) { vals := List.replicate 32 (FV.fin false 0 0) })
/-- Pieces of a row, in order; the pieces of stored ones are whole blocks. -/
def OpRow.join (rs : List OpRow) : OpRow :=
  if rs.any (fun r => match r with | .stored _ => true | .wide _ => false) then
    .stored (rs.flatMap fun r => match r with | .stored bs => bs | .wide _ => [])
  else .wide (rs.flatMap fun r => match r with | .wide xs => xs | .stored _ => [])

/-- The format in which rows of a buffer are read: a context buffer's is its context's (R167). -/
def Dev.readFmt (d : Dev) (w : RowPlace) (i : Nat) : BFmt :=
  match w.im.buf i with
  | none => .fp32
  | some b =>
    if b.kind ≠ 4 then b.fmt
    else match (d.cx.find w.e.ctx).bind fun c => ctxFmt c.fmtCode with | some f => f.1 | none => b.fmt

/-- R214: n elements of row r of a buffer from element c0; those at or beyond ext read as +0. A context buffer's row r is the
token r of the entry's context, as its pages store it (log 25). -/
def Dev.bufRow (d : Dev) (w : RowPlace) (i c0 n ext r : Nat) : OpRow :=
  match w.im.buf i with
  | none => .wide (List.replicate n (FV.fin false 0 0))
  | some b =>
    if b.kind ≠ 4 then readRow d.mem b (w.im.baseOf i w.e) c0 n ext r w.d2 w.head
    else
      let wide := (d.readFmt w i).isWide
      match d.cx.find w.e.ctx with
      | none => zeroRow wide n
      | some c =>
        let hd := (headDim c.hdCode).getD 64
        OpRow.join ((ctxParts hd c0 n).map fun h =>
          match (if r < c.length then d.ctxPart c w h.1 r else none) with
          | some q => readRow d.mem q.1 q.2 h.2.1 h.2.2 (ext - h.1 * hd) 0 0 0
          | none => zeroRow wide h.2.2)

/-- The byte ranges that a row of a buffer takes. -/
def Dev.bufRowRanges (d : Dev) (w : RowPlace) (i c0 n ext r : Nat) : List (Nat × Nat) :=
  match w.im.buf i with
  | none => []
  | some b =>
    if b.kind ≠ 4 then rowRanges b (w.im.baseOf i w.e) c0 n ext r w.d2 w.head
    else
      match d.cx.find w.e.ctx with
      | none => []
      | some c =>
        let hd := (headDim c.hdCode).getD 64
        (ctxParts hd c0 (min n (ext - c0))).flatMap fun h =>
          match d.ctxPart c w h.1 r with
          | some q => if r < c.length then rowRanges q.1 q.2 h.2.1 h.2.2 hd 0 0 0 else []
          | none => []

/-- A row's elements as values. -/
def OpRow.vals (r : OpRow) (n : Nat) : List FV :=
  match r with | .wide xs => xs.take n | .stored bs => (bs.flatMap (·.vals)).take n

/-- A row of a buffer as FP32 words, those beyond its actual extent +0 (R214): a decoded value beyond FP32's range is ±Inf (R107). -/
def Dev.wordRow (d : Dev) (w : RowPlace) (i n r : Nat) : List Word := ((d.bufRow w i 0 n (w.im.rowExt i w.e) r).vals n).map ofV

/-- The same with an FP8 tensor's scale, as the convolutions of R139 read maps and weights. -/
def Dev.scaledRow (d : Dev) (w : RowPlace) (i n r : Nat) : List Word :=
  match w.im.buf i with
  | some b => (d.wordRow w i n r).map fun x => if b.tscale = 0#32 then x else fmul x b.tscale
  | none => []

-- Writing (R215)

/-- R53, R70, R71: how results are converted under a launch's policy; tensors marked E4M3 are the sources of open jobs' buckets. -/
def Dev.writer (pol : NumPolicy) (seed : Long) (tile : Nat) (d : Dev) : WriteCtx :=
  { pol := pol, seed := seed, tile := tile,
    grads := d.coll.jobs.flatMap fun j => (j.buckets.filter (·.srcFmt == 1)).map fun b => (b.src, b.count) }

/-- R50, R215: one row of values into row r of a buffer from element c0; n0 numbers its first element (R37). A context buffer's
row r is the position W0 + r, written below W1. -/
def Dev.rowOut (d : Dev) (wc : WriteCtx) (w : RowPlace) (i c0 r n0 : Nat) (xs : List Word) : List OutBytes × ConvEv :=
  match w.im.buf i with
  | none => ([], {})
  | some b =>
    if xs.isEmpty then ([], {})
    else if b.kind ≠ 4 then writeRow wc b (w.im.baseOf i w.e) c0 r w.d2 w.head n0 xs
    else
      match d.cx.find w.e.ctx with
      | none => ([], {})
      | some c =>
        let pos := w.e.w0 + r
        if !w.e.writes || w.e.w1 ≤ pos then ([], {})
        else
          let hd := (headDim c.hdCode).getD 64
          (ctxParts hd c0 xs.length).foldl (fun acc h =>
            match d.ctxPart c w h.1 pos with
            | some q =>
              let skip := h.1 * hd + h.2.1 - c0
              let o := writeRow wc q.1 q.2 h.2.1 0 0 0 (n0 + skip) ((xs.drop skip).take h.2.2)
              (acc.1 ++ o.1, acc.2.add o.2)
            | none => acc) ([], {})

/-- Rows of a region from element c0 and row r0 on. Element n of the tile's output counts along a row of the whole region, width
elements, then row by row (R37; DEDUCED, log 134). -/
def Dev.rowsOut (d : Dev) (wc : WriteCtx) (w : RowPlace) (i c0 r0 first width : Nat) (rows : List (List Word)) : List OutBytes × ConvEv :=
  (indexed rows).foldl (fun acc p =>
    let o := d.rowOut wc w i c0 (r0 + p.1) ((first + p.1) * width) p.2
    (acc.1 ++ o.1, acc.2.add o.2)) ([], {})

/-- Results leave for memory: bytes, heat and counters; alloc says that a vector unit sends them (R230). -/
def Dev.storeOut (alloc : Bool) (outs : List OutBytes) (d : Dev) : Dev :=
  d.each outs fun o d => (d.write o.da o.bytes).traffic true alloc o.da o.bytes.length

/-- Counters and heat of what is read. -/
def Dev.readOut (alloc : Bool) (rs : List (Nat × Nat)) (d : Dev) : Dev :=
  d.each rs fun r d => (d.heat r.1 r.2).traffic false alloc r.1 r.2

-- Regions (R255)

/-- A dense copy of a region: rows of n elements, element bytes first, then scale bytes, then side records. -/
def Buf.denseOf (b : Buf) (rows n : Nat) : Buf :=
  let line := b.row0 n
  let step (rec : Nat) : Nat := rows * (cdiv n 32 * rec)
  { b with strides := [line, 0, 0], scaleOff := if b.fmt.isBlock then rows * line else 0,
           sideOff := if b.outliers then rows * line + step 1 else 0 }

/-- R255: bytes of a region of rows by n elements. -/
def Buf.regionLen (b : Buf) (rows n : Nat) : Nat :=
  rows * b.row0 n + (if b.fmt.isBlock then rows * cdiv n 32 else 0) + (if b.outliers then 6 * (rows * cdiv n 32) else 0)

/-- The rows of a region from its bytes, each padded with +0 to n elements; ext of them are there. -/
def rowsOfBytes (b : Buf) (rows n ext : Nat) (bs : List Byte) : List OpRow :=
  let m : Mem := ({} : Mem).writeBytes 0 bs
  (List.range rows).map fun r => readRow m (b.denseOf rows ext) 0 0 n ext r 0 0

end Sys2Proof.Machine
end

