-- ==== Sys2Proof/Machine/RepairBase.lean ====
section
/-! DEFINITION. Failures of tiles and units in service: quarantine, spares, units that leave service (R144, R210, R211, R508 to
R510, R513). -/
namespace Sys2Proof.Machine

def Dev.kiln (d : Dev) (k : Fin 12) : Kiln := d.kilns.get k
def Dev.modKiln (k : Fin 12) (f : Kiln → Kiln) (d : Dev) : Dev := { d with kilns := vmod d.kilns k f }
def Dev.tile (d : Dev) (k : Fin 12) (t : Fin 16) : TileSt := (d.kiln k).tiles.get t
def Dev.modTile (k : Fin 12) (t : Fin 16) (f : TileSt → TileSt) (d : Dev) : Dev :=
  d.modKiln k fun (x : Kiln) => { x with tiles := vmod x.tiles t f }
def Dev.modPhys (k : Fin 12) (p : Nat) (f : PhysTile → PhysTile) (d : Dev) : Dev :=
  d.modKiln k fun (x : Kiln) => { x with phys := vmod x.phys (Fin.ofNat 18 p) f }
def Dev.wheel (d : Dev) (w : Fin 2) : Wheel := d.wheels.get w
def Dev.modWheel (w : Fin 2) (f : Wheel → Wheel) (d : Dev) : Dev := { d with wheels := vmod d.wheels w f }

-- Spare rows, columns and lanes (R20, R511, R513)

/-- Which spares serve an element: R20's "where": its kind and memory with, of an SRAM, the tile buffer's tile or the 8 MiB step of a die's
shared memory (log 146: the top 4 bits of its row), of a stack the DRAM die and bank, or the group of lanes. -/
def Repair.pool (r : Repair) : Nat × Nat × Nat × Nat :=
  (r.kind, r.unit, r.element,
   if r.kind = 5 then (if r.element = 0 then field r.detail 36 32 else if r.element = 1 then field r.detail 23 20 else 0)
   else if r.kind = 8 then field r.detail 7 0 else field r.detail 9 0)
/-- R20: how many there are. -/
def Repair.poolSize (r : Repair) : Nat :=
  if r.kind = 5 then [16, 64, 128, 32, 64].getD r.element 0
  else if r.kind = 6 then Config.bankRows else if r.kind = 7 then Config.bankCols else 2
/-- R515: the record of a repair by spare n of its pool; and of a row or lane that stays in use (log 146). -/
def Repair.bySpare (n : Nat) (r : Repair) : Repair :=
  { r with detail := r.detail + (if r.kind = 5 then at_ 24 n else if r.kind = 8 then at_ 15 1 else at_ 38 n) }
def Repair.stays (r : Repair) : Repair := { r with detail := r.detail + (if r.kind = 5 then at_ 24 0xFF else 0) }
/-- Does a record tell that a spare is in use. -/
def Repair.holdsSpare (r : Repair) : Bool :=
  (r.kind == 5 && field r.detail 31 24 != 0xFF) || r.kind == 6 || r.kind == 7 || (r.kind == 8 && bit r.detail 15)

/-- Spares of an element's pool in use. -/
def Dev.sparesUsed (d : Dev) (r : Repair) : Nat := (d.repair.spares.filter fun x => x.rep.pool == r.pool).length
/-- A failing element takes the next spare of its pool, if one is left; the repair is noted, and REPAIR is set. -/
def Dev.takeSpare (r : Repair) (col : Nat) (upset : BitVec 80) (d : Dev) : Option Dev :=
  let n := d.sparesUsed r
  if n < r.poolSize then
    let x := r.bySpare n
    let e := (d.noteRepair x.kind x.unit x.element x.detail).setEvent evRepair
    some { e with repair := { e.repair with spares := e.repair.spares ++ [{ rep := x, col := col, upset := upset }] } }
  else none
/-- R513: a row or lane for which no spare is left stays in use. -/
def Dev.staysInUse (r : Repair) (d : Dev) : Dev :=
  let e := (d.noteRepair r.stays.kind r.stays.unit r.stays.element r.stays.detail).setEvent evRepair
  { e with repair := { e.repair with spareOutSeen := true } }
def Dev.takeOrStay (r : Repair) (d : Dev) : Dev := (d.takeSpare r 0 0).getD (d.staysInUse r)

/-- A failing SRAM row, in R515's codes. -/
def sramRepair (memory unit tile row : Nat) : Repair :=
  { kind := 5, unit := unit, element := memory, detail := field row 23 0 + (if memory = 0 then at_ 32 (tile % 32) else 0) }
/-- A failing bond lane. -/
def laneRepair (stack : Fin 24) (group lane : Nat) : Repair :=
  { kind := 8, unit := stack.val / 2, element := stack.val, detail := group % 256 + at_ 8 (lane % 128) }
/-- R511: a failing DRAM row takes a spare row of its bank, and, as the third of its bank repaired for the same bit, a spare column with it;
none where no spare row is left. -/
def Dev.dramRepair (stack : Fin 24) (row col : Nat) (upset : BitVec 80) (d : Dev) : Option Dev :=
  let die := dieCode (dieIx (stack.val / 2))
  (d.takeSpare { kind := 6, unit := die, element := stack.val, detail := field row 27 0 } col upset).map fun d1 =>
    let c : Repair := { kind := 7, unit := die, element := stack.val, detail := field row 9 0 + at_ 28 (col % 1024) }
    let same := d1.repair.spares.filter fun x =>
      x.rep.kind == 6 && x.rep.pool.2 == c.pool.2 && x.col % 1024 == col % 1024 && x.upset &&& upset != 0#80
    let had := d1.repair.spares.any fun x => x.rep.kind == 7 && x.rep.pool == c.pool && field x.rep.detail 37 28 == col % 1024
    if 3 ≤ same.length && !had then (d1.takeSpare c col upset).getD d1 else d1

/-- R144: the pipelines a kiln forms. -/
def Kiln.formed (k : Kiln) : Nat := min (k.boundTiles.length / 2) ((k.stages.toList.filter (·.ok)).length)
def Dev.reformPipes (k : Fin 12) (d : Dev) : Dev := d.modKiln k fun (x : Kiln) => { x with pipesFormed := x.formed }

/-- The formed pipeline that does the work of a logical one. -/
def Kiln.pipeServer (k : Kiln) (lp : Nat) : Nat := pipeServed k.pipesFormed lp
/-- The score and the value tile of a formed pipeline: the bound tiles in pairs; and its stage: those in service in order. -/
def Kiln.pipeTiles (k : Kiln) (p : Nat) : Fin 16 × Fin 16 :=
  (Fin.ofNat 16 (k.boundTiles.getD (2 * p) (2 * p)), Fin.ofNat 16 (k.boundTiles.getD (2 * p + 1) (2 * p + 1)))
def Kiln.pipeStage (k : Kiln) (p : Fin 8) : Fin 8 := ((List.finRange 8).filter fun s => (k.stages.get s).ok).getD p.val p

/-- The lowest-numbered spare physical tile of a kiln (R210). -/
def Kiln.spareTile (k : Kiln) : Option Nat :=
  (List.range 18).find? fun p => match k.phys[p]? with | some x => x.spare && !x.out | none => false
def Kiln.sparesLeft (k : Kiln) : Nat := (k.phys.toList.filter fun p => p.spare && !p.out).length

/-- R210, R211, R509: a logical tile has lost its physical tile: a spare is bound, or the tile becomes UNBOUND. -/
def Dev.rebind (k : Fin 12) (t : Fin 16) (d : Dev) : Dev :=
  match (d.kiln k).spareTile with
  | some p =>
    let d1 := (d.modPhys k p fun x => { x with spare := false }).modTile k t fun x => { x with phys := p, unbound := false }
    let d2 := (d1.noteRepair 0x02 k.val t.val p).setEvent evRepair
    if (d2.kiln k).sparesLeft = 0 then { d2 with repair := { d2.repair with spareOutSeen := true } } else d2
  | none =>
    let d1 := (d.modTile k t fun x => { x with unbound := true }).setEvent evRepair
    { d1 with repair := { d1.repair with spareOutSeen := true } }

/-- R509: logical tiles of one kiln that lose their physical tiles at one instant, in ascending order. -/
def Dev.tilesLost (k : Fin 12) (ts : List (Fin 16)) (d : Dev) : Dev := (d.each ts (Dev.rebind k)).reformPipes k

/-- Events within 3,600 s of now, with one more (R508). -/
def recent (now : Nat) (events : List Nat) : List Nat := (events.filter fun t => decide (now ≤ t + 3600000000)) ++ [now]

/-- R508: a quarantine event of the physical tile under a logical tile; the third within an hour quarantines it. -/
def Dev.tileEvent (k : Fin 12) (t : Fin 16) (d : Dev) : Dev :=
  let p := (d.tile k t).phys
  let ev := recent d.nowUs (match (d.kiln k).phys[p]? with | some x => x.events | none => [])
  if ev.length < 3 then d.modPhys k p fun x => { x with events := ev }
  else
    let n := (match (d.kiln k).phys[p]? with | some x => x.quarantined | none => 0) + 1
    let d1 := d.modPhys k p fun x => { x with events := [], out := true, quarantined := n }
    let d2 : Dev := { d1 with repair := { d1.repair with quarantineSeen := true } }
    (d2.noteRepair 0x03 k.val p n).tilesLost k [t]

/-- R510: an event of a unit counted as tiles are; the third within an hour takes it out until the next start. -/
def UnitSt.event (now : Nat) (u : UnitSt) : UnitSt :=
  let ev := recent now u.events
  if ev.length < 3 then { u with events := ev } else { u with ok := false, events := ev }

/-- A softmax stage's event. -/
def Dev.stageEvent (k : Fin 12) (p : Fin 8) (d : Dev) : Dev :=
  let u := (d.kiln k).stages.get p
  let d1 := (d.modKiln k fun (x : Kiln) => { x with stages := vmod x.stages p (UnitSt.event d.nowUs) }).reformPipes k
  if u.ok && !((d1.kiln k).stages.get p).ok then d1.unitOut (kilnDie k) p.val 510 else d1

/-- A vector unit's event: dies 0 to 11 kilns, 12 and 13 wheels. -/
def Dev.vecEvent (die : Fin 14) (unit : Fin 2) (d : Dev) : Dev :=
  if h : die.val < 12 then
    let k : Fin 12 := ⟨die.val, h⟩
    let u := (d.kiln k).vec.get unit
    let d1 := d.modKiln k fun (x : Kiln) => { x with vec := vmod x.vec unit (UnitSt.event d.nowUs) }
    if u.ok && !((d1.kiln k).vec.get unit).ok then d1.unitOut (kilnDie k) (8 + unit.val) 510 else d1
  else
    let w : Fin 2 := Fin.ofNat 2 (die.val - 12)
    let d1 := d.modWheel w fun (x : Wheel) => { x with vec := x.vec.event d.nowUs }
    if (d.wheel w).vec.ok && !(d1.wheel w).vec.ok then d1.unitOut (wheelDie w) 1 510 else d1

/-- A convolution engine's event. -/
def Dev.engineEvent (w : Fin 2) (d : Dev) : Dev :=
  let d1 := d.modWheel w fun (x : Wheel) => { x with engine := x.engine.event d.nowUs }
  if (d.wheel w).engine.ok && !(d1.wheel w).engine.ok then d1.unitOut (wheelDie w) 0 510 else d1

/-- Is a vector unit in service. -/
def Dev.vecOk (d : Dev) (die unit : Nat) : Bool :=
  if die < 12 then (match d.kilns[die]? with | some k => (k.vec[unit]?).any (·.ok) | none => false)
  else unit == 0 && (match d.wheels[die - 12]? with | some w => w.vec.ok | none => false)

/-- R510: the vector unit that does the work of one: itself, its kiln's other one, the next kiln's that has one; a wheel's, the
other wheel. -/
def Dev.vecServer (d : Dev) (die unit : Nat) : Nat × Nat :=
  let kilnHas (k : Nat) : Option (Nat × Nat) :=
    if d.vecOk k 0 then some (k, 0) else if d.vecOk k 1 then some (k, 1) else none
  if d.vecOk die unit then (die, unit)
  else if 12 ≤ die then (25 - die, 0)
  else if d.vecOk die (1 - unit) then (die, 1 - unit)
  else (((List.range 11).map fun i => (die + 1 + i) % 12).findSome? kilnHas).getD (die, unit)

/-- R211: the logical tile that serves a logical tile: itself while bound, else the bound tile in its place. -/
def Kiln.server (k : Kiln) (t : Nat) : Nat :=
  let bound := k.boundTiles
  if bound.contains t then t
  else
    let un := (List.range 16).filter fun x => !bound.contains x
    let i := (un.findIdx? (· == t)).getD 0
    bound.getD (i % max 1 bound.length) t

end Sys2Proof.Machine
end

