-- ==== Sys2Proof/Machine/Sched.lean ====
section
/-! DEFINITION. Which execution runs next and where: kernels in order, places, classes, gates, the escalation rule, and what
the end of an execution does to its launch (R53, R61 to R64, R204, R211, R249 to R251, R425 to R429, R438). -/
namespace Sys2Proof.Machine

/-- Where an execution runs: a logical tile, a formed pipeline of a kiln, a vector unit (dies 0 to 11 kilns, 12 and 13 wheels), an
engine. -/
inductive Place where
  | tile (k t : Nat)
  | pipe (k p : Nat)
  | vec (die unit : Nat)
  | engine (w : Nat)
  deriving DecidableEq, Repr

def Image.kernelOf (im : Image) (x : Exec) : Option Kernel := im.kernels[x.kernel]?

/-- R205: the chain of an execution's kernel and the member it belongs to: for attention, its part's (R151). -/
def Image.memberOf (im : Image) (x : Exec) : Option (Chain × Nat) :=
  match im.kernelOf x with
  | none => none
  | some k =>
    match im.chains[k.chain]? with
    | none => none
    | some c =>
      if k.kind = 1 then (if x.pos.2.1 < c.members.length then some (c, x.pos.2.1) else none)
      else if k.kind ≠ 0 then none
      else
        let place := k.tileList[x.unit]?
        let at_ := (c.members.findIdx? fun m => some (m.kiln, m.tile) == place).getD 0
        match im.loopsOf k with
        | some (d, _, _, _) => some (c, if c.scope = 1 && d.stepK != 0 then x.pos.2.2 / d.stepK else at_)
        | none => none

/-- This device's rank in a chain's group. -/
def Dev.chainRank (d : Dev) (c : Chain) : Nat :=
  if c.scope = 0 then 0 else match d.group c.group with | some g => d.rankIn g | none => 0

/-- R205: does an execution belong to this device. -/
def Dev.execHere (d : Dev) (im : Image) (x : Exec) : Bool :=
  match im.memberOf x with
  | some (c, i) => c.scope == 0 || (match c.members[i]? with | some m => m.rank == d.chainRank c | none => false)
  | none => true

/-- Does an execution run at a place. -/
def Dev.runsAt (d : Dev) (im : Image) (x : Exec) (p : Place) : Bool :=
  match im.kernelOf x with
  | none => false
  | some k =>
    match p with
    | .tile i t => k.kind == 0 && k.tileList[x.unit]? == some (i, t)
    | .pipe i p => k.kind == 1 &&
        (match k.pipeList[x.unit]?, d.kilns[i]? with | some q, some y => q.1 == i && y.pipeServer q.2 == p | _, _ => false)
    | .vec die u => k.kind == 2 &&
        (match k.vecList[x.unit]? with | some v => d.vecServer (if 16 ≤ v.1 then v.1 - 4 else v.1) v.2 == (die, u) | none => false)
    | .engine w => k.kind == 3 && x.unit == w

/-- Executions of a launch that are not done, with their numbers, in schedule order. -/
def Dev.todo (d : Dev) (l : Launch) (im : Image) : List (Nat × Exec) :=
  (indexed (d.scheduleOf l)).filter fun p => !(l.done.any fun e => e.ix == p.1) && d.execHere im p.2

/-- R212: the kernel a launch is at: every execution and chain of the kernels before it is over. -/
def Dev.front (d : Dev) (l : Launch) (im : Image) : Option Nat :=
  let ks := (match (d.todo l im).head? with | some p => [p.2.kernel] | none => []) ++
    ((l.chains.filter fun c => !c.written).map (·.kernel))
  if ks.isEmpty then none else some (minNat 0 ks)

/-- A launch's executions that may run at a place, in order. -/
def Dev.workAt (d : Dev) (l : Launch) (im : Image) (p : Place) : List (Nat × Exec) :=
  match d.front l im with
  | none => []
  | some f => (d.todo l im).filter fun x => x.2.kernel == f && d.runsAt im x.2 p

/-- R429, R438: no earlier bounded launch, or earlier launch of the stream, shares a die. -/
def Dev.inOrder (d : Dev) (l : Launch) : Bool :=
  d.launches.all fun m =>
    !(decide (m.id < l.id) && m.alive && m.phase != .preempted && m.dies.any l.dies.contains &&
      ((l.cls == 2 && m.cls == 2) ||
       (match l.owner, m.owner with | .candle a _ _, .candle b _ _ => a == b | _, _ => false)))

/-- R426: higher-class work waits for a place. -/
def Dev.outranked (d : Dev) (l : Launch) (p : Place) : Bool :=
  d.launches.any fun m => decide (l.cls < m.cls) && m.phase == .running && d.inOrder m &&
    (match d.imageOf m with | some im => !(d.workAt m im p).isEmpty | none => false)

-- The window (R249)

def Dev.windowOf (d : Dev) (handle : Nat) : Option Window := d.tier.windows.find? fun w => w.program == handle
def Dev.modWindow (n : Fin 8) (f : Window → Window) (d : Dev) : Dev :=
  { d with tier := { d.tier with windows := updFirst (fun (w : Window) => w.num == n) f d.tier.windows } }

-- The numeric policy (R53, R66, R67)

def Dev.policyOf (d : Dev) (l : Launch) : NumPolicy := l.policy.getD d.num
/-- R53: taken when the launch's first tile is dispatched. -/
def Dev.takePolicy (id : Nat) (d : Dev) : Dev := d.modLaunch id fun l => { l with policy := some (l.policy.getD d.num) }
def Launch.reference (l : Launch) (p : NumPolicy) : Bool := l.mode == 2 || (l.mode == 0 && p.qualityRef)

/-- A running format from its code at an escalated start. -/
def fmtOfCode (c : Nat) : BFmt := if c = 3 then .mxfp8e4m3 else .bf16

/-- R56, R57, R61, R67: the formats an execution can run at, from an escalated start code or 0. One that escalates to the FP8 step runs
there, though its own ladder skips that step for a stored 4- or 6-bit operand (DEDUCED, log 131). -/
def Image.fmtsFrom (im : Image) (k : Kernel) (reference : Bool) (start : Nat) : List BFmt :=
  if reference then refLadder k.mark k.wideFmt
  else if start ≤ execFormatCode k.mark then im.rungs k
  else fmtOfCode start :: (im.rungs k).filter fun f => start < execFormatCode f

/-- R61, R62: where an execution must start: none while w(j) is not yet known, else 0 for its marked format or the escalated
format's code. Its tiles are those of the executions that run here: a layer is a launch's, and a launch a device's. -/
def Image.startOf (im : Image) (pol : NumPolicy) (reference : Bool) (here : Exec → Bool) (xs : List Exec) (done : List ExecDone) (ix : Nat) :
    Option Nat :=
  if reference || pol.escDisable || !pol.widen then some 0
  else
    match xs[ix]? with
    | none => some 0
    | some x =>
      let same := (indexed xs).filter fun p => im.isTileExec p.2 && here p.2 && im.layerOf p.2 == im.layerOf x
      let limit := same.length * pol.escThreshold / 256
      let lower := same.filter fun p => decide (p.1 < ix)
      let ends := lower.map fun p => done.find? fun e => e.ix == p.1
      let wide := ends.filterMap fun e => match e with | some y => if y.wide then some y.code else none | none => none
      let open_ := (ends.filter (·.isNone)).length
      if wide.length + open_ ≤ limit then some 0
      else if limit < wide.length && (open_ == 0 || wide.any fun c => decide (4 ≤ c)) then some (maxNat wide)
      else none

-- The end of an execution

/-- R91, R203, R229: work of a program wrote to its reservation in a kiln's scratchpad, whose layout the spec leaves open: what the
reservation holds is undefined. -/
def Dev.scratchTouched (k : Fin 12) (handle : Nat) (d : Dev) : Dev :=
  match d.progs.programs.find? fun p => p.handle == handle with
  | some p => (match d.reservation p k.val with | some r => { d with mem := d.mem.forget r.1 r.2 } | none => d)
  | none => d

/-- A kernel of a launch may be over: its gradient buckets are ready (R369), and where it was the last of its layer the use of
the window is released (R250). -/
def Dev.kernelSettle (id kernel : Nat) (d : Dev) : Dev :=
  match d.launchOf id with
  | none => d
  | some l =>
    match d.imageOf l with
    | none => d
    | some im =>
      let left := d.todo l im
      let chained := l.chains.filter fun c => !c.written
      if left.any (fun p => p.2.kernel == kernel) || chained.any fun c => c.kernel == kernel then d
      else
        let layer := match im.kernels[kernel]? with | some k => k.layer | none => 0
        let layerAt (i : Nat) : Nat := match im.kernels[i]? with | some k => k.layer | none => 0
        let d1 := d.gradKernel id kernel
        if left.any (fun p => im.layerOf p.2 == layer) || chained.any fun c => layerAt c.kernel == layer then d1
        else
          match d1.windowOf l.handle with
          | none => d1
          | some w =>
            let us := (l.uses.filter fun u => u.2 == layer).map fun u => u.1
            d1.modWindow w.num fun w => { w with released := w.released ++ us.filter fun u => !w.released.contains u }

/-- An execution is done. -/
def Dev.execDone (id : Nat) (e : ExecDone) (kernel : Nat) (d : Dev) : Dev :=
  (d.modLaunch id fun l => { l with done := l.done ++ [e], widened := l.widened + b2n e.wide }).kernelSettle id kernel

/-- R504: a launch's read met a poisoned word. -/
def Dev.launchStruck (id a : Nat) (d : Dev) : Dev := (d.ueAt a true).stopLaunch id stUncorrectable

/-- A cancel takes effect at the end of the execution, and nothing of it is written (R94). -/
def Launch.dropsResults (l : Launch) : Bool := l.phase == .ending stCancelled
/-- May a launch's execution that was dispatched still end. -/
def Launch.mayEnd (l : Launch) : Bool := match l.phase with | .running => true | .preempting => true | .ending _ => true | _ => false

end Sys2Proof.Machine
end

