-- ==== Sys2Proof/Machine/Gate.lean ====
section
/-! DEFINITION. What a matrix execution works on, the moves that take a slip-coded buffer's stream, and the gate of a layer with its
directories (R201 to R203, R214, R249 to R251, R253 to R256, R268). -/
namespace Sys2Proof.Machine

/-- What a matrix execution works on. -/
structure TileJob where
  im : Image
  x : Exec
  k : Kernel
  e : Entry
  ab : Nat × Nat
  blk : Nat × Nat
  deriving DecidableEq, Repr

/-- The job of an execution of a matrix kernel. -/
def jobOf (im : Image) (l : Launch) (x : Exec) : Option TileJob :=
  match im.kernelOf x, l.entries[x.entry]? with
  | some k, some e =>
    match k.shapeOf with
    | some s => if k.kind = 0 then some { im := im, x := x, k := k, e := e, ab := s.1, blk := s.2 } else none
    | none => none
  | _, _ => none

def TileJob.place (j : TileJob) : RowPlace := placeOf j.im j.k j.e j.x.head
def TileJob.blocks (j : TileJob) : Nat := j.k.kBlocks j.e.k j.x.pos.2.2
def TileJob.k0 (j : TileJob) : Nat := 32 * j.k.execK * j.x.pos.2.2
def TileJob.row0 (j : TileJob) : Nat := j.x.pos.1 * j.ab.1 * j.blk.1
def TileJob.col0 (j : TileJob) : Nat := j.x.pos.2.1 * j.ab.2 * j.blk.2
def TileJob.rows (j : TileJob) : Nat := min (j.ab.1 * j.blk.1) (j.e.m - j.row0)
def TileJob.cols (j : TileJob) : Nat := min (j.ab.2 * j.blk.2) (j.e.n - j.col0)
/-- R90: initial values enter at K position 0 alone. -/
def TileJob.inits (j : TileJob) : Bool := j.x.pos.2.2 == 0 && j.k.bufAux != noIx
/-- The sides that the execution reads. -/
def TileJob.sides (j : TileJob) : List Nat := (if 0 < j.blocks then [0, 1] else []) ++ (if j.inits then [2] else [])
def TileJob.sideBuf (j : TileJob) (side : Nat) : Nat := if side = 0 then j.k.bufA else if side = 1 then j.k.bufB else j.k.bufAux
/-- Does the launch rotate the M side (R44, R46, R67; rotation is the quantiser's on the M side, DEDUCED, log 26). -/
def TileJob.rotates (j : TileJob) (reference : Bool) (side : Nat) : Bool := side == 0 && j.k.range == 1 && !reference
/-- Elements of a row that a move brings: whole rotation groups on the M side of a ROTATE kernel, in either quality mode, for the
launch takes its mode only when it dispatches (R53). -/
def TileJob.span (j : TileJob) (side : Nat) : Nat :=
  if side = 2 then j.cols
  else if side = 0 && j.k.range = 1 then roundUp (32 * j.blocks) (rotGroup j.k.kMax) else 32 * j.blocks

/-- R214: elements of a side's rows that lie below the buffer's actual extent. -/
def TileJob.extOf (j : TileJob) (side : Nat) : Nat := j.im.rowExt (j.sideBuf side) j.e
def TileJob.first (j : TileJob) (side : Nat) : Nat := if side = 2 then j.col0 else j.k0
def TileJob.lines (j : TileJob) (side : Nat) : List Nat :=
  if side = 1 then (List.range j.cols).map (· + j.col0) else (List.range j.rows).map (· + j.row0)

/-- R255: bytes that a move of a slip-coded buffer takes from its stream. -/
def TileJob.regionBytes (j : TileJob) (side : Nat) : Nat :=
  match j.im.buf (j.sideBuf side) with
  | some b => b.regionLen (j.lines side).length (min (j.span side) (j.extOf side - j.first side))
  | none => 0

/-- R202: does a side of the execution that ends stay in the tile buffer for the next one. -/
def Image.keepsSide (im : Image) (x y : Exec) (side : Nat) : Bool :=
  match im.kernelOf x with
  | none => false
  | some k =>
    match im.loopsOf k with
    | none => false
    | some (_, _, b, _) =>
      x.kernel == y.kernel && x.entry == y.entry && x.head == y.head && x.pos.2.2 == y.pos.2.2 &&
      ((side == 0 && bit b.flags 0 && x.pos.1 == y.pos.1) || (side == 1 && bit b.flags 1 && x.pos.2.1 == y.pos.2.1))

-- Slip-coded buffers (R253 to R256)

/-- One move of a slip-coded buffer: the execution and side it fills, and its place in the stream's expanded bytes. -/
structure SlipMove where
  ix : Nat
  side : Nat
  first : Nat
  len : Nat
  deriving DecidableEq, Repr

/-- A slip-coded buffer that a kernel reads from the tiles of its list. -/
structure SlipUse where
  l : Launch
  im : Image
  kernel : Nat
  k : Kernel
  buf : Nat
  deriving DecidableEq, Repr

def SlipUse.base (u : SlipUse) : Nat := match u.im.buf u.buf with | some b => b.base | none => 0
/-- Bytes of the directory (R254). -/
def SlipUse.dirLen (u : SlipUse) : Nat := 64 + 16 * u.k.tileList.length

/-- The moves of one execution: a side kept from the one before has the bytes of that move; the sides of an execution take theirs in the
order M, N, initial values (DEDUCED, log 144). -/
def slipStep (im : Image) (l : Launch) (buf : Nat) (a : Nat × Option (Nat × Exec) × List SlipMove) (p : Nat × Exec) :
    Nat × Option (Nat × Exec) × List SlipMove :=
  match jobOf im l p.2 with
  | none => a
  | some j =>
    let kept (s : Nat) : Option SlipMove :=
      match a.2.1 with
      | some q => if im.keepsSide q.2 p.2 s then a.2.2.find? fun m => m.ix == q.1 && m.side == s else none
      | none => none
    let r := (j.sides.filter fun s => j.sideBuf s == buf).foldl (fun (b : Nat × List SlipMove) s =>
      match kept s with
      | some m => (b.1, b.2 ++ [{ m with ix := p.1 }])
      | none => (b.1 + j.regionBytes s, b.2 ++ [{ ix := p.1, side := s, first := b.1, len := j.regionBytes s }])) (a.1, [])
    (r.1, some p, a.2.2 ++ r.2)

/-- R255: the moves that a tile makes of the buffer, and how many bytes they take in all. -/
def Dev.slipMoves (d : Dev) (u : SlipUse) (unit : Nat) : List SlipMove × Nat :=
  let xs := (indexed (d.scheduleOf u.l)).filter fun p => p.2.kernel == u.kernel && p.2.unit == unit && d.execHere u.im p.2
  let r := xs.foldl (slipStep u.im u.l u.buf) (0, none, [])
  (r.2.2, r.1)

/-- The segments of the kernel's layer in the program's window. -/
def Dev.slipSegs (d : Dev) (u : SlipUse) : List (Nat × Nat) :=
  match d.windowOf u.l.handle with
  | some w => (w.layers.getD u.k.layer []).map fun s => (s.dst, s.len)
  | none => []

/-- R254, R268: a tile's directory entry; none where the directory is damaged. -/
def Dev.slipEntry (d : Dev) (u : SlipUse) (unit : Nat) : Option SlipEntry :=
  match parseSlipDir d.mem u.base u.k.tileList.length (d.slipSegs u) with
  | some es =>
    match es[unit]? with
    | some e => if e.expanded = (d.slipMoves u unit).2 then some e else none
    | none => none
  | none => none

def SlipStream.sameAs (s t : SlipStream) : Bool := s.launch == t.launch && s.kernel == t.kernel && s.buf == t.buf && s.unit == t.unit
def Dev.putStream (k : Fin 12) (s : SlipStream) (d : Dev) : Dev :=
  let x := d.slip k
  d.setSlip k { x with streams := if x.streams.any s.sameAs then x.streams.map fun t => if s.sameAs t then s else t else x.streams ++ [s] }

def Dev.findStream (d : Dev) (k : Fin 12) (launch kernel buf unit : Nat) : Option SlipStream :=
  (d.slip k).streams.find? fun s => s.launch == launch && s.kernel == kernel && s.buf == buf && s.unit == unit

/-- A tile's stream as the directory gives it: damaged where the directory is (R268), or struck where it has a poisoned word (R504). -/
def Dev.streamAt (d : Dev) (u : SlipUse) (unit : Nat) : SlipStream :=
  let s0 : SlipStream :=
    { launch := u.l.id, kernel := u.kernel, buf := u.buf, unit := unit, entry := { stream := 0, kind := 0, stored := 0, expanded := 0 },
      nextDa := 0, struck := d.mem.firstPoison u.base u.dirLen }
  match d.slipEntry u unit with
  | some e => { s0 with entry := e, nextDa := e.stream }
  | none => { s0 with damage := some { kind := 6 }, damageDa := u.base }

/-- R268: the directory of one buffer of a kernel is read, and every tile's stream stands at its start. -/
def Dev.openSlip (u : SlipUse) (d : Dev) : Dev :=
  ((d.heat u.base u.dirLen).traffic false false u.base u.dirLen).each (indexed u.k.tileList) fun t e =>
    e.putStream (Fin.ofNat 12 t.2.1) (d.streamAt u t.1)

/-- The slip-coded buffers of a layer's matrix kernels. -/
def Image.slipUses (im : Image) (l : Launch) (layer : Nat) : List SlipUse :=
  (indexed im.kernels).flatMap fun k =>
    if k.2.kind = 0 && k.2.layer == layer then
      (distinct ([k.2.bufA, k.2.bufB, k.2.bufAux].filter l.slips.contains)).map fun b => { l := l, im := im, kernel := k.1, k := k.2, buf := b }
    else []

def Dev.openSlips (l : Launch) (layer : Nat) (d : Dev) : Dev :=
  match d.imageOf l with
  | some im => d.each (im.slipUses l layer) Dev.openSlip
  | none => d

-- The window's gate (R250)

/-- The next use of a layer that no launch has consumed. -/
def Dev.nextUse (d : Dev) (w : Window) (layer : Nat) : Nat :=
  let taken := w.released ++ (d.launches.filter fun l => l.handle == w.program).flatMap fun l => l.uses.map fun u => u.1
  ((List.range (taken.length + 1)).map fun i => layer + i * w.layers.length).find? (fun n => !taken.contains n) |>.getD layer

/-- R250, R268: the launch passes the gate of a layer, taking the layer's use and checking its directories if it has not yet; none while it
waits. -/
def Dev.gate (l : Launch) (layer : Nat) (d : Dev) : Option Dev :=
  match d.windowOf l.handle with
  | none => some d
  | some w =>
    if l.uses.any fun u => u.2 == layer then some d
    else if d.launches.any fun m => decide (m.id < l.id) && m.alive && m.handle == l.handle && !(m.uses.any fun u => u.2 == layer) then none
    else
      let n := d.nextUse w layer
      if n < w.filled && (w.passes == 0 || decide (n < w.passes * w.layers.length)) then
        some ((d.modLaunch l.id fun x => { x with uses := x.uses ++ [(n, layer)] }).openSlips l layer)
      else none

end Sys2Proof.Machine
end

