-- ==== Sys2Proof/Machine/TileExec.lean ====
section
/-! DEFINITION. Matrix executions: tile-ready moves, dispatch, the outcome at the end, closes into buffers and chains, the capture of a short
accumulator (R49 to R60, R76 to R98, R101 to R104, R205, R211, R214 to R217, R226, R255, R504, R528). -/
namespace Sys2Proof.Machine

/-- R226, R214: the operand a move brings, and the ranges it reads. -/
def Dev.operandOf (d : Dev) (j : TileJob) (side : Nat) : Operand × List (Nat × Nat) :=
  let i := j.sideBuf side
  let n := j.span side
  let rows := (j.lines side).map fun r => d.bufRow j.place i (j.first side) n (j.extOf side) r
  let rs := (j.lines side).flatMap fun r => d.bufRowRanges j.place i (j.first side) n (j.extOf side) r
  ({ fmt := d.readFmt j.place i, rows := rows }, rs)

/-- R255: the operand of a slip-coded buffer from the next bytes of its stream; none while they are not there. -/
def slipOperand (j : TileJob) (side : Nat) (bs : List Byte) : Option (Operand × Nat) :=
  match j.im.buf (j.sideBuf side) with
  | none => none
  | some b =>
    let ext := min (j.span side) (j.extOf side - j.first side)
    let n := (j.lines side).length
    let len := b.regionLen n ext
    if bs.length < len then none
    else some ({ fmt := b.fmt, rows := rowsOfBytes b n (j.span side) ext (bs.take len) }, len)

-- Dispatch

/-- A tile's work for a launch. -/
def Dev.tileWork (d : Dev) (l : Launch) (im : Image) (k : Fin 12) (t : Fin 16) : List (Nat × Exec) := d.workAt l im (.tile k.val t.val)

/-- The execution a move may fill for now: the tile's next one, or, while it runs and the operands are double-buffered, the one
after (R202, R226). -/
def Dev.fillable (d : Dev) (l : Launch) (im : Image) (k : Fin 12) (t : Fin 16) : Option (Nat × Exec) :=
  let w := d.tileWork l im k t
  match (d.tile k t).running with
  | some r =>
    if r.launch ≠ l.id then w.head?
    else
      match w.find? fun p => p.1 != r.ix with
      | some p =>
        match im.kernelOf p.2 with
        | some kn => (match im.loopsOf kn with | some (_, _, b, _) => if bit b.flags 2 then some p else none | none => none)
        | none => none
      | none => none
  | none => w.head?

def TileSt.readyFor (t : TileSt) (launch ix side : Nat) : Option Operand :=
  (t.ready.find? fun r => r.launch == launch && r.ix == ix && r.side == side).map (·.op)

/-- R256: a stream is read again from its start; the blocks of it that were queued go. -/
def Dev.slipRestart (k : Fin 12) (s : SlipStream) (first n : Nat) (d : Dev) : Dev :=
  let x := d.slip k
  (d.setSlip k ({ x with queue := x.queue.filter fun q => !q.isOf s } : SlipPart).settle).putStream k (s.again first n)

/-- R255, R256, R272: a move of a slip-coded buffer takes its bytes from the tile's stream, or waits for them: behind the moves of the
same execution that come first, and from the stream's first block again where it has gone past them. -/
def Dev.slipMove (k : Fin 12) (t : Fin 16) (l : Launch) (j : TileJob) (p : Nat × Exec) (side : Nat) (put : Operand → Dev → Dev)
    (d : Dev) : Dev :=
  let buf := j.sideBuf side
  let use : SlipUse := { l := l, im := j.im, kernel := p.2.kernel, k := j.k, buf := buf }
  match d.findStream k l.id p.2.kernel buf p.2.unit, (d.slipMoves use p.2.unit).1.find? fun m => m.ix == p.1 && m.side == side with
  | some s, some m =>
    match s.struck with
    | some w => d.launchStruck l.id w
    | none =>
      if j.sides.any fun q => decide (q < side) && j.sideBuf q == buf && ((d.tile k t).readyFor l.id p.1 q).isNone then d
      else if m.first < s.pos then d.slipRestart k s m.first m.len
      else
        let s1 := s.await m.first m.len
        match slipOperand j side s1.ready with
        | none =>
          let d1 := d.putStream k s1
          if s.entry.kind = 1 then d1.setSlip k { d1.slip k with frStallSeen := true } else d1
        | some r => put r.1 (d.putStream k (s1.take r.2))
  | _, _ => d

/-- TILE_READY_MOVE (R226). A move waits for the window's gate, and one of a slip-coded buffer for its stream. -/
def Dev.readyMove (k : Fin 12) (t : Fin 16) (launch ix side : Nat) (d : Dev) : Dev :=
  match d.launchOf launch with
  | none => d
  | some l =>
    match d.imageOf l with
    | none => d
    | some im =>
      match (if l.phase == .running && d.running then d.fillable l im k t else none) with
      | none => d
      | some p =>
        let resident := match (d.tile k t).running with
          | some r => r.launch == launch && (match (d.scheduleOf l)[r.ix]? with | some x => im.keepsSide x p.2 side | none => false)
          | none => false
        if p.1 ≠ ix || resident || ((d.tile k t).readyFor launch ix side).isSome then d
        else
          match jobOf im l p.2, d.gate l (im.layerOf p.2) with
          | some j, some d1 =>
            if !j.sides.contains side then d
            else
              let put (op : Operand) (d : Dev) : Dev :=
                d.modTile k t fun x => { x with ready := x.ready ++ [{ launch := launch, ix := ix, side := side, op := op }] }
              let i := j.sideBuf side
              if l.slips.contains i then d1.slipMove k t l j p side put
              else
                let r := d1.operandOf j side
                match d1.mem.struckIn r.2 with
                | some a => d1.launchStruck launch a
                | none => put r.1 (if im.stageBytes j.k = 0 then d1.readOut false r.2 else (d1.readOut false r.2).scratchTouched k l.handle)
          | _, _ => d

def execTileReadyMove (k : Fin 12) (t : Fin 16) (launch ix : Nat) (side : Fin 3) (s : State) : Out :=
  .next (s.onDev (Dev.readyMove k t launch ix side.val))

/-- R211: an UNBOUND tile and the tile that serves it take turns while both have work. -/
def Dev.turnOk (d : Dev) (l : Launch) (im : Image) (k : Fin 12) (t : Fin 16) : Bool :=
  let kn := d.kiln k
  let s := kn.server t.val
  let busy (x : Nat) : Bool := match kn.tiles[x]? with | some y => y.running.isSome | none => false
  let peers := (List.range 16).filter fun x => x != t.val && kn.server x == s
  let turn := match kn.tiles[s]? with | some y => y.turn | none => false
  kn.boundTiles.contains s && !busy t.val && !(peers.any busy) &&
  (peers.isEmpty ||
   (if t.val = s then !turn || !(peers.any fun x => !(d.workAt l im (.tile k.val x)).isEmpty)
    else turn || (d.workAt l im (.tile k.val s)).isEmpty))

/-- Groups of other launches on a tile: those of lower classes may be saved, others must close first (R91, R426). -/
def Dev.groupsYield (d : Dev) (l : Launch) (k : Fin 12) (t : Fin 16) : Bool :=
  (d.tile k t).groups.all fun g => g.launch == l.id || g.saved ||
    (match d.launchOf g.launch with | some m => decide (m.cls < l.cls) | none => true)

/-- Which execution a start would dispatch but for its operands, with its launch and job; none while something else holds it. -/
def Dev.nextStart (k : Fin 12) (t : Fin 16) (launch : Nat) (d : Dev) : Option (Launch × TileJob × Nat × Dev) :=
  match d.launchOf launch with
  | none => none
  | some l =>
    match d.imageOf l with
    | none => none
    | some im =>
      if !(d.running && l.phase == .running && !(d.kiln k).halted && d.inOrder l && !d.outranked l (.tile k.val t.val) &&
           d.turnOk l im k t && d.groupsYield l k t) then none
      else
        match (d.tileWork l im k t).head? with
        | none => none
        | some p =>
          match jobOf im l p.2, d.gate l (im.layerOf p.2) with
          | some j, some d1 => some (l, j, p.1, d1)
          | _, _ => none

/-- R226: every operand of an execution is marked ready. -/
def Dev.sidesReady (d : Dev) (k : Fin 12) (t : Fin 16) (x : Launch × TileJob × Nat × Dev) : Bool :=
  x.2.1.sides.all fun s => ((d.tile k t).readyFor x.1.id x.2.2.1 s).isSome

/-- Which execution a start dispatches; none while something holds it or an operand is missing. -/
def Dev.startable (k : Fin 12) (t : Fin 16) (launch : Nat) (d : Dev) : Option (Launch × TileJob × Nat × Dev) :=
  match d.nextStart k t launch with
  | some x => if d.sidesReady k t x then some x else none
  | none => none

/-- The groups at an execution's position. -/
def TileJob.groupsOn (j : TileJob) (t : TileSt) (launch : Nat) : List TileGroup :=
  t.groups.filter fun g => g.launch == launch && g.kernel == j.x.kernel && g.entry == j.x.entry && g.head == j.x.head &&
    g.m == j.x.pos.1 && g.n == j.x.pos.2.1

/-- R88, R89, R90: the groups an execution opens, with +0 or the initial values: none where its position's groups are open. They take
the lowest numbers free among the launch's own groups, in G's order (DESIGN CHOICE, log 135). -/
def TileJob.opens (j : TileJob) (t : TileSt) (launch : Nat) (init : Option Operand) : List TileGroup :=
  if !(j.groupsOn t launch).isEmpty then []
  else
    let nWise := match j.im.loopsOf j.k with | some (_, _, _, g) => g.order == 2 | none => false
    let order : List (Nat × Nat) :=
      if nWise then (List.range j.ab.2).flatMap fun b => (List.range j.ab.1).map fun a => (a, b)
      else (List.range j.ab.1).flatMap fun a => (List.range j.ab.2).map fun b => (a, b)
    let free := (List.range 8).filter fun n => !t.groups.any fun g => g.launch == launch && g.num == n
    let rowsOf (a b : Nat) : List (List Word) :=
      (List.range (min j.blk.1 (j.rows - a * j.blk.1))).map fun r =>
        let n := min j.blk.2 (j.cols - b * j.blk.2)
        match init with
        | some op => ((((op.rows.getD (a * j.blk.1 + r) (.wide [])).vals j.cols).map ofV).drop (b * j.blk.2)).take n
        | none => List.replicate n 0#32
    (indexed order).map fun p =>
      { num := free.getD p.1 p.1, launch := launch, kernel := j.x.kernel, entry := j.x.entry, head := j.x.head, m := j.x.pos.1,
        n := j.x.pos.2.1, acc := { gm := p.2.1, gn := p.2.2, rows := rowsOf p.2.1 p.2.2 } }

/-- R91: save the groups of a tile that a test picks, each counted and copied to the scratchpad. -/
def Dev.saveTile (k : Fin 12) (t : Fin 16) (f : TileGroup → Bool) (d : Dev) : Dev :=
  let gs := (d.tile k t).groups.filter fun g => f g && !g.saved
  if gs.isEmpty then d
  else
    ((d.modTile k t fun x => { x with groups := x.groups.map fun g => if f g then { g with saved := true } else g }).each gs fun g d =>
      match d.launchOf g.launch with
      | some l => d.scratchTouched k l.handle
      | none => d).count (kilnDie k) 0x0B t.val gs.length

/-- R91, R161: save the rows of pipelines of a kiln that a test of (logical pipeline, state) picks: m, l and O are a group of the value
tile. -/
def Dev.savePipes (k : Fin 12) (f : Nat → PipeSt → Bool) (d : Dev) : Dev :=
  let ps := (d.kiln k).pipes.filter fun q => f q.1 q.2 && !q.2.saved
  if ps.isEmpty then d
  else
    (d.modKiln k fun (x : Kiln) => { x with pipes := x.pipes.map fun q => if f q.1 q.2 then (q.1, { q.2 with saved := true }) else q }).each
      ps fun q d =>
        let d1 := match d.launchOf q.2.launch with | some l => d.scratchTouched k l.handle | none => d
        d1.count (kilnDie k) 0x0B ((d.kiln k).pipeTiles ((d.kiln k).pipeServer q.1)).2.val 1
/-- The rows that lie in a logical tile, as the value tile of its pipeline. -/
def Kiln.rowsIn (x : Kiln) (t : Fin 16) (lp : Nat) : Bool := (x.pipeTiles (x.pipeServer lp)).2 == t

/-- R61: does an execution that starts at a format run wider than its mark because its layer escalated. -/
def Kernel.escalates (k : Kernel) (start : Nat) : Bool := decide (execFormatCode k.mark < start)

/-- TILE_EXECUTION_START (R226, R53, R61, R89, R91, R211): dispatch the tile's next execution of a launch. The groups of other launches,
and those of the schedules that the same physical tile serves, are saved; the launch's own are restored, and new ones open. -/
def Dev.tileStart (k : Fin 12) (t : Fin 16) (launch : Nat) (d : Dev) : Dev :=
  match d.startable k t launch with
  | none => d
  | some (l, j, ix, d0) =>
    let d1 := d0.takePolicy launch
    let pol := l.policy.getD d.num
    let reference := l.reference pol
    let start := (j.im.startOf pol reference (d.execHere j.im) (d.scheduleOf l) l.done ix).getD 0
    let fmt := (j.im.fmtsFrom j.k reference start).headD .fp32
    let s := (d.kiln k).server t.val
    let opened := j.opens (d.tile k t) launch ((d.tile k t).readyFor launch ix 2)
    let peers := (List.finRange 16).filter fun x => x != t && (d.kiln k).server x.val == s
    let d2 := ((d1.saveTile k t fun g => g.launch != launch).savePipes k fun lp q => q.launch != launch && (d.kiln k).rowsIn t lp).each
      peers fun x d => d.saveTile k x fun _ => true
    let d3 := d2.modTile k t fun x =>
      { x with running := some { launch := launch, ix := ix, rung := 0, start := start, fmtCode := execFormatCode fmt,
                                 promote := if j.k.promote = 0 then 2 else j.k.promote, opened := !opened.isEmpty },
               groups := (x.groups.map fun g => if g.launch = launch then { g with saved := false } else g) ++ opened }
    let d4 := if s = t.val then d3.modTile k t (fun x => { x with turn := true })
              else d3.modTile k (Fin.ofNat 16 s) (fun x => { x with turn := false })
    if j.k.escalates start then d4.modKiln k (fun (x : Kiln) => { x with trouble := x.trouble ||| 32#7 }) else d4

def execTileExecutionStart (k : Fin 12) (t : Fin 16) (launch : Nat) (s : State) : Out := .next (s.onDev (Dev.tileStart k t launch))

-- What an execution computes

/-- What one run of an execution gives: the groups after it, its detectors' bits, and their counts. -/
structure TileOut where
  groups : List TileGroup
  det : Nat
  sat : Nat
  flush : Nat
  folds : Nat
  nanInf : Bool
  a : Prep
  b : Prep
  deriving DecidableEq, Repr

/-- R218: segments of an execution: those of a REFERENCE one at FP32, else one. -/
def TileJob.segs (j : TileJob) (reference : Bool) : Nat :=
  if reference && j.k.wideFmt == 2 && !j.k.mark.isWide then max 1 (cdiv j.blocks (j.im.segBlocks j.k)) else 1
/-- R218: the first K-block of a segment and how many it has. -/
def TileJob.segSpan (j : TileJob) (reference : Bool) (seg : Nat) : Nat × Nat :=
  if j.segs reference = 1 then (0, j.blocks)
  else (seg * j.im.segBlocks j.k, min (j.im.segBlocks j.k) (j.blocks - seg * j.im.segBlocks j.k))

/-- K-blocks b0 to b0 + n − 1 of an operand. -/
def Operand.cut (op : Operand) (b0 n : Nat) : Operand :=
  { op with rows := op.rows.map fun r => match r with
    | .wide xs => .wide ((xs.drop (32 * b0)).take (32 * n))
    | .stored bs => .stored ((bs.drop b0).take n) }

/-- R44 to R49, R75 to R85: one run of a segment at a format. -/
def TileJob.run (j : TileJob) (pol : NumPolicy) (reference : Bool) (fmt : BFmt) (t : TileSt) (launch ix seg : Nat) : TileOut :=
  let s := j.segSpan reference seg
  let prep (side cap blk : Nat) : Prep :=
    match t.readyFor launch ix side with
    | none => { rows := [] }
    | some op =>
      let q : QuantCtx := { pol := pol, run := fmt, outlier := j.k.range == 2 && !reference, rotate := j.rotates reference side,
                            seed := j.k.rotSeed, group := rotGroup j.k.kMax, k0 := j.k0 + 32 * s.1, nkb := s.2, kExt := j.extOf side }
      prepOperand q cap blk s.2 (if s.2 < j.blocks then op.cut s.1 s.2 else op)
  let a := prep 0 128 j.blk.1
  let b := prep 1 256 j.blk.2
  let gs := j.groupsOn t launch
  let out := if j.blocks = 0 then
      ({ groups := gs.map (·.acc), nanInf := gs.any fun g => g.acc.rows.any fun r => r.any fun x => !isFinite x } : SumOut)
    else execSums (fmt == .fp32) (promoteP j.k.promote) j.blk.1 j.blk.2 a b (gs.map (·.acc))
  let sat := a.ev.sat + b.ev.sat
  let flush := a.ev.flush + b.ev.flush
  let folds := a.folds + b.folds
  { groups := (gs.zip out.groups).map fun p => { p.1 with acc := p.2 }, det := detectors pol sat flush folds out.nanInf, sat := sat,
    flush := flush, folds := folds, nanInf := out.nanInf, a := a, b := b }

/-- R80, R84, R103: the short accumulator of an element of a group after the update of K-block i of a run, with its residue and the
K-blocks since the last promotion. Padding holds +0. -/
def TileOut.short (o : TileOut) (j : TileJob) (g : TileGroup) (row col i : Nat) : Nat × Nat × Nat :=
  let n := i % promoteP j.k.promote + 1
  let sums : List FV := match (blockRows o.a.rows j.blk.1 g.acc.gm)[row]?, (blockRows o.b.rows j.blk.2 g.acc.gn)[col]? with
    | some a, some b => (((a.zipWith dotBlock b).drop (i + 1 - n)).take n)
    | _, _ => []
  let s := sums.foldl shortAdd 0
  (s, shortResidue s, n)

/-- R528: a run's time with a K index in the multipliers. -/
def Dev.holdK (k : Fin 12) (t : Fin 16) (j : TileJob) (fmt : BFmt) (blocks : Nat) (d : Dev) : Dev :=
  d.count (kilnDie k) 0x09 t.val (execTime fmt j.blk (j.ab.1 * j.ab.2) blocks 0 - 36)

/-- R102 to R104: a capture that waits takes its element at the group's next update, accepted or not. One written while the tile runs
falls on an update of the run that the choice gives, or on none of them (DESIGN CHOICE, log 137); a run's updates are those of
each native block in turn (R93). At FP32 there are no short accumulators (R85). -/
def Dev.capture (k : Fin 12) (t : Fin 16) (j : TileJob) (fmt : BFmt) (o : TileOut) (d : Dev) : Dev :=
  let s := (d.kiln k).sacc
  match o.groups.find? fun g => g.num == s.group with
  | some g =>
    if d.ctrs.debugMode && s.pending && s.tile == t.val && fmt != .fp32 && 0 < j.blocks then
      let nat_ := nativeBlock fmt
      let wide := max 1 (cdiv j.blk.2 nat_.2)
      let c := if s.mid then d.choose (wide * j.blocks + 1) else (0, d)
      if c.1 = wide * j.blocks then c.2.modKiln k fun (x : Kiln) => { x with sacc := { s with mid := false } }
      else
        let r := o.short j g s.row (c.1 / j.blocks * nat_.2 + min s.column (nat_.2 - 1)) (c.1 % j.blocks)
        c.2.modKiln k fun (x : Kiln) => { x with sacc :=
          { s with pending := false, mid := false, valid := true, value := r.1, residue := r.2.1, blocks := r.2.2 } }
    else d
  | none => d

/-- R54, R528: what detectors that fired leave in KLN_TROUBLE_STATUS, and the counts of events. -/
def Dev.recordDet (k : Fin 12) (t : Nat) (det sat flush folds nan : Nat) (widen final : Bool) (d : Dev) : Dev :=
  let d1 := (((d.count (kilnDie k) 0x04 t sat).count (kilnDie k) 0x05 t flush).count (kilnDie k) 0x06 t folds).count (kilnDie k) 0x07 t nan
  if det = 0 then d1
  else
    d1.modKiln k fun (x : Kiln) => { x with
      trouble := x.trouble ||| BitVec.ofNat 7 (det + (if widen then 16 else 0) + (if final then 64 else 0)), lastTile := t, lastDet := det }

-- Closes and chains

/-- R203: does the tile add to the position's groups again: a later execution of the run holds them open. -/
def Dev.addsLater (d : Dev) (l : Launch) (im : Image) (ix : Nat) (x : Exec) : Bool :=
  (d.todo l im).any fun p => p.1 != ix && p.2.kernel == x.kernel && p.2.entry == x.entry && p.2.head == x.head && p.2.unit == x.unit &&
    p.2.pos.1 == x.pos.1 && p.2.pos.2.1 == x.pos.2.1

/-- R78: the factor of a close. -/
def TileJob.scale (j : TileJob) : Word × Word :=
  let ts (i : Nat) : Word := match j.im.buf i with | some b => b.tscale | none => 0
  (ts j.k.bufA, ts j.k.bufB)

/-- R37: a logical tile's number in the stochastic sequence (log 27). -/
def tileNumber (k t : Nat) : Nat := 16 * k + t

/-- Results of a write: memory, and the launch's conversion events (R50). -/
def Dev.putResults (alloc : Bool) (id : Nat) (r : List OutBytes × ConvEv) (d : Dev) : Dev :=
  (d.storeOut alloc r.1).modLaunch id fun l => { l with convEvents := l.convEvents + r.2.total }

/-- R205: the position of a chain, by its run's key. -/
def Launch.chainAt (l : Launch) (x : Exec) : Option ChainRun :=
  l.chains.find? fun c => c.kernel == x.kernel && c.entry == x.entry && c.head == x.head && c.m == x.pos.1 && c.n == x.pos.2.1

def segWords : Nat := 1024

/-- Segments of a region of some rows: its elements in ascending order run row by row over the whole region, whatever groups it has
(R98; DEDUCED, log 136). -/
def segsOf (rows : List (List Word)) : Nat := cdiv (sumNat (rows.map (·.length))) segWords
def segment (rows : List (List Word)) (i : Nat) : List Word := ((rows.flatMap id).drop (segWords * i)).take segWords

/-- The running sum of member i in a segment: its partial for member 0. -/
def ChainRun.sumAt (c : ChainRun) (i seg : Nat) : Option (List Word) :=
  if i = 0 then (c.partials.find? fun p => p.1 == 0).map fun p => segment p.2 seg
  else (c.sums.find? fun s => s.1 == i && s.2.1 == seg).map (·.2.2)

/-- The message that carries a segment to a member on another device (R98, R205, R361; its fields are DEDUCED, log 28). -/
def chainMsg (g : Group) (rank kernel member seg : Nat) (c : ChainRun) (xs : List Word) : CMsg :=
  { parseMsg (List.replicate 64 0#8) with
    group := g.handle, epoch := g.epoch, seq := c.entry, bucket := kernel, shard := at_ 16 c.m + c.n, rank := rank, kind := mChain, op := 0,
    job := c.head, count := member, offset := 4096 * seg, data := xs.flatMap fun w => leBytes 4 w.toNat }

/-- Send a segment on, where the next member lies on another device. -/
def Dev.chainForward (launch : Nat) (ch : Chain) (c : ChainRun) (i seg : Nat) (d : Dev) : Dev :=
  match ch.members[i]?, ch.members[i + 1]?, d.group ch.group with
  | some me, some nxt, some g =>
    if ch.scope = 0 || nxt.rank = me.rank then d
    else
      match c.sumAt i seg with
      | some xs => d.sendRank g nxt.rank (chainMsg g me.rank c.kernel (i + 1) seg c xs) (.launch launch)
      | none => d
  | _, _, _ => d

/-- R97, R98: the run of a chain has done all it does on this device. -/
def ChainRun.over (c : ChainRun) (ch : Chain) (rank : Nat) : Bool :=
  (indexed ch.members).all fun m =>
    m.2.rank != rank || (match c.partials.find? fun p => p.1 == m.1 with
      | some p => m.1 == 0 || decide (segsOf p.2 ≤ (c.sums.filter fun s => s.1 == m.1).length)
      | none => false)

def Launch.putChain (c : ChainRun) (l : Launch) : Launch :=
  let same (x : ChainRun) : Bool := x.kernel == c.kernel && x.entry == c.entry && x.head == c.head && x.m == c.m && x.n == c.n
  if l.chains.any same then { l with chains := l.chains.map fun x => if same x then c else x } else { l with chains := l.chains ++ [c] }

/-- A chain run after it changed: over or not (R98). -/
def Dev.chainPut (launch : Nat) (ch : Chain) (c : ChainRun) (d : Dev) : Dev :=
  if c.over ch (d.chainRank ch) then
    (d.modLaunch launch (Launch.putChain { c with written := true, partials := [], sums := [], heads := [] })).kernelSettle launch c.kernel
  else d.modLaunch launch (Launch.putChain c)

/-- R89, R205: a close into the chain: the member's partial waits for its segments; member 0's are sent on. -/
def Dev.closeChain (launch : Nat) (x : Exec) (ch : Chain) (i : Nat) (rows : List (List Word)) (d : Dev) : Dev :=
  match d.launchOf launch with
  | none => d
  | some l =>
    let c0 : ChainRun := (l.chainAt x).getD { kernel := x.kernel, entry := x.entry, head := x.head, m := x.pos.1, n := x.pos.2.1 }
    let c := { c0 with partials := c0.partials ++ [(i, rows)] }
    let d1 := if i = 0 then d.each (List.range (segsOf rows)) (Dev.chainForward launch ch c 0) else d
    d1.chainPut launch ch c

/-- R94, R89: a launch that was cancelled: the ending execution writes nothing, and its groups on the tile are free. -/
def Dev.tileDrop (k : Fin 12) (t : Fin 16) (launch : Nat) (d : Dev) : Dev :=
  d.modTile k t fun x => { x with running := none, groups := x.groups.filter fun g => g.launch != launch }

/-- The end of an accepted execution: closes, groups, operands (R55, R89, R94). -/
def Dev.tileAccept (k : Fin 12) (t : Fin 16) (l : Launch) (j : TileJob) (r : Running) (fmt : BFmt) (o : TileOut) (d : Dev) : Dev :=
  let closes := !d.addsLater l j.im r.ix j.x
  let pol := l.policy.getD d.num
  let next := ((d.tileWork l j.im k t).find? fun p => p.1 != r.ix)
  let d1 := d.modTile k t fun x =>
    { x with running := none,
             groups := (x.groups.filter fun g => !(j.groupsOn x l.id).contains g) ++ (if closes then [] else o.groups),
             ready := x.ready.filterMap fun q =>
               if q.launch = l.id && q.ix = r.ix then
                 (match next with
                  | some n => if j.im.keepsSide j.x n.2 q.side then some { q with ix := n.1 } else none
                  | none => none)
               else some q }
  let final := bit o.det 3
  let esc := j.k.escalates r.start
  let d2 := (d1.recordDet k t.val o.det o.sat o.flush o.folds (b2n o.nanInf) false final).count (kilnDie k) 0x01 t.val 1
  let d3 := (if esc then d2.count (kilnDie k) 0x08 t.val 1 else d2).modLaunch l.id fun x => { x with nanFinal := x.nanFinal || final }
  let sc := j.scale
  let rows := regionRows j.ab.1 j.ab.2 ((o.groups.map (·.acc)).map (closeGroup sc.1 sc.2))
  if l.dropsResults then d3.tileDrop k t l.id
  else
    let d4 :=
      if !closes then d3
      else
        match j.im.memberOf j.x with
        | some (ch, i) => d3.closeChain l.id j.x ch i rows
        | none =>
          let wc := d3.writer pol l.seed (tileNumber k.val t.val)
          d3.putResults false l.id (d3.rowsOut wc j.place j.k.bufOut j.col0 j.row0 0 (j.ab.2 * j.blk.2) rows)
    d4.execDone l.id { ix := r.ix, code := execFormatCode fmt, wide := decide (execFormatCode j.k.mark < execFormatCode fmt), escalated := esc }
      j.x.kernel

/-- R218: the end of an accepted segment that others follow: its groups stay open, its operands ready, and the next segment comes. -/
def Dev.segAccept (k : Fin 12) (t : Fin 16) (l : Launch) (j : TileJob) (r : Running) (o : TileOut) (d : Dev) : Dev :=
  let final := bit o.det 3
  let d1 := d.modTile k t fun x =>
    { x with running := none, groups := (x.groups.filter fun g => !(j.groupsOn x l.id).contains g) ++ o.groups }
  let d2 := ((d1.recordDet k t.val o.det o.sat o.flush o.folds (b2n o.nanInf) false final).count (kilnDie k) 0x01 t.val 1).modLaunch l.id
    fun x => { x with nanFinal := x.nanFinal || final }
  if l.dropsResults then d2.tileDrop k t l.id
  else d2.modLaunch l.id fun x => { x with segs := x.segs.filter (fun p => p.1 != r.ix) ++ [(r.ix, x.segAt r.ix + 1)] }

/-- TILE_EXECUTION_END (R55, R58 to R62, R92, R94): kept, repeated or discarded. While R61's w(j) is not yet known the results
wait; a launch that stops at its boundaries drops them and runs the execution again (DEDUCED, log 29). The repeat of a residue
failure or of a detector comes before a cancel. -/
def Dev.tileEnd (k : Fin 12) (t : Fin 16) (residueFail : Bool) (d : Dev) : Dev :=
  match (d.tile k t).running with
  | none => d
  | some r =>
    let idle := d.modTile k t fun x => { x with running := none }
    let go (r : Running) (d : Dev) : Dev := d.modTile k t fun x => { x with running := some r }
    match d.launchOf r.launch with
    | none => idle
    | some l =>
      if !l.mayEnd then d
      else
        match (d.imageOf l).bind fun im => ((d.scheduleOf l)[r.ix]?).bind (jobOf im l) with
        | none => idle
        | some j =>
          let pol := l.policy.getD d.num
          let reference := l.reference pol
          let fmts := j.im.fmtsFrom j.k reference r.start
          let fmt := fmts.getD r.rung .fp32
          let seg := l.segAt r.ix
          let o := j.run pol reference fmt (d.tile k t) l.id r.ix seg
          let d1 := (d.holdK k t j fmt (j.segSpan reference seg).2).capture k t j fmt o
          if residueFail then
            (((go { r with repeating := true } d1).modTile k t fun x => { x with residueFails := satAdd 0xFF x.residueFails 1 }).count
              (kilnDie k) 0x03 t.val 1).tileEvent k t
          else
            match j.im.startOf pol reference (d.execHere j.im) (d.scheduleOf l) l.done r.ix with
            | none =>
              if l.phase == .running then d
              else if l.dropsResults then d1.tileDrop k t l.id
              else d1.modTile k t fun x =>
                { x with running := none, groups := x.groups.filter fun g => !(r.opened && (j.groupsOn x l.id).contains g) }
            | some start =>
              if start ≠ r.start then
                (go { r with rung := 0, start := start, repeating := false,
                             fmtCode := execFormatCode ((j.im.fmtsFrom j.k reference start).headD .fp32) } d1).modKiln k
                  fun (x : Kiln) => { x with trouble := x.trouble ||| (if j.k.escalates start then 32#7 else 0#7) }
              else
                match fmts[r.rung + 1]? with
                | some f2 =>
                  if o.det ≠ 0 && pol.widen then
                    ((go { r with rung := r.rung + 1, repeating := true, fmtCode := execFormatCode f2 } d1).recordDet k t.val o.det o.sat
                      o.flush o.folds (b2n o.nanInf) true false).count (kilnDie k) 0x02 t.val 1
                  else d1.tileAccept k t l j r fmt o
                | none => if seg + 1 < j.segs reference then d1.segAccept k t l j r o else d1.tileAccept k t l j r fmt o

-- Host preemption (R412, R428)

/-- The command a launch belongs to. -/
def Launch.cmdOf (l : Launch) : Option Nat := match l.owner with | .cmd c => some c | .listRec c _ => some c | .candle _ _ _ => none
def Dev.launchesOf (d : Dev) (cmd : Nat) : List Launch := d.launches.filter fun l => l.alive && l.cmdOf == some cmd

/-- Does a tile run an execution of a launch. -/
def Dev.tileRuns (d : Dev) (id : Nat) : Bool :=
  d.kilns.toList.any fun k => k.tiles.toList.any fun t => match t.running with | some r => r.launch == id | none => false

/-- A preempted launch's open groups are saved (R91, R412). -/
def Dev.saveGroups (id : Nat) (d : Dev) : Dev :=
  d.each (List.finRange 12) fun k d =>
    (d.each (List.finRange 16) fun t d => d.saveTile k t fun g => g.launch == id).savePipes k fun _ q => q.launch == id

/-- R91, R533: the open groups of a halted kiln's tiles that run nothing are saved. -/
def Dev.haltSave (k : Fin 12) (d : Dev) : Dev :=
  if !(d.kiln k).halted then d
  else (d.each (List.finRange 16) fun t d => if (d.tile k t).running.isSome then d else d.saveTile k t fun _ => true).savePipes k
    fun _ _ => true

/-- R256, R412: a preemption may lose the operands of the launch that lie in tile buffers, which are then moved again; whether it does is
the device's choice (DESIGN CHOICE, log 144). -/
def Dev.loseOperands (id : Nat) (d : Dev) : Dev :=
  let r := d.choose 2
  { r.2 with kilns := r.2.kilns.map fun (k : Kiln) => { k with tiles := k.tiles.map fun (t : TileSt) =>
    { t with ready := t.ready.filter fun x => !(r.1 == 1 && x.launch == id) } } }

/-- R412: launches whose tiles have all stopped are preempted, or have nothing left to run and go on to their end (R414); the
PREEMPTs that wait for them complete. -/
def Dev.preemptSettle (d : Dev) : Dev :=
  let d1 := d.each ((d.launches.filter fun l => l.phase == .preempting && !d.tileRuns l.id).map (·.id)) fun id d =>
    match d.launchOf id with
    | none => d
    | some l =>
      if ((d.imageOf l).bind (d.front l)).isNone then d.modLaunch id fun l => { l with phase := .running }
      else ((d.saveGroups id).loseOperands id).modLaunch id fun l => { l with phase := .preempted }
  d1.each (d1.link.cmds.filter fun c => c.pkt.opcode == 0x14#8) fun c d =>
    match c.phase with
    | .after t =>
      let ls := d.launchesOf t
      if ls.any (fun l => l.phase == .preempted) && !(ls.any fun l => l.phase == .preempting) then d.endCmd c.id stOk (vals 0 0 0) else d
    | _ => d

def execTileExecutionEnd (k : Fin 12) (t : Fin 16) (residueFail : Bool) (s : State) : Out :=
  .next (s.onDev fun d => ((d.tileEnd k t residueFail).haltSave k).preemptSettle)

end Sys2Proof.Machine
end

