-- ==== Sys2Proof/Machine/AttnExec.lean ====
section
/-! DEFINITION. Executions of attention pipelines, which run from dispatch to end in one event (R143 to R162, R510). -/
namespace Sys2Proof.Machine

/-- A launch that may run an execution at a place now, with its image. -/
def Dev.mayRun (launch : Nat) (p : Place) (d : Dev) : Option (Launch × Image) :=
  match d.launchOf launch with
  | none => none
  | some l =>
    match d.imageOf l with
    | none => none
    | some im => if d.running && l.phase == .running && d.inOrder l && !d.outranked l p then some (l, im) else none

-- Attention (R143 to R162)

/-- A key's K or V row of a block: zeros at or beyond min(ℓ_k, length), at pads and in a gathered block's padding (R157, R182). -/
def Dev.keyRow (d : Dev) (c : Ctx) (p : Pattern) (layer group part lk : Nat) (key : Option Nat) : OpRow × List (Nat × Nat) :=
  let hd := (headDim c.hdCode).getD 64
  let zero : OpRow := match ctxFmt c.fmtCode with
    | some (f, _) => zeroRow f.isWide hd
    | none => .wide []
  match key with
  | none => (zero, [])
  | some n =>
    if p.isPad n || min lk c.length ≤ n then (zero, [])
    else
      match d.ctxRow c layer group part n with
      | some q => (readRow d.mem q.1 q.2 0 hd hd 0 0 0, rowRanges q.1 q.2 0 hd hd 0 0 0)
      | none => (zero, [])

/-- What one attention execution works on. -/
structure AttnJob where
  im : Image
  k : Kernel
  e : Entry
  pat : Pattern
  c : Ctx
  head : Nat
  qb : Nat
  globals : List Nat
  deriving DecidableEq, Repr

def AttnJob.hd (j : AttnJob) : Nat := (headDim j.pat.hd).getD 64
/-- R153: the rows of the query block as (row, query index within the entry, head within the group). -/
def AttnJob.queries (j : AttnJob) : List (Nat × Nat × Nat) :=
  (List.range 128).map fun r => (r, (128 * j.qb + r) / j.pat.g, r % j.pat.g)
/-- R157: rows whose results are written: below the query count and no pad position. -/
def AttnJob.writes (j : AttnJob) (q : Nat) : Bool := decide (q < j.e.m) && !j.pat.isPad (j.e.qpos + q)
def AttnJob.place (j : AttnJob) (hr : Nat) : RowPlace := { im := j.im, e := j.e, layer := j.k.layer, head := j.head, d2 := hr }
def AttnJob.runs (j : AttnJob) : List (List (List Visit)) := j.pat.runsOf (j.pat.visitList j.e.k j.globals j.e.qpos j.e.m j.qb)
/-- The rows at the start of a part (R146). -/
def AttnJob.rows0 (j : AttnJob) : List AttnRow := j.queries.map fun _ => { o := List.replicate j.hd 0#32 }

/-- One run's outcome: rows, detectors, counts, and the ranges it read. -/
structure AttnRun where
  rows : List AttnRow
  sat : Nat := 0
  flush : Nat := 0
  folds : Nat := 0
  nanInf : Bool := false
  deriving DecidableEq, Repr

/-- The query operand of a block, with the ranges read; rows beyond the query count hold +0. -/
def Dev.queryOp (d : Dev) (j : AttnJob) : Operand × List (Nat × Nat) :=
  ({ fmt := match j.im.buf j.k.bufA with | some b => b.fmt | none => .bf16,
     rows := j.queries.map fun q => d.bufRow (j.place q.2.2) j.k.bufA 0 j.hd (if q.2.1 < j.e.m then j.hd else 0) q.2.1 },
   j.queries.flatMap fun q => d.bufRowRanges (j.place q.2.2) j.k.bufA 0 j.hd (if q.2.1 < j.e.m then j.hd else 0) q.2.1)

/-- R145 to R147, R160: one run of key blocks at a score format. ROTATE turns the queries along the head dimension, as the quantiser of
the M side does (R46; log 138); REFERENCE mode takes no range method (R67). -/
def Dev.attnRun (d : Dev) (j : AttnJob) (pol : NumPolicy) (reference : Bool) (fmt : BFmt) (bf16P : Bool) (visits : List Visit)
    (rows : List AttnRow) : AttnRun :=
  let ver := d.numerics
  let q : QuantCtx := { pol := pol, run := fmt, outlier := j.k.range == 2 && !reference, rotate := false, seed := j.k.rotSeed,
                        group := rotGroup j.hd, k0 := 0, nkb := j.hd / 32, kExt := j.hd }
  let qp := prepOperand { q with rotate := j.k.range == 1 && !reference } 128 128 (j.hd / 32) (d.queryOp j).1
  let kfmt := match ctxFmt j.c.fmtCode with | some (f, _) => f | none => .bf16
  let tq := match j.im.buf j.k.bufA with | some b => b.tscale | none => 0
  let cs := closeScale tq 0#32
  let sc := j.pat.scaleWord j.hd
  let P := promoteP j.k.promote
  let out := visits.foldl (fun (acc : AttnRun) v =>
    let keys := v.keys j.globals
    let kp := prepOperand q 256 128 (j.hd / 32)
      { fmt := kfmt, rows := keys.map fun n => (d.keyRow j.c j.pat j.k.layer j.head 0 j.e.k n).1 }
    let vs := keys.map fun n => ((d.keyRow j.c j.pat j.k.layer j.head 1 j.e.k n).1.vals j.hd)
    let step := (j.queries.zip (qp.rows.zip acc.rows)).map fun r =>
      let ss := kp.rows.map fun kr => accRun false P 0#32 (r.2.1.zipWith dotBlock kr)
      let masks := keys.map fun n => j.pat.masked j.e.k j.globals v (j.e.qpos + r.1.2.1) n
      let z := ss.map fun s => fmul (fmul s.long cs) sc
      let zm := (z.zip masks).map fun p => if p.2 then ninf else p.1
      let row := attnStep ver bf16P pol.mxFloor j.hd zm masks vs r.2.2
      (row, ss.any (·.bad) || z.any (fun x => !isFinite x) || row.o.any (fun x => !isFinite x) || !isFinite row.l)
    { rows := step.map (·.1), sat := acc.sat + kp.ev.sat, flush := acc.flush + kp.ev.flush, folds := acc.folds + kp.folds,
      nanInf := acc.nanInf || kp.nanInf || step.any (·.2) || vs.any fun x => x.any nonFiniteV })
    { rows := rows }
  { out with sat := out.sat + qp.ev.sat, flush := out.flush + qp.ev.flush, folds := out.folds + qp.folds, nanInf := out.nanInf || qp.nanInf }

/-- The ranges of memory a run reads. -/
def Dev.attnReads (d : Dev) (j : AttnJob) (visits : List Visit) : List (Nat × Nat) :=
  (d.queryOp j).2 ++ visits.flatMap fun v => (v.keys j.globals).flatMap fun n =>
    (d.keyRow j.c j.pat j.k.layer j.head 0 j.e.k n).2 ++ (d.keyRow j.c j.pat j.k.layer j.head 1 j.e.k n).2

/-- R148, R158: finished rows by row number, written under the masks of R157, element n of the output counting row by row with the head
dimension's width (R37, log 134); the row's m, l and status go to BUF_AUX's row (log 31). lp is the logical pipeline that finishes
them. -/
def Dev.attnWrite (k : Fin 12) (lp : Nat) (id : Nat) (seed : Long) (pol : NumPolicy) (j : AttnJob) (rows : List (Nat × AttnRow)) (d : Dev) : Dev :=
  let live := rows.filterMap fun r => (j.queries[r.1]?).bind fun q => if j.writes q.2.1 then some (q, r.2, attnFinish r.2) else none
  let empty := (live.filter fun o => o.2.2.status == 1).length
  let nan := (live.filter fun o => o.2.2.status == 4).length
  let wc := d.writer pol seed (tileNumber k.val (2 * lp + 1))
  let d1 := d.each live fun o d => d.putResults false id (d.rowOut wc (j.place o.1.2.2) j.k.bufOut 0 o.1.2.1 (o.1.1 * j.hd) o.2.2.vals)
  let d2 :=
    match j.im.buf j.k.bufAux with
    | some b =>
      if j.pat.writeStatus || j.pat.writeMl then
        d1.each live fun o d =>
          let bs := (if j.pat.writeMl then leBytes 4 o.2.1.m.toNat ++ leBytes 4 o.2.2.l.toNat else []) ++
            (if j.pat.writeStatus then leBytes 1 o.2.2.status else [])
          d.storeOut false [OutBytes.of (b.elemDa (j.im.baseOf j.k.bufAux j.e) 0 o.1.2.1 o.1.2.2 j.head) bs []]
      else d1
    | none => d1
  let d3 := d2.modLaunch id fun l => { l with emptyRows := l.emptyRows + empty, nanRows := l.nanRows + nan }
  (d3.modKiln k fun (x : Kiln) => { x with emptyRowSeen := x.emptyRowSeen || decide (0 < empty), nanRowSeen := x.nanRowSeen || decide (0 < nan) }).count
    (kilnDie k) 0x0E lp empty

/-- R151: a part has ended. With a chain record its partial joins the chain; else, when every part of the query block has ended, they
merge in ascending order and the last part's pipeline finishes the rows. -/
def Dev.attnEnd (id : Nat) (pol : NumPolicy) (x : Exec) (j : AttnJob) (rows : List AttnRow) (d : Dev) : Dev :=
  match d.launchOf id, j.im.memberOf x with
  | none, _ => d
  | some _, some (ch, i) => d.closeChain id { x with pos := (j.qb, 0, 0) } ch i (attnPartial rows)
  | some l, none =>
    let same (a : AttnPart) : Bool := a.kernel == x.kernel && a.entry == x.entry && a.head == x.head && a.qb == j.qb
    let mine : AttnPart := { kernel := x.kernel, entry := x.entry, head := x.head, qb := j.qb, part := x.pos.2.1, rows := rows }
    let parts := sortBy (fun (a b : AttnPart) => decide (a.part ≤ b.part)) ((l.attn.filter same) ++ [mine])
    if parts.length < j.runs.length then d.modLaunch id fun l => { l with attn := l.attn ++ [mine] }
    else
      let all_ := match parts.map (·.rows) with
        | [] => []
        | r :: rs => rs.foldl (fun acc x => acc.zipWith (attnMerge d.numerics) x) r
      let at_ := j.k.pipeList.getD (j.im.attnUnit j.k j.pat x.entry j.e x.head j.qb (j.runs.length - 1)) (0, 0)
      (d.modLaunch id fun l => { l with attn := l.attn.filter fun a => !same a }).attnWrite (Fin.ofNat 12 at_.1) at_.2 id l.seed pol j
        (indexed all_)

/-- What an attention execution works on, by its launch's lists (R156). -/
def Dev.attnJobOf (d : Dev) (l : Launch) (im : Image) (x : Exec) : Option AttnJob :=
  match im.kernels[x.kernel]?, l.entries[x.entry]? with
  | some k, some e =>
    match im.pattern k, d.cx.find e.ctx with
    | some pat, some c =>
      some { im := im, k := k, e := e, pat := pat, c := c, head := x.head, qb := x.pos.1, globals := l.globalsOf x.kernel }
    | _, _ => none
  | _, _ => none

/-- Is the state of a pipeline that of an execution's part. -/
def PipeSt.holds (q : PipeSt) (launch : Nat) (x : Exec) : Bool :=
  q.launch == launch && q.kernel == x.kernel && q.entry == x.entry && q.head == x.head && q.qb == x.pos.1 && q.part == x.pos.2.1

/-- The execution a formed pipeline does next for a launch: its number, itself, its job, its logical pipeline, and the rows it goes on
from, which are those at a part's start where the part begins (R144, R146, R151). -/
def Dev.pipeTake (d : Dev) (l : Launch) (im : Image) (k : Fin 12) (p : Fin 8) : Option (Nat × Exec × AttnJob × Nat × PipeSt) :=
  match (d.workAt l im (.pipe k.val p.val)).head? with
  | none => none
  | some (ix, x) =>
    (d.attnJobOf l im x).map fun j =>
      let lp := (j.k.pipeList.getD x.unit (0, 0)).2
      let st := match (d.kiln k).pipes.find? fun q => q.1 == lp && q.2.holds l.id x with
        | some q => q.2
        | none => { launch := l.id, kernel := x.kernel, entry := x.entry, head := x.head, qb := x.pos.1, part := x.pos.2.1, rows := j.rows0 }
      (ix, x, j, lp, st)

/-- R155's key blocks with a non-pad key that a query block leaves out. -/
def AttnJob.leftOut (j : AttnJob) : Nat :=
  ((List.range (j.pat.keyBlocks j.e.k)).filter fun b =>
    !(j.pat.visits j.e.k j.globals j.e.qpos j.e.m j.qb b) && (List.range 128).any fun i => !j.pat.isPad (128 * b + i)).length

/-- R510, R508: a residue failure in a pipeline, in its score tile, its value tile or its stage: which one, the event does not say
(a free choice, log 30). -/
def Dev.pipeResidue (k : Fin 12) (p : Fin 8) (d : Dev) : Dev :=
  let r := d.choose 3
  let ts := (d.kiln k).pipeTiles p.val
  if r.1 = 2 then r.2.stageEvent k ((d.kiln k).pipeStage p)
  else
    let t := if r.1 = 0 then ts.1 else ts.2
    ((r.2.modTile k t fun x => { x with residueFails := satAdd 0xFF x.residueFails 1 }).count (kilnDie k) 0x03 t.val 1).tileEvent k t

/-- R61, R160, R162: the forms from an escalated start code, or 0. -/
def Image.formsFrom (im : Image) (k : Kernel) (bf16P reference : Bool) (start : Nat) : List (BFmt × Bool) :=
  if reference then [(.bf16, true)]
  else
    let base := im.attnForms k bf16P
    if start = 0 || start < execFormatCode k.mark then base
    else if start = execFormatCode k.mark then (if 4 ≤ start then base.drop (base.length - 1) else base)
    else (fmtOfCode start, true) :: (base.filter fun f => start < execFormatCode f.1)

/-- R145: does the value product run at the BF16 and FP16 rate. -/
def valueWide (j : AttnJob) (form : BFmt × Bool) : Bool :=
  form.2 || (match ctxFmt j.c.fmtCode with | some (f, _) => f.isWide | none => false)

/-- R226, R426: a formed pipeline may begin an execution: nothing runs on its tiles, and no group of a launch of its class or a higher
one stays open there. -/
def Dev.pipeFree (d : Dev) (l : Launch) (k : Fin 12) (p : Fin 8) : Bool :=
  let ts := (d.kiln k).pipeTiles p.val
  let yields (q : PipeSt) : Bool :=
    q.launch == l.id || q.saved || (match d.launchOf q.launch with | some m => decide (m.cls < l.cls) | none => true)
  !(d.kiln k).halted && decide (p.val < (d.kiln k).pipesFormed) && [ts.1, ts.2].all (fun t => (d.tile k t).running.isNone && d.groupsYield l k t) &&
  (d.kiln k).pipes.all fun q => (d.kiln k).pipeServer q.1 != p.val || yields q.2

/-- R91, R161, R211: what an execution of a pipeline finds in its tiles is saved: the groups of other launches, and the rows of other
parts that the same formed pipeline serves. -/
def Dev.pipeSaves (k : Fin 12) (p : Fin 8) (launch lp : Nat) (d : Dev) : Dev :=
  let ts := (d.kiln k).pipeTiles p.val
  ((d.saveTile k ts.1 fun g => g.launch != launch).saveTile k ts.2 fun g => g.launch != launch).savePipes k
    fun q st => (d.kiln k).pipeServer q == p.val && !(st.launch == launch && q == lp)

/-- The rows that a logical pipeline holds for a launch. -/
def Dev.setPipe (k : Fin 12) (lp launch : Nat) (s : Option PipeSt) (d : Dev) : Dev :=
  d.modKiln k fun (x : Kiln) => { x with pipes :=
    (x.pipes.filter fun q => !(q.1 == lp && q.2.launch == launch)) ++ (match s with | some s => [(lp, s)] | none => []) }

/-- PIPELINE_EXECUTION_END (R146 to R162): the next run of the pipeline's query block, kept, repeated or begun again wider. -/
def Dev.pipeEnd (k : Fin 12) (p : Fin 8) (launch : Nat) (residueFail : Bool) (d : Dev) : Dev :=
  match d.mayRun launch (.pipe k.val p.val) with
  | none => d
  | some (l, im) =>
    if !d.pipeFree l k p then d
    else
      match d.pipeTake l im k p with
      | none => d
      | some (ix, x, j, lp, st0) =>
        match d.gate l (im.layerOf x) with
        | none => d
        | some dg =>
          let pol := l.policy.getD d.num
          let reference := l.reference pol
          let st := { st0 with saved := false }
          let d0 := (dg.takePolicy launch).pipeSaves k p launch lp
          let part := j.runs.getD st.part [[]]
          let visits := part.getD x.pos.2.2 []
          match d.mem.struckIn (d.attnReads j visits) with
          | some a => (d0.setPipe k lp launch none).launchStruck launch a
          | none =>
            if residueFail then (d0.setPipe k lp launch (some { st with repeating := true })).pipeResidue k p
            else
              match im.startOf pol reference (d.execHere im) (d.scheduleOf l) l.done ix with
              | none => d
              | some start =>
                let rung := if start = st.start then st.rung else 0
                let forms := im.formsFrom j.k j.pat.pBf16 reference start
                let marked := (im.formsFrom j.k j.pat.pBf16 reference 0).headD (.bf16, true)
                let form := forms.getD rung (.bf16, true)
                let escalated := forms.headD marked != marked
                let ts := (d.kiln k).pipeTiles p.val
                let o := d.attnRun j pol reference form.1 form.2 visits st.rows
                let det := detectors pol o.sat o.flush o.folds o.nanInf
                let hold := attnTimes j.hd form.1.isWide (valueWide j form)
                let d1 := ((d0.readOut false (d.attnReads j visits)).count (kilnDie k) 0x09 ts.1.val (hold.1 * visits.length)).count
                  (kilnDie k) 0x09 ts.2.val (hold.2 * visits.length)
                if det ≠ 0 && pol.widen && rung + 1 < forms.length then
                  ((d1.setPipe k lp launch (some { st with rung := rung + 1, start := start, repeating := true })).recordDet k ts.1.val det o.sat
                    o.flush o.folds (b2n o.nanInf) true false).count (kilnDie k) 0x02 ts.1.val 1
                else
                  let final := bit det 3
                  let d2 := (d1.recordDet k ts.1.val det o.sat o.flush o.folds (b2n o.nanInf) false final).count (kilnDie k) 0x01 ts.1.val 1
                  let d3 := (d2.count (kilnDie k) 0x0C lp visits.length).count (kilnDie k) 0x0D lp
                    (if st.part = 0 && x.pos.2.2 = 0 then j.leftOut else 0)
                  let d4 := if escalated then (d3.count (kilnDie k) 0x08 ts.1.val 1).modKiln k
                      (fun (x : Kiln) => { x with trouble := x.trouble ||| 32#7 }) else d3
                  let d5 := d4.modLaunch launch fun y => { y with nanFinal := y.nanFinal || final }
                  let d6 :=
                    if part.length ≤ x.pos.2.2 + 1 then (d5.setPipe k lp launch none).attnEnd launch pol x j o.rows
                    else d5.setPipe k lp launch (some { st with rows := o.rows, rung := 0, start := 0, repeating := false })
                  d6.execDone launch { ix := ix, code := execFormatCode form.1, wide := form != marked, escalated := escalated } x.kernel

def execPipelineExecutionEnd (k : Fin 12) (p : Fin 8) (launch : Nat) (residueFail : Bool) (s : State) : Out :=
  .next (s.onDev (Dev.pipeEnd k p launch residueFail))

end Sys2Proof.Machine
end

