-- ==== Sys2Proof/Machine/Media.lean ====
section
/-! DEFINITION. Media sessions and frames: opening and closing, decoding and encoding, slot marks, statistics (R275 to R300, R311,
R430, R444). -/
namespace Sys2Proof.Machine

def Dev.session (d : Dev) (n : Nat) : Option Session := d.media.sessions.find? fun s => s.num == n
def Dev.modSession (n : Nat) (f : Session → Session) (d : Dev) : Dev :=
  { d with media := { d.media with sessions := updFirst (fun s => s.num == n) f d.media.sessions } }
def Dev.mediaJob (d : Dev) (id : Nat) : Option MediaJob := d.media.jobs.find? fun j => j.id == id
def Dev.modMediaJob (id : Nat) (f : MediaJob → MediaJob) (d : Dev) : Dev :=
  { d with media := { d.media with jobs := updFirst (fun j => j.id == id) f d.media.jobs } }
def Dev.dropMediaJob (id : Nat) (d : Dev) : Dev := { d with media := { d.media with jobs := d.media.jobs.filter fun j => j.id != id } }

/-- Codec cores of a wheel in service. -/
def Dev.codecCores (d : Dev) (w : Fin 2) : List Nat :=
  (List.range 4).filter fun i => match (d.wheels.get w).codecOk[i]? with | some b => b | none => false

-- MEDIA_OPEN (R283, R285)

/-- R283's last check. -/
def Dev.poolPlaced (d : Dev) (s : SessDesc) : Bool :=
  let a := s.poolBase
  let n := s.poolLen
  a % 0x200000 == 0 &&
  ((d.running && within a n (mapBase s.wheel.val) 0x10000000) ||
   (d.inWindow a n && (unitsOf a n).all fun u => (d.tier.unit u).pinned)) &&
  d.media.sessions.all (fun x => !overlaps a n x.desc.poolBase x.desc.poolLen) && !d.inPools a n && !d.inWindowDst a n

/-- R283's checks in order. -/
def Dev.openCheck (r : List Byte) (s : SessDesc) (d : Dev) : Half :=
  let blank : Session := { num := 0, desc := s, marks := [] }
  if !sessCodecOk r s then stMediaCodec
  else if !sessParamOk r s then stMediaParam
  else if 64 ≤ d.media.sessions.length then stMediaTableFull
  else if !(d.wheels.get s.wheel).ready || (d.codecCores s.wheel).length < s.cores then stResourceAbsent
  else if !coresFit (d.media.sessions ++ [blank]) s.wheel (d.codecCores s.wheel).length then stMediaCoresBusy
  else if !d.poolPlaced s then stMediaPoolRange
  else stOk

/-- R285: the cores that sessions of a wheel reserve, and those that a REALTIME session takes when it opens: the lowest that no other
reserves (DESIGN CHOICE, log 145). -/
def Dev.reservedOn (d : Dev) (w : Fin 2) : List Nat := (d.media.sessions.filter fun x => x.desc.wheel == w).flatMap (·.reserved)
def Dev.reserve (d : Dev) (s : SessDesc) : List Nat :=
  if s.realtime then ((d.codecCores s.wheel).filter fun c => !(d.reservedOn s.wheel).contains c).take s.cores else []

def Dev.mediaOpen (c : Cmd) (d : Dev) : Dev :=
  d.fetchBytes c.id (opDa c.pkt.o0) 64 (fun r d =>
    let s := parseSess r
    let st := d.openCheck r s
    if st ≠ stOk then
      ({ d with media := { d.media with fullSeen := d.media.fullSeen || st == stMediaTableFull } } : Dev).refuse c.id st
    else
      let p := d.pick ((List.range 64).filter fun n => (d.session n).isNone)
      let num := p.1.getD 0
      let ss := p.2.media.sessions ++ [{ num := num, desc := s, marks := List.replicate s.slots {}, reserved := d.reserve s }]
      ({ p.2 with media := { p.2.media with sessions := ss, peak := max p.2.media.peak ss.length } } : Dev).okCmd c.id num 0 0)

/-- MEDIA_OPEN (R282 to R284). -/
def execMediaOpen (tag : Tag) (s : State) : Out := .next (s.onDev (Dev.onCmd tag 0x60 Dev.mediaOpen))

-- Ends of frames

/-- A media command or candle action ends (R404, R430, R439, R444). -/
def Dev.mediaEnd (j : MediaJob) (st : Half) (a b c : Nat) (d : Dev) : Dev :=
  let d1 : Dev := { d with media := { d.media with
    poolEmptySeen := d.media.poolEmptySeen || st == stMediaPoolEmpty, streamErrSeen := d.media.streamErrSeen || st == stMediaStreamError,
    outSpaceSeen := d.media.outSpaceSeen || st == stMediaOutSpace } }
  let d2 := d1.dropMediaJob j.id
  match j.owner with
  | .cmd id => if st == stOk then d2.endWith id st a b c else d2.endWith id st 0 0 0
  | .candle k n e =>
    let s := d2.stream (streamIx k)
    match (s.table.bind fun t => t.entries[e]?) with
    | none => d2
    | some x =>
      let g := s.inst (n - x.lag) x.group
      let va := if st == stOk then a else 0
      if x.action = actEncode then
        d2.actEnd (streamIx k) (s.act n e) st (if j.repeated then 0 else g.delivered.getD 0) (g.flags ||| 2 * b2n j.repeated) 0 va
      else d2.actEnd (streamIx k) (s.act n e) st 0 0 0 va

-- Releases (R291)

/-- Launches alive that read, or write, a slot. -/
def Dev.slotReaders (d : Dev) (n k : Nat) : List Nat := (d.launches.filter fun l => l.alive && l.mediaReads.contains (n, k)).map (·.id)
def Dev.slotWriters (d : Dev) (n k : Nat) : List Nat := (d.launches.filter fun l => l.alive && l.mediaWrites.contains (n, k)).map (·.id)
def Dev.anyAlive (d : Dev) (ids : List Nat) : Bool := d.launches.any fun l => l.alive && ids.contains l.id

/-- R291: the releases whose launches have completed take effect. -/
def Dev.slotsDue (n : Nat) (d : Dev) : Dev :=
  d.modSession n fun s =>
    let due := s.pending.filter fun p => !d.anyAlive p.2
    { (due.foldl (fun (s : Session) p => s.mark p.1 fun m => { m with out := false }) s) with
      pending := s.pending.filter fun p => d.anyAlive p.2 }

/-- R292: a release mask is applied: each slot's OUT, at once or when its readers have completed; the job keeps the session as it was. -/
def Dev.applyMask (j : MediaJob) (d : Dev) : Dev :=
  match d.session j.session with
  | none => d
  | some s =>
    let named := (List.range s.desc.slots).filter fun k => bit j.release k && (s.marks.getD k {}).out
    let now := named.filter fun k => (d.slotReaders s.num k).isEmpty
    let later := named.filter fun k => !(d.slotReaders s.num k).isEmpty
    (d.modSession s.num fun s =>
      { (now.foldl (fun (s : Session) k => s.mark k fun m => { m with out := false }) s) with
        pending := s.pending ++ later.map fun k => (k, d.slotReaders s.num k) }).modMediaJob j.id fun j => { j with before := some s }

/-- R290, R293, R296: what a command has done to its session is undone, but for its releases where keep says so. -/
def Dev.mediaUndo (j : MediaJob) (keep : Bool) (d : Dev) : Dev :=
  match j.before with
  | none => d
  | some b =>
    d.modSession j.session fun s =>
      s.undo b ((List.range b.desc.slots).filter fun k =>
        bit j.release k && (b.marks.getD k {}).out && !(s.pending.any fun p => p.1 == k)) keep

-- The encoder's groups (R294, R295)

/-- What a command makes the encoder code: groups in display order, each with whether it begins with a key frame; and the inputs it holds
then, with whether the open group begins with one. key tells that the command's input is a key frame. -/
structure EncPlan where
  groups : List (Bool × List Nat)
  held : List Nat
  heldKey : Bool
  key : Bool
  deriving DecidableEq, Repr

def EncPlan.coded (p : EncPlan) : List Nat := p.groups.flatMap (·.2)

def Session.keyDue (s : Session) (force : Bool) : Bool :=
  match s.sinceKey with
  | none => true
  | some n => force || (s.desc.keyInterval != 0 && decide (s.desc.keyInterval ≤ n))

/-- A group that ends: none where it is empty. -/
def endGroup (key : Bool) (g : List Nat) : List (Bool × List Nat) := if g.isEmpty then [] else [(key, g)]

/-- R295: what a command codes, of the session as it stands. -/
def Session.plan (s : Session) (inSlot : Nat) (force flush : Bool) : EncPlan :=
  if inSlot = 255 then
    if flush then { groups := endGroup s.heldKey s.held, held := [], heldKey := false, key := false }
    else { groups := [], held := s.held, heldKey := s.heldKey, key := false }
  else
    let key := s.keyDue force
    if !s.desc.randomAccess then { groups := [(key, [inSlot])], held := [], heldKey := false, key := key }
    else if key then
      let ended := endGroup s.heldKey s.held
      if flush then { groups := ended ++ [(true, [inSlot])], held := [], heldKey := false, key := true }
      else { groups := ended, held := [inSlot], heldKey := true, key := true }
    else
      let g := s.held ++ [inSlot]
      if flush || 8 ≤ g.length then { groups := [(s.heldKey, g)], held := [], heldKey := false, key := false }
      else { groups := [], held := g, heldKey := s.heldKey, key := false }

/-- The session after a plan's inputs have been taken. -/
def Session.take_ (s : Session) (p : EncPlan) (inSlot : Nat) : Session :=
  { s with held := p.held, heldKey := p.heldKey,
           sinceKey := if inSlot = 255 then s.sinceKey else if p.key then some 1 else s.sinceKey.map (· + 1) }

/-- The plan of a job: a repeated frame takes no input (R444). -/
def MediaJob.plan (j : MediaJob) (s : Session) : EncPlan :=
  if j.repeated then { groups := [(false, [255])], held := s.held, heldKey := s.heldKey, key := false }
  else s.plan j.inSlot j.forceKey j.flush

/-- R295: the frames of a plan in coding order, each as its input slot and whether it is a key frame. A key frame comes first in its
group; the order of the others is the encoder's (R281). -/
def Session.codingOrder (s : Session) (version : Word) (p : EncPlan) : List (Nat × Bool) :=
  (indexed p.groups).flatMap fun g =>
    let key (q : Nat × Nat) : Nat := if q.1 = 0 && g.2.1 then 0 else 1 + Config.encoded (s.desc.encParams version) s.history [] [0, g.1, g.2.2.length, q.1]
    (sortBy (fun a b => decide (key a ≤ key b)) (indexed g.2.2)).map fun q => (q.2, g.2.1 && q.1 == 0)

/-- The source frames of a command, read when it begins: each frame's bytes with its flags, 1 key, 2 FORCE_KEY, 4 FLUSH, 8 a repeat. -/
def Dev.sourceOf (d : Dev) (j : MediaJob) (s : Session) : List (List Byte × Nat) :=
  (s.codingOrder d.numerics (j.plan s)).map fun q =>
    (if q.1 = 255 then [] else d.mem.readBytes (s.desc.slotDa q.1) s.desc.planeBytes,
     b2n q.2 + 2 * b2n j.forceKey + 4 * b2n j.flush + 8 * b2n j.repeated)

-- The media arbiter (R285, R286, R290)

/-- Cores that frames hold on a wheel. -/
def Dev.coresBusy (d : Dev) (w : Fin 2) : List Nat :=
  (d.media.jobs.filter fun j => j.started && (match d.session j.session with | some s => s.desc.wheel == w | none => false)).flatMap
    (·.cores)
/-- R285, R297: the cores a session's frame takes now, lowest numbers first: those it reserves, or those that no session reserves. A
decoded frame that no split suits runs on one core. -/
def Dev.coresFor (d : Dev) (s : Session) (single : Bool) : Option (List Nat) :=
  let w := s.desc.wheel
  let others := (d.reservedOn w).filter fun c => !s.reserved.contains c
  let free := (d.codecCores w).filter fun c => !(d.coresBusy w).contains c && !others.contains c
  let own := (free.filter s.reserved.contains) ++ free.filter fun c => !s.reserved.contains c
  let n := if single then 1 else s.desc.cores
  if own.length < n then none else some (own.take n)

/-- Is a job the first of its session that has not ended. -/
def Dev.headOfSession (d : Dev) (j : MediaJob) : Bool :=
  !(d.media.jobs.any fun x => decide (x.id < j.id) && x.session == j.session)

/-- The ranges of memory that a command's cores read as input: the unit, or the input slots. -/
def MediaJob.inputs (j : MediaJob) (s : Session) (p : EncPlan) : List (Nat × Nat) :=
  if j.decode then [(j.da, j.length)] else (p.coded.filter (· != 255)).map fun k => (s.desc.slotDa k, s.desc.planeBytes)

/-- R297: does the frame a decode is at run on one core of a split session. -/
def MediaJob.single (j : MediaJob) (s : Session) : Bool := j.decode && decide (1 < s.desc.cores) && s.ask j.unit [10, j.step] % 2 == 1

/-- Frames that a command's cores make: of a decoded unit those coded in it; a repeat in AV1 shows the frame before once more and makes
none (R444). -/
def MediaJob.frames (j : MediaJob) (s : Session) : Nat :=
  if j.decode then (if s.unitOk j.unit then s.unitFrames j.unit else 1)
  else if j.repeated && s.desc.codec == 1 then 0 else j.source.length
/-- Does the step a command is at write a frame into a slot. -/
def MediaJob.writes (j : MediaJob) (s : Session) : Bool := decide (j.step < j.frames s)

/-- A command begins: what it codes is read, and inputs are marked IN (R289). -/
def Dev.mediaBegin (j : MediaJob) (s : Session) (d : Dev) : Dev :=
  let rs := j.inputs s (j.plan s)
  match rs.findSome? fun r => d.mem.firstPoison r.1 r.2 with
  | some w => ((d.ueAt w true).mediaUndo j true).mediaEnd j stUncorrectable 0 0 0
  | none =>
    let unit := if j.decode then d.mem.readBytes j.da j.length else []
    let source := if j.decode then [] else d.sourceOf j s
    (d.modSession s.num fun s => if j.decode || j.inSlot = 255 then s else s.mark j.inSlot fun m => { m with inn := true }).modMediaJob j.id
      fun j => { j with before := some (j.before.getD s), unit := unit, source := source }

/-- A core takes a frame with its slot: WRITE (R289, R290). -/
def Dev.frameStart (j : MediaJob) (s : Session) (slot : Option Nat) (cores : List Nat) (d : Dev) : Dev :=
  (d.modSession s.num fun s => match slot with | some k => s.mark k fun m => { m with write := true } | none => s).modMediaJob j.id fun j =>
    { j with started := true, slot := slot, cores := cores }

/-- A frame of a command that has begun waits for a slot and for cores, or starts. held tells that an earlier frame waits for shared cores of
a wheel (R285). -/
def Dev.frameTurn (held : Fin 2 → Bool) (j : MediaJob) (s : Session) (d : Dev) : (Fin 2 → Bool) × Dev :=
  let slot := if j.writes s then s.freeSlot else none
  if j.writes s && slot.isNone then
    if s.pending.isEmpty then (held, (d.mediaUndo j false).mediaEnd j stMediaPoolEmpty 0 0 0)
    else (held, d.count (wheelDie s.desc.wheel) 0x03 0 1)
  else if !s.desc.realtime && held s.desc.wheel then (held, d)
  else
    match d.coresFor s (j.single s) with
    | some cs => (held, d.frameStart j s slot cs)
    | none => (fun w => held w || (w == s.desc.wheel && !s.desc.realtime), d)

/-- One job's turn at the arbiter. -/
def Dev.mediaTurn (held : Fin 2 → Bool) (id : Nat) (d : Dev) : (Fin 2 → Bool) × Dev :=
  match d.mediaJob id with
  | none => (held, d)
  | some j0 =>
    match d.session j0.session with
    | none => (held, d)
    | some _ =>
      if j0.started || !d.headOfSession j0 then (held, d)
      else
        let d1 := if j0.before.isSome || !j0.decode then d else d.applyMask j0
        match d1.mediaJob id, d1.session j0.session with
        | some j, some s =>
          if j.decode && j.length == 0 then (held, d1.mediaEnd j stOk 0xFF 0 s.frames)
          else if d1.anyAlive j.waits then (held, d1)
          else
            let p := j.plan s
            if !j.decode && p.coded.isEmpty then
              let d2 := d1.modSession s.num fun s =>
                let s1 := s.take_ p j.inSlot
                if j.inSlot = 255 then s1 else s1.mark j.inSlot fun m => { m with inn := true }
              (held, d2.mediaEnd j stOk 0 0 s.frames)
            else
              let d2 := if j.unit.isEmpty && j.source.isEmpty then d1.mediaBegin j s else d1
              match d2.mediaJob id, d2.session j0.session with
              | some j, some s => d2.frameTurn held j s
              | _, _ => (held, d2)
        | _, _ => (held, d1)

/-- R287: a closing session whose commands and readers are done is freed. -/
def Dev.closeSettle (n : Nat) (d : Dev) : Dev :=
  match d.session n with
  | none => d
  | some s =>
    match s.closing with
    | none => d
    | some c =>
      if d.media.jobs.any (fun j => j.session == n) || d.launches.any (fun l => l.alive && l.mediaReads.any fun r => r.1 == n) then d
      else ({ d with media := { d.media with sessions := d.media.sessions.filter fun x => x.num != n } } : Dev).okCmd c 0 0 0

/-- What the arbiter can now do: frames start in order, closed sessions go. -/
def Dev.mediaPump (d : Dev) : Dev :=
  let r := (d.media.jobs.map (·.id)).foldl (fun (acc : (Fin 2 → Bool) × Dev) id => acc.2.mediaTurn acc.1 id) (fun _ => false, d)
  r.2.each (r.2.media.sessions.map (·.num)) Dev.closeSettle

-- Commands (R292, R294)

/-- Bytes of a frame's statistics (R298). -/
def SessDesc.statsLen (s : SessDesc) : Nat := roundUp (64 + 8 * (cdiv s.width 16 * cdiv s.height 16)) 64

/-- R279: worst luma samples per second of one core. -/
def codecRate (decode : Bool) : Nat := if decode then 1990656000 else 995328000

/-- R429: the frames queued on a session and this one, at the worst rate of R279 and the wheel's clock (R461), finish by DEADLINE. -/
def Dev.framesMeet (s : Session) (decode : Bool) (deadline : Nat) (d : Dev) : Bool :=
  let n := (d.media.jobs.filter fun j => j.session == s.num).length + 1
  let rem := (deadline + 2 ^ 48 - d.phaseNow) % 2 ^ 48
  !reached d.phaseNow deadline &&
  decide (n * (s.desc.width * s.desc.height) * d.time.num * 65536 * 33 ≤
    rem * d.time.den * codecRate decode * d.dieClock (wheelDie s.desc.wheel))

/-- What a media packet or candle record asks, and its checks: the session is open in the direction, its input slot is a host
slot (a misplaced operand, R403; log 5), addresses and alignment, the deadline. A cyclic frame is admitted on a REALTIME session alone
(R286). -/
def Dev.mediaCheck (j : MediaJob) (bounded : Option Nat) (d : Dev) : Half :=
  let cyclic := match j.owner with | .candle _ _ _ => true | .cmd _ => false
  match d.session j.session with
  | none => stMediaSessionInvalid
  | some s =>
    if s.closing.isSome || (cyclic && !s.desc.realtime) || (s.desc.dir == 0) != j.decode then stMediaSessionInvalid
    else if !j.decode && !(decide (j.inSlot < s.desc.hostSlots) || (j.inSlot == 255 && j.flush) || j.repeated) then stPacketFormat
    else if j.statsDa % 64 ≠ 0 then stAlignment
    else if !d.daOk j.da j.length ||
        (j.statsDa != 0 && !d.daOk j.statsDa ((if s.desc.randomAccess then 8 else 1) * s.desc.statsLen)) then stAddress
    else
      match bounded with
      | some t => if d.framesMeet s j.decode t then stOk else stDeadline
      | none => stOk

/-- The operands O0 to O3 of a MEDIA command as a frame (R404). -/
def mediaJobOf (id : Nat) (owner : MediaOwner) (decode : Bool) (o0 o1 o2 o3 : Nat) : MediaJob :=
  { id := id, owner := owner, session := field o0 5 0, decode := decode, da := field o1 47 0, length := field o2 31 0,
    statsDa := field o3 47 0, release := if decode then field o0 63 32 else 0, inSlot := if decode then 255 else field o0 15 8,
    forceKey := !decode && bit o0 16, flush := !decode && bit o0 17 }

/-- A frame that passed its checks reaches the media arbiter. -/
def Dev.mediaQueue (j : MediaJob) (d : Dev) : Dev :=
  let j' := { j with waits := if j.decode || j.repeated then [] else d.slotWriters j.session j.inSlot }
  ({ d with media := { d.media with jobs := d.media.jobs ++ [j'], nextJob := d.media.nextJob + 1 } } : Dev).mediaPump

def Dev.mediaCmd (decode : Bool) (c : Cmd) (d : Dev) : Dev :=
  let j := mediaJobOf d.media.nextJob (.cmd c.id) decode c.pkt.o0.toNat c.pkt.o1.toNat c.pkt.o2.toNat c.pkt.o3.toNat
  let st := d.mediaCheck j (if c.cls = 2 then some c.pkt.deadline.toNat else none)
  if st ≠ stOk then d.refuse c.id st else (d.setPhase c.id .running).mediaQueue j

/-- MEDIA_DECODE (R292). -/
def execMediaDecode (tag : Tag) (s : State) : Out := .next (s.onDev (Dev.onCmd tag 0x61 (Dev.mediaCmd true))).flushReports
/-- MEDIA_ENCODE (R294). -/
def execMediaEncode (tag : Tag) (s : State) : Out := .next (s.onDev (Dev.onCmd tag 0x62 (Dev.mediaCmd false))).flushReports

/-- MEDIA_CLOSE (R287). -/
def Dev.mediaClose (c : Cmd) (d : Dev) : Dev :=
  let n := opnd c.pkt.o0 5 0
  match d.session n with
  | none => d.refuse c.id stMediaSessionInvalid
  | some s =>
    if s.closing.isSome then d.refuse c.id stMediaSessionInvalid
    else ((d.setPhase c.id .running).modSession n fun s => { s with closing := some c.id }).closeSettle n

def execMediaClose (tag : Tag) (s : State) : Out := .next (s.onDev (Dev.onCmd tag 0x63 Dev.mediaClose))

/-- SLOT_RELEASE_EFFECT (R291). -/
def execSlotReleaseEffect (n : Nat) (s : State) : Out := .next (s.onDev fun d => (d.slotsDue n).mediaPump).flushReports

-- CODEC_FRAME_COMPLETE (R289, R292 to R298)

/-- R288: a picture's rows reach a slot; bytes outside it are not written. -/
def Dev.putPicture (s : SessDesc) (slot w h : Nat) (sample : Nat → Nat → Nat → Nat) (d : Dev) : Dev :=
  d.each (s.picture w h sample) fun p d => d.write (s.slotDa slot + p.1) p.2

/-- The core is done with a frame; the command goes on to its next. -/
def Dev.nextFrame (j : MediaJob) (bits stats : List Byte) (d : Dev) : Dev :=
  d.modMediaJob j.id fun x => { x with step := x.step + 1, started := false, slot := none, cores := [], bits := x.bits ++ bits, stats := x.stats ++ stats }

/-- R293: a unit that fails: what it did is undone but for its releases, and later frames meet the history of a unit that did not decode. -/
def Dev.unitFails (j : MediaJob) (d : Dev) : Dev :=
  ((d.mediaUndo j true).modSession j.session fun s => if j.decode then { s with history := s.history ++ [(j.unit, 0)] } else s).mediaEnd j
    stMediaStreamError 0 0 0

/-- R280, R289, R298: one decoded frame: its picture, its references, and its statistics as the unit's last frame. -/
def Dev.decodeFrame (j : MediaJob) (s : Session) (slot : Nat) (d : Dev) : Dev :=
  let w := s.ask j.unit [4]
  let h := s.ask j.unit [5]
  let f := j.step
  let d1 := d.putPicture s.desc slot w h fun plane row col => s.ask j.unit [11, f, plane, row, col]
  let single := j.single s
  let info : FrameInfo := { codec := s.desc.codec, w := w, h := h, slots := (s.needs j.unit f).filterMap s.slotOf,
                            block := fun x y k => s.ask j.unit [12, f, x, y, k] }
  let stats := if j.statsDa = 0 || f + 1 < s.unitFrames j.unit then []
    else frameStats s.desc s.frames (s.ask j.unit [13, f]) slot (s.frameType j.unit f) (b2n single + 2 * (s.ask j.unit [14, f] % 2)) j.length
      (info.records s.desc fun r c => s.desc.luma d1.mem slot r c)
  let d2 := d1.modSession s.num fun x =>
    { x.frameDone slot (s.history.length, f) (s.keeps j.unit f) with frames := x.frames + 1 }
  let d3 : Dev := if single then { d2 with wheels := vmod d2.wheels s.desc.wheel fun (w : Wheel) => { w with singleSeen := true } } else d2
  (d3.count (wheelDie s.desc.wheel) 0x01 (j.cores.headD 0) 1).nextFrame j [] stats

/-- R289, R292: a unit whose frames are decoded: what it shows is marked OUT, and its statistics reach memory. -/
def Dev.decodeEnd (j : MediaJob) (s : Session) (slot : Option Nat) (display index : Nat) (d : Dev) : Dev :=
  let d1 := d.modSession s.num fun x =>
    { (match slot with | some k => x.mark k fun m => { m with out := true } | none => x) with history := x.history ++ [(j.unit, 1)] }
  let d2 := if j.stats.isEmpty then d1 else d1.write j.statsDa j.stats
  d2.mediaEnd j stOk (slot.getD 0xFF) display index

/-- A unit's end: it completes, or names a picture that the session does not hold (R293). -/
def Dev.unitEnd (j : MediaJob) (s : Session) (slot : Option Nat) (index : Nat) (d : Dev) : Dev :=
  match s.shownAt j.unit slot with
  | some r => d.decodeEnd j s r.1 r.2 index
  | none => d.unitFails j

/-- One step of a decode: the unit is checked, the references of its frame are there, the frame is decoded, and at the last the unit ends. -/
def Dev.decodeStep (j : MediaJob) (s : Session) (d : Dev) : Dev :=
  if !s.unitOk j.unit then d.unitFails j
  else
    match j.slot with
    | none => d.unitEnd j s none s.frames
    | some slot =>
      if !((s.needs j.unit j.step).all fun p => (s.slotOf p).isSome) then d.unitFails j
      else
        let d1 := d.decodeFrame j s slot
        if j.step + 1 < s.unitFrames j.unit then d1
        else
          match d1.mediaJob j.id, d1.session s.num with
          | some j1, some s1 => d1.unitEnd j1 s1 (some slot) s.frames
          | _, _ => d1

/-- R281, R289, R298: one coded frame: its bytes (R296 bounds them), its reconstruction in the slot, its references and statistics. A repeat is
a copy of the frame before (R444). -/
def Dev.encodeFrame (j : MediaJob) (s : Session) (slot : Nat) (d : Dev) : Dev :=
  let ps := s.desc.encParams d.numerics
  let f := j.step
  let ask (q : List Nat) : Nat := Config.encoded ps s.history j.source q
  let inp := (s.codingOrder d.numerics (j.plan (j.before.getD s))).getD f (255, false)
  let type := if inp.2 then 0 else if j.repeated then 1 else 1 + ask [1, f] % 2
  let bits := ((if inp.2 then Config.encodedBytes ps s.history j.source [0, f] else []) ++
    Config.encodedBytes ps s.history j.source [1, f]).take (s.desc.planeBytes + 4096)
  let refs := if j.repeated then s.last.toList
    else if type = 1 then (Config.encodedPics ps s.history j.source [0, f]).filterMap s.slotOf else []
  let d1 := match j.repeated, s.last with
    | true, some k => d.write (s.desc.slotDa slot) (d.mem.readBytes (s.desc.slotDa k) s.desc.planeBytes)
    | _, _ => d.putPicture s.desc slot s.desc.width s.desc.height fun plane row col => ask [2, f, plane, row, col]
  let info : FrameInfo := { codec := s.desc.codec, w := s.desc.width, h := s.desc.height, slots := refs,
                            block := fun x y k => if j.repeated && k ≠ 2 then (if k = 3 then 3 else 0) else ask [3, f, x, y, k] }
  let stats := if j.statsDa = 0 then []
    else frameStats s.desc s.frames (ask [4, f]) inp.1 type 0 bits.length
      (info.records s.desc fun r c => s.desc.luma d1.mem (if inp.1 = 255 then slot else inp.1) r c)
  let d2 := d1.modSession s.num fun x =>
    { x.frameDone slot (s.history.length, f) (Config.encodedPics ps s.history j.source [1, f]) with frames := x.frames + 1 }
  d2.nextFrame j bits stats

/-- R294, R296: every frame of a command is coded: its bytes and statistics reach memory, or nothing where the capacity is short. -/
def Dev.encodeEnd (j : MediaJob) (s : Session) (bits : List Byte) (d : Dev) : Dev :=
  if j.length < bits.length then (d.mediaUndo j false).mediaEnd j stMediaOutSpace 0 0 0
  else
    let b := j.before.getD s
    let p := j.plan b
    let d1 := (d.write j.da bits).modSession s.num fun x =>
      let x1 := if j.repeated then x else x.take_ p j.inSlot
      { (p.coded.filter (· != 255)).foldl (fun (y : Session) k => if p.held.contains k then y else y.mark k fun m => { m with inn := false }) x1 with
        history := x.history ++ j.source }
    let d2 := if j.stats.isEmpty then d1 else d1.write j.statsDa j.stats
    let n := max 1 j.step
    (d2.count (wheelDie s.desc.wheel) 0x02 (j.cores.headD 0) n).mediaEnd j stOk bits.length n b.frames

/-- One step of an encode; a repeat in AV1 emits a frame that shows the one before (R444). -/
def Dev.encodeStep (j : MediaJob) (s : Session) (d : Dev) : Dev :=
  match j.slot with
  | some slot =>
    let d1 := d.encodeFrame j s slot
    match d1.mediaJob j.id, d1.session s.num with
    | some j1, some s1 => if j1.step < j1.source.length then d1 else d1.encodeEnd { j1 with cores := j.cores } s1 j1.bits
    | _, _ => d1
  | none =>
    let bits := (Config.encodedBytes (s.desc.encParams d.numerics) s.history j.source [1, 0]).take (s.desc.planeBytes + 4096)
    (d.modSession s.num fun x => { x with frames := x.frames + 1 }).encodeEnd j s bits

/-- CODEC_FRAME_COMPLETE (R289): the frame of a job that its cores work on, counted from 0. -/
def Dev.frameComplete (id frame : Nat) (d : Dev) : Dev :=
  match d.mediaJob id with
  | none => d
  | some j =>
    match d.session j.session with
    | none => d
    | some s =>
      if !j.started || frame != j.step then d
      else if j.decode then (d.decodeStep j s).mediaPump
      else (d.encodeStep j s).mediaPump

def execCodecFrameComplete (job frame : Nat) (s : State) : Out := .next (s.onDev (Dev.frameComplete job frame)).flushReports

end Sys2Proof.Machine
end

