-- ==== Sys2Proof/Machine/Candle.lean ====
section
/-! DEFINITION. Candle tables, arming with its schedule check, firing, cut-off and delivery (R431 to R446). -/
namespace Sys2Proof.Machine

-- Tables (R431, R432, R434)

def parseCandleEntry (r : List Byte) : CandleEntry :=
  { frameOffset := bytesAt r 1 0, phase := bytesAt r 3 2, action := bytesAt r 4 4, group := bytesAt r 5 5, lag := bytesAt r 6 6,
    pass := bytesAt r 7 7, target := bytesAt r 8 8, mode := bytesAt r 9 9, listCount := bytesAt r 11 10,
    listStride := bytesAt r 15 12, listDa := bytesAt r 21 16, seed := BitVec.ofNat 64 (bytesAt r 29 22) }

/-- R432: every field in range. -/
def CandleEntry.fits (e : CandleEntry) (cycleFrames : Nat) : Bool :=
  let runs := e.action == actLaunch || e.action == actDeliver
  let media := e.action == actDecode || e.action == actEncode
  decide (e.frameOffset < cycleFrames) && (runs || media || e.action == actCutoff) && decide (e.group ≤ 15) && decide (e.lag ≤ 3) &&
  (e.pass == 0 || (e.action == actLaunch && decide (e.pass ≤ 63))) &&
  (if e.action = actCutoff then e.target == 0 && e.listCount == 0 else decide (1 ≤ e.listCount) && decide (e.listCount ≤ 256)) &&
  (!media || decide (e.target ≤ 63)) && (if runs then decide (e.mode ≤ 2) else e.mode == 0) && e.listStride % 64 == 0 &&
  e.listDa % 64 == 0

def CandleEntry.moment (e : CandleEntry) : Nat := e.frameOffset * 65536 + e.phase
/-- R434: the (LAG, FRAME_OFFSET, PHASE) order, entry numbers breaking ties. -/
def CandleEntry.order (e : CandleEntry) (ix : Nat) : Nat := (e.lag * 2 ^ 32 + e.moment) * 1024 + ix

/-- R434: a group's passes, CUTOFF and DELIVER. -/
def CandleTable.groupOk (t : CandleTable) (g : Nat) : Bool :=
  let es := (indexed t.entries).filter fun e => e.2.group == g
  let passes := es.filter fun e => e.2.action == actLaunch && e.2.pass != 0
  let cuts := es.filter fun e => e.2.action == actCutoff
  let dels := es.filter fun e => e.2.action == actDeliver
  passes.isEmpty ||
  (cuts.length == 1 && decide (dels.length ≤ 1) && (passes.map fun e => e.2.pass).Nodup &&
   cuts.all fun c => passes.all (fun p => decide (p.2.order p.1 < c.2.order c.1)) &&
     dels.all fun x => decide (c.2.order 0 ≤ x.2.order 0))

/-- R431 to R434: a table's bytes; none where it breaks a rule. -/
def parseCandle (b : List Byte) : Option CandleTable :=
  let n := bytesAt b 3 2
  let t : CandleTable :=
    { cycleFrames := bytesAt b 5 4, repeatLate := bytesAt b 6 6 == 1, requireLock := bit (bytesAt b 7 7) 0,
      budgetMarked := bit (bytesAt b 7 7) 1, reportCq := Fin.ofNat 64 (bytesAt b 8 8),
      entries := (chunks 32 n (b.drop 64)).map parseCandleEntry }
  if bytesAt b 1 0 == 1 && decide (1 ≤ n) && decide (n ≤ 1024) && b.length == 64 + 32 * n && decide (1 ≤ t.cycleFrames) &&
     decide (t.cycleFrames ≤ 4096) && decide (bytesAt b 6 6 ≤ 1) && decide (bytesAt b 7 7 < 4) && decide (bytesAt b 8 8 ≤ 63) &&
     zeroAt b 63 9 && (chunks 32 n (b.drop 64)).all (fun r => zeroAt r 31 30) && t.entries.all (fun e => e.fits t.cycleFrames) &&
     (t.entries.zip (t.entries.drop 1)).all (fun p => decide (p.1.moment ≤ p.2.moment)) &&
     (List.range 16).all t.groupOk then some t else none

/-- CANDLE_LOAD (R434); the stream number is the device's choice. -/
def Dev.candleLoad (c : Cmd) (d : Dev) : Dev :=
  let free := (List.finRange 32).filter fun k => (d.stream k).state == 0#2
  let n := opnd c.pkt.o1 31 0
  if free.isEmpty then
    ({ d with candle := { d.candle with seen := d.candle.seen ||| 1#6 } } : Dev).refuse c.id stCandleFull
  else if n < 64 || 64 + 32 * 1024 < n then d.refuse c.id stCandleFormat
  else
    d.fetchBytes c.id (opDa c.pkt.o0) n (fun b d =>
      match parseCandle b with
      | none => d.refuse c.id stCandleFormat
      | some t =>
        let p := d.pick free
        let k := p.1.getD 0
        (p.2.setStream k { state := 1, table := some t }).okCmd c.id k.val 0 0)

def execCandleLoad (tag : Tag) (s : State) : Out := .next (s.onDev (Dev.onCmd tag 0x70 Dev.candleLoad))

-- The schedule check (R436). Times are slices × NUM × 65536, so that phases and ac are both whole.

def TimePart.ofUnits (t : TimePart) (u : Nat) : Nat := u * t.den * slicesPerSecond
def TimePart.ofAc (t : TimePart) (clk a : Nat) : Nat := slicesOf clk a * t.num * 65536

/-- R279, R297, R461: one frame of a session at the worst rate, at its wheel's clock. -/
def Dev.frameTime (d : Dev) (s : SessDesc) : Nat :=
  let eff := if s.cores = 1 then 100 else if s.split = 2 then 80 else 92
  cdiv (slicesPerSecond * d.time.num * 65536 * (s.width * s.height) * 100 * 33)
    (codecRate (s.dir == 0) * s.cores * eff * d.dieClock (wheelDie s.wheel))

/-- A launch in the model of R436: its entry, cycle, dies, firing, finish. -/
structure SchedRun where
  entry : Nat
  cycle : Nat
  dies : List Nat
  fire : Nat
  finish : Nat
  deriving DecidableEq, Repr

def Dev.candleDies (d : Dev) (e : CandleEntry) : List Nat := match d.program e.target with | some p => p.image.dies | none => []

/-- When an entry fires in a cycle, from the stream's first. -/
def CandleTable.fireOf (t : CandleTable) (tm : TimePart) (n : Nat) (e : CandleEntry) : Nat :=
  tm.ofUnits (n * t.cycleFrames * 65536 + e.moment)
/-- When a group instance's entries of an action fire. -/
def CandleTable.instFires (t : CandleTable) (tm : TimePart) (action group inst : Nat) : List Nat :=
  (t.entries.filter fun e => e.action == action && e.group == group).map fun e => t.fireOf tm (inst + e.lag) e

/-- The actions of a cycle that fire, with their entries. -/
def CandleTable.ofCycle (t : CandleTable) (n : Nat) : List (Nat × CandleEntry) := (indexed t.entries).filter fun e => decide (e.2.lag ≤ n)

/-- R436: the stream's launches, over the cycles of the check. -/
def Dev.schedRuns (d : Dev) (t : CandleTable) (cycles : Nat) : List SchedRun :=
  (List.range cycles).foldl (fun acc n => (t.ofCycle n).foldl (fun (acc : List SchedRun) e =>
    if e.2.action = actLaunch || e.2.action = actDeliver then
      let fire := t.fireOf d.time n e.2
      let dies := d.candleDies e.2
      let before := maxNat ((acc.filter fun r => r.dies.any dies.contains).map (·.finish))
      let cut := if e.2.action = actDeliver then maxNat (t.instFires d.time actCutoff e.2.group (n - e.2.lag)) else 0
      let w := match d.program e.2.target with
        | some p => d.planWcet p.image (howOf e.2.mode t.budgetMarked)
        | none => 0
      acc ++ [{ entry := e.1, cycle := n, dies := dies, fire := fire,
                finish := max fire (max before cut) + d.time.ofAc (d.workClock dies) (54848 + w) }]
    else acc) acc) []

/-- The instants at which a die's launches leave it idle do not all lie outside [a, b): the stretches from firing to finish, in
order of firing, do not cover it (log 36). -/
def leavesIdle (a b : Nat) (spans : List (Nat × Nat)) : Bool :=
  let s := sortBy (fun x y => decide (x.1 ≤ y.1)) (spans.filter fun x => decide (x.1 < b) && decide (a < x.2))
  decide ((s.foldl (fun (acc : Nat × Bool) x => if acc.1 < x.1 then (acc.1, true) else (max acc.1 x.2, acc.2)) (a, false)).1 < b) ||
  (s.foldl (fun (acc : Nat × Bool) x => if acc.1 < x.1 then (acc.1, true) else (max acc.1 x.2, acc.2)) (a, false)).2

/-- R436. -/
def Dev.scheduleOk (d : Dev) (t : CandleTable) : Bool :=
  let cycles := maxNat (t.entries.map (·.lag)) + 2
  let runs := d.schedRuns t cycles
  let at_ (r : SchedRun) : CandleEntry := t.entries.getD r.entry
    { frameOffset := 0, phase := 0, action := 0, group := 0, lag := 0, pass := 0, target := 0, mode := 0, listCount := 0, listStride := 0,
      listDa := 0, seed := 0 }
  let passes := runs.all fun r => (at_ r).pass == 0 ||
    (t.instFires d.time actCutoff (at_ r).group (r.cycle - (at_ r).lag)).all fun c => decide (r.finish ≤ c)
  let delivers := runs.all fun r => (at_ r).action != actDeliver ||
    (t.instFires d.time actEncode (at_ r).group (r.cycle - (at_ r).lag)).all fun c => decide (r.finish < c)
  let media := (List.range (cycles + 1)).flatMap fun n =>
    (t.ofCycle n).filterMap fun e =>
      if e.2.action = actDecode || e.2.action = actEncode then some (e.2.target, t.fireOf d.time n e.2) else none
  let mediaOk := (indexed media).all fun m =>
    match (media.drop (m.1 + 1)).find? fun x => x.1 == m.2.1, d.session m.2.1 with
    | some nx, some s => decide (m.2.2 + d.frameTime s.desc < nx.2)
    | _, _ => true
  let idle := (List.range cycles).all fun n => (List.range 14).all fun die =>
    leavesIdle (d.time.ofUnits (n * t.cycleFrames * 65536)) (d.time.ofUnits ((n + 1) * t.cycleFrames * 65536))
      ((runs.filter fun r => r.dies.contains die).map fun r => (r.fire, r.finish))
  passes && delivers && mediaOk && idle

-- CANDLE_ARM and CANDLE_DISARM (R435, R440)

/-- The kilns, engines (12 and 13) and sessions (100 on) that a table's targets use. -/
def Dev.candleUses (d : Dev) (t : CandleTable) : List Nat :=
  t.entries.flatMap fun e =>
    if e.action = actLaunch || e.action = actDeliver then
      match d.program e.target with
      | some p => (List.range 12).filter (p.image.dies.contains ·) ++ (List.range 2).filterMap fun w =>
          if p.image.kernels.any fun k => k.kind == 3 && (match p.image.pixel k with | some x => bit x.wheels w | none => false) then some (12 + w)
          else none
      | none => []
    else if e.action = actCutoff then [] else [100 + e.target]

/-- R435's checks of the targets. -/
def Dev.targetsCheck (d : Dev) (k : Fin 32) (t : CandleTable) : Half :=
  let progs := t.entries.filter fun e => e.action == actLaunch || e.action == actDeliver
  let media := t.entries.filter fun e => e.action == actDecode || e.action == actEncode
  if !progs.all (fun e => match d.liveProgram e.target with | some p => bit p.image.classes 0 | none => false) then stProgramInvalid
  else if !media.all (fun e => match d.session e.target with
      | some s => s.closing.isNone && s.desc.realtime && !s.desc.randomAccess && (s.desc.dir == 0) == (e.action == actDecode)
      | none => false) then stMediaSessionInvalid
  else if (List.finRange 32).any (fun i => i != k && ((d.stream i).state == 2#2 || (d.stream i).state == 3#2) &&
      (match (d.stream i).table with | some x => (d.candleUses x).any (d.candleUses t).contains | none => false)) then stCandleState
  else stOk

/-- Does an entry fire in a cycle: its instance is not before the first, nor after the last once the stream drains (R435, R440). -/
def Stream.fires (st : Stream) (n : Nat) (e : CandleEntry) : Bool :=
  decide (e.lag ≤ n) && (match st.last with | some m => decide (n - e.lag ≤ m) | none => true)

/-- Move on to the next entry that fires, from a place; fuel bounds the search. -/
def Stream.seek (t : CandleTable) : Nat → Stream → Stream
  | 0, st => st
  | fuel + 1, st =>
    match t.entries[st.entry]? with
    | none => Stream.seek t fuel { st with cycle := st.cycle + 1, entry := 0 }
    | some e => if st.fires st.cycle e then st else Stream.seek t fuel { st with entry := st.entry + 1 }
def Stream.settle (st : Stream) (t : CandleTable) : Stream := st.seek t ((t.entries.length + 1) * 6)

/-- R435. cqOn tells which completion rings are enabled. -/
def Dev.candleArm (cqOn : Fin 64 → Bool) (c : Cmd) (d : Dev) : Dev :=
  let k := streamIx (opnd c.pkt.o0 4 0)
  let f0 := opnd c.pkt.o1 31 0
  let st := d.stream k
  match st.table with
  | none => d.refuse c.id stCandleState
  | some t =>
    if st.state != 1#2 || !cqOn t.reportCq then d.refuse c.id stCandleState
    else
      let chk := d.targetsCheck k t
      let ahead := (f0 + 2 ^ 32 - d.phaseNow / 65536) % 2 ^ 32
      if chk ≠ stOk then d.refuse c.id chk
      else if t.requireLock && d.time.state.toNat < 2 then d.refuse c.id stTimeUnlocked
      else if ahead = 0 || 2 ^ 31 < ahead then d.refuse c.id stDeadline
      else if !d.scheduleOk t then d.refuse c.id stDeadline
      else (d.setStream k (({ st with state := 2, f0 := f0, cycle := 0, entry := 0 } : Stream).settle t)).okCmd c.id 0 0 0

def execCandleArm (tag : Tag) (s : State) : Out := .next (s.onDev (Dev.onCmd tag 0x71 (Dev.candleArm fun q => (s.cq q).enable)))

/-- R440: the cycle that has begun last, from where the stream stands; none before the first. -/
def Stream.current (st : Stream) (t : CandleTable) (frame : Nat) : Option Nat :=
  let diff := (frame + 2 ^ 32 - (st.f0 + st.cycle * t.cycleFrames) % 2 ^ 32) % 2 ^ 32
  if diff < 2 ^ 31 then some (st.cycle + diff / t.cycleFrames) else if st.cycle = 0 then none else some (st.cycle - 1)

/-- CANDLE_DISARM (R440). -/
def Dev.candleDisarm (c : Cmd) (d : Dev) : Dev :=
  let k := streamIx (opnd c.pkt.o0 4 0)
  let st := d.stream k
  match st.table with
  | none => d.refuse c.id stCandleState
  | some t =>
    if st.state == 1#2 then (d.setStream k {}).okCmd c.id 0 0 0
    else if st.state == 2#2 then
      match st.current t (d.phaseNow / 65536) with
      | none => (d.setStream k {}).okCmd c.id 0 0 0
      | some n => (d.setPhase c.id .running).setStream k (({ st with state := 3, last := some n, disarm := some c.id } : Stream).settle t)
    else d.refuse c.id stCandleState

def execCandleDisarm (tag : Tag) (s : State) : Out := .next (s.onDev (Dev.onCmd tag 0x72 Dev.candleDisarm))

/-- CANDLE_STREAM_FREED (R440): every action of the instances begun has fired and reported. -/
def Dev.streamFreed (k : Fin 32) (d : Dev) : Dev :=
  let st := d.stream k
  match st.table, st.last with
  | some t, some n =>
    if st.state == 3#2 && st.acts.isEmpty && !((t.entries[st.entry]?).any (st.fires st.cycle)) && decide (n ≤ st.cycle) then
      let d1 := d.setStream k {}
      match st.disarm with
      | some c => d1.okCmd c 0 0 0
      | none => d1
    else d
  | _, _ => d

def execCandleStreamFreed (k : Fin 32) (s : State) : Out := .next (s.onDev (Dev.streamFreed k))

-- Firing (R433, R437)

/-- The action of a stream that is due now: its table, cycle, number and entry. Of streams due at one phase the lowest goes
first. -/
def Dev.dueOf (d : Dev) (k : Fin 32) : Option (CandleTable × Nat × CandleEntry) :=
  let st := d.stream k
  if !(d.running && (st.state == 2#2 || st.state == 3#2)) then none
  else
    match st.table with
    | none => none
    | some t =>
      match t.entries[st.entry]? with
      | some e => if st.fires st.cycle e && reached d.phaseNow (st.fireAt t st.cycle e) then some (t, st.entry, e) else none
      | none => none
def Dev.mayFire (d : Dev) (k : Fin 32) (t : CandleTable) (e : CandleEntry) : Bool :=
  let when_ := (d.stream k).fireAt t (d.stream k).cycle e
  (List.finRange 32).all fun i => decide (k ≤ i) ||
    (match d.dueOf i with | some x => (d.stream i).fireAt x.1 (d.stream i).cycle x.2.2 != when_ | none => true)

/-- R439: UNLOCKED and STEPPED of an action that fires. -/
def Dev.fireFlags (d : Dev) (st : Stream) (at_ : Nat) : Nat :=
  16 * b2n (d.time.state != 2#2) +
  64 * b2n (match st.stepped with | some p => reached p.2 at_ && !reached p.1 at_ | none => false)

/-- An action fires: it is counted, its record of firing kept, and the stream moves on. f is what the action then does. -/
def Dev.fire (k : Fin 32) (action : Nat) (f : CandleTable → Nat → CandleEntry → CandleAct → Dev → Dev) (d : Dev) : Dev :=
  match d.dueOf k with
  | none => d
  | some (t, ix, e) =>
    if e.action ≠ action || !d.mayFire k t e then d
    else
      let st := d.stream k
      let n := st.cycle
      let a : CandleAct := { entry := ix, cycle := n, due := st.frameOf t n e, flags := d.fireFlags st (st.fireAt t n e) }
      let st1 : Stream := { st with
        acts := st.acts ++ [a], entry := ix + 1,
        insts := (st.insts.filter fun g => decide (n ≤ g.cycle + 4) || st.acts.any fun x => decide (x.cycle ≤ g.cycle + 3)),
        stepped := if (d.fireFlags st (st.fireAt t n e)) < 64 then none else st.stepped }
      f t n e a ((d.setStream k (st1.settle t)).count hubDie 0x07 k.val 1)

/-- R433: the DA of an action's record. -/
def CandleEntry.record (e : CandleEntry) (n : Nat) : Nat := e.listDa + n % (max 1 e.listCount) * e.listStride
def CandleEntry.seedOf (e : CandleEntry) (n : Nat) : Long := e.seed + BitVec.ofNat 64 n

/-- What a firing LAUNCH or DELIVER asks for. -/
def candleReq (k : Fin 32) (n ix : Nat) (e : CandleEntry) (da : Nat) : LaunchReq :=
  { owner := .candle k.val n ix, cls := 3, handle := e.target, mode := e.mode, da := da, seed := e.seedOf n }

/-- Note the launch that an action will run. -/
def Dev.actRuns (k : Fin 32) (a : CandleAct) (d : Dev) : Dev :=
  d.modStream k fun st => { st with acts := st.acts.map fun x =>
    if x.entry = a.entry && x.cycle = a.cycle then { x with launch := some d.nextLaunch, holds := false } else x }

/-- An action that runs a launch asks for its admission. -/
def Dev.actAdmit (k : Fin 32) (a : CandleAct) (e : CandleEntry) (p : Nat) (d : Dev) : Dev :=
  ((d.actRuns k a).admitLaunch (candleReq k a.cycle a.entry e p)).settle

/-- A held action goes on: a LAUNCH that waited for a kiln's split (R229), unless its group has stopped or been cut off meanwhile; and a
DELIVER that has fired (R443), which starts, or whose group is repeated, once the CUTOFF has fired and every pass is over. -/
def Dev.deliverTry (k : Fin 32) (a : CandleAct) (d : Dev) : Dev :=
  let st := d.stream k
  match st.table with
  | none => d
  | some t =>
    match t.entries[a.entry]? with
    | none => d
    | some e =>
      let g := st.inst (a.cycle - e.lag) e.group
      let cut := t.entries.any fun x => x.group == e.group && x.action == actCutoff
      if !a.holds || d.splitPending e.target then d
      else if e.action = actLaunch then
        if e.pass ≠ 0 && (g.stopped || g.delivered.isSome) then
          (d.modStream k fun st => st.putInst { g with open_ := g.open_.filter (· != e.pass) }).actEnd k a stCancelled e.pass 32 0 0
        else d.actAdmit k a e (e.record a.cycle)
      else if (cut && g.delivered.isNone) || !g.open_.isEmpty then d
      else
        let p := g.delivered.getD 0
        if p = 0 || (t.repeatLate && g.late) then (d.markRepeated k g).actEnd k a stCancelled p (g.flags + 32) 0 0
        else d.actAdmit k a e (a.record.getD p 0)

/-- Every DELIVER that can start does. -/
def Dev.delivers (d : Dev) : Dev :=
  d.each (List.finRange 32) fun k d => d.each ((d.stream k).acts.filter (·.holds)) (Dev.deliverTry k)

/-- What a change lets go on: the arbiter, DELIVERs, media frames. -/
def Dev.calm (d : Dev) : Dev := ((d.settle).delivers).mediaPump
/-- The device changes, what it lets go on goes on, and reports are posted. -/
def State.act (f : Dev → Dev) (s : State) : State := (s.onDev fun d => (f d).calm).flushReports

/-- A LAUNCH action (R438, R441): a pass of a group that has stopped is not launched; one whose kiln has a split pending is held (R229). -/
def Dev.fireLaunch (k : Fin 32) (_ : CandleTable) (n : Nat) (e : CandleEntry) (a : CandleAct) (d : Dev) : Dev :=
  let go (d : Dev) : Dev :=
    if d.splitPending e.target then
      d.modStream k fun st => { st with acts := st.acts.map fun x => if x.entry = a.entry && x.cycle = a.cycle then { x with holds := true } else x }
    else (d.actRuns k a).admitLaunch (candleReq k n a.entry e (e.record n))
  if e.pass = 0 then go d
  else
    let g := (d.stream k).inst (n - e.lag) e.group
    if g.stopped || g.delivered.isSome then d.actEnd k a stCancelled e.pass 32 0 0
    else go (d.modStream k fun st => st.putInst { g with open_ := g.open_ ++ [e.pass] })

/-- CANDLE_LAUNCH (R438). -/
def execCandleLaunch (k : Fin 32) (s : State) : Out := .next (s.act (Dev.fire k actLaunch (Dev.fireLaunch k)))

/-- A MEDIA action's record as a frame, its checks, and its way to the arbiter (R433, R438, R444). -/
def Dev.fireMedia (decode : Bool) (k : Fin 32) (t : CandleTable) (n : Nat) (e : CandleEntry) (a : CandleAct) (d : Dev) : Dev :=
  let da := e.record n
  let own : MediaOwner := .candle k.val n a.entry
  let blank := mediaJobOf d.media.nextJob own decode 0 0 0 0
  if !d.daOk da 32 then d.mediaEnd blank stAddress 0 0 0
  else
    match d.mem.firstPoison da 32 with
    | some w => (d.ueAt w true).mediaEnd blank stUncorrectable 0 0 0
    | none =>
      let o (i : Nat) : Nat := d.mem.readNat (da + 8 * i) 8
      let g := (d.stream k).inst (n - e.lag) e.group
      let delivered := !(t.entries.any fun x => x.group == e.group && x.action == actDeliver) || g.deliverDone
      let rep := !decode && (g.repeated || !delivered)
      let j0 := mediaJobOf d.media.nextJob own decode (o 0) (o 1) (o 2) (o 3)
      let j := if rep then { j0 with repeated := true, inSlot := 255, flush := false, forceKey := false } else j0
      let pkt : Packet := { opcode := if decode then 0x61 else 0x62, cls := 0, fenceBefore := false, tag := 0, deadline := 0,
                            o0 := BitVec.ofNat 64 (o 0), o1 := BitVec.ofNat 64 (o 1), o2 := BitVec.ofNat 64 (o 2), o3 := BitVec.ofNat 64 (o 3),
                            o4 := 0, o5 := 0 }
      if !operandsOk pkt then d.mediaEnd j stPacketFormat 0 0 0
      else if j.session ≠ e.target then d.mediaEnd j stMediaSessionInvalid 0 0 0
      else if rep && (match d.session j.session with | some s => s.frames == 0 | none => false) then
        d.actEnd k a stCancelled 0 (g.flags + 32) 0 0
      else
        let st := d.mediaCheck j none
        if st ≠ stOk then d.mediaEnd j st 0 0 0 else d.mediaQueue j

/-- CANDLE_MEDIA_DECODE (R437). -/
def execCandleMediaDecode (k : Fin 32) (s : State) : Out := .next (s.act (Dev.fire k actDecode (Dev.fireMedia true k)))
/-- CANDLE_MEDIA_ENCODE (R444). -/
def execCandleMediaEncode (k : Fin 32) (s : State) : Out := .next (s.act (Dev.fire k actEncode (Dev.fireMedia false k)))

/-- R442: the cut-off of a group instance: the first pass that runs is cancelled, those behind it are skipped. -/
def Dev.fireCutoff (k : Fin 32) (t : CandleTable) (n : Nat) (e : CandleEntry) (a : CandleAct) (d : Dev) : Dev :=
  let g := (d.stream k).inst (n - e.lag) e.group
  let p := t.deliveredOf g
  let late := decide (p < t.highest e.group)
  let g1 : GroupInst := { g with delivered := some p, late := late }
  let d1 := d.modStream k fun st => st.putInst g1
  let d2 := match d1.laterPasses k g.cycle e.group 0 with
    | [] => d1
    | l :: rest => (d1.stopLaunch l stCancelled).each rest (Dev.skipLaunch k)
  let d3 : Dev :=
    if late then
      (({ d2 with candle := { d2.candle with seen := d2.candle.seen ||| 2#6, lastLate := BitVec.ofNat 5 k.val } } : Dev).setEvent evLate).count
        hubDie 0x08 k.val 1
    else d2
  d3.actEnd k a stOk p g1.flags 0 0

/-- CUTOFF (R442). -/
def execCutoff (k : Fin 32) (s : State) : Out := .next (s.act (Dev.fire k actCutoff (Dev.fireCutoff k)))

/-- R443: a DELIVER fires: its record is read now; it starts when its group's passes are over. -/
def Dev.fireDeliver (k : Fin 32) (_ : CandleTable) (n : Nat) (e : CandleEntry) (a : CandleAct) (d : Dev) : Dev :=
  let da := e.record n
  let g := (d.stream k).inst (n - e.lag) e.group
  let bad (st : Half) (d : Dev) : Dev := (d.markRepeated k g).actEnd k a st (g.delivered.getD 0) (g.flags + 32) 0 0
  if !d.daOk da 512 then bad stAddress d
  else
    match d.mem.firstPoison da 512 with
    | some w => bad stUncorrectable (d.ueAt w true)
    | none =>
      let rec_ := (List.range 64).map fun i => d.mem.readNat (da + 8 * i) 8
      d.modStream k fun st => { st with acts := st.acts.map fun x =>
        if x.entry = a.entry && x.cycle = a.cycle then { x with holds := true, record := rec_ } else x }

/-- DELIVER (R443). -/
def execDeliver (k : Fin 32) (s : State) : Out := .next (s.act (Dev.fire k actDeliver (Dev.fireDeliver k)))

end Sys2Proof.Machine
end

