-- ==== Sys2Proof/Machine/ChainExec.lean ====
section
/-! DEFINITION. Segments of chains: the members' sums, and the rows that the last member writes (R97 to R99, R148, R151, R205). -/
namespace Sys2Proof.Machine

-- Chain segments (R97, R98)

/-- May a launch's chain results still be written (R94, R99). -/
def Launch.chainsRun (l : Launch) : Bool := l.mayEnd && l.phase != .ending stCancelled && l.phase != .ending stGroupChanged

/-- A segment's message from another device, in the inbox. -/
def Dev.chainInbox (d : Dev) (ch : Chain) (c : ChainRun) (i seg : Nat) : Option (Nat × List Word) :=
  (indexed d.fabric.inbox).findSome? fun x =>
    let m := parseMsg x.2.payload
    if m.kind = mChain && m.op = 0 && m.group = ch.group && m.bucket = c.kernel && m.seq = c.entry && m.job = c.head && m.count = i &&
       m.shard = at_ 16 c.m + c.n && m.offset = 4096 * seg && (d.group ch.group).any (fun g => g.epoch == m.epoch) then
      some (x.1, (chunks 4 (m.data.length / 4) m.data).map fun b => BitVec.ofNat 32 (leNat b))
    else none

/-- The running sum that member i receives in a segment, and the device after taking it. -/
def Dev.chainIn (ch : Chain) (c : ChainRun) (i seg : Nat) (d : Dev) : Option (List Word × Dev) :=
  match ch.members[i - 1]?, ch.members[i]? with
  | some p, some m =>
    if p.rank = m.rank then (c.sumAt (i - 1) seg).map fun s => (s, d)
    else
      match d.chainInbox ch c i seg with
      | some q => some (q.2, { d with fabric := { d.fabric with inbox := d.fabric.inbox.eraseIdx q.1 } })
      | none => none
  | _, _ => none

/-- Rows of the block that a segment's words complete: those that end in (before, after] of the words in order. -/
def rowsDone (width before after : Nat) : Nat × Nat := if width = 0 then (0, 0) else (before / width, after / width - before / width)

/-- R148, R151: the last member of an attention kernel's chain finishes the rows that a segment makes whole. -/
def Dev.attnLast (l : Launch) (im : Image) (c : ChainRun) (i seg width : Nat) (d : Dev) : Dev :=
  let x : Exec := { kernel := c.kernel, entry := c.entry, head := c.head, unit := 0, pos := (c.m, i, 0) }
  match d.attnJobOf l im x, (im.memberOf x).bind fun m => m.1.members[i]? with
  | some j, some m =>
    if seg = 0 then d
    else
      let head := (c.sumAt i 0).getD []
      let words := (List.range seg).flatMap fun s => (c.sumAt i (s + 1)).getD []
      let r := rowsDone width (segWords * (seg - 1)) words.length
      let rows := (List.range r.2).map fun q => (r.1 + q, attnRowOf head ((words.drop ((r.1 + q) * width)).take width) (r.1 + q))
      d.attnWrite (Fin.ofNat 12 m.kiln) (m.tile / 2) l.id l.seed (l.policy.getD d.num) j rows
  | _, _ => d

/-- CHAIN_SEGMENT_ARRIVE (R98, R151): the next member that can take the segment adds its own partial; the last writes the rows that are
now whole. -/
def Dev.chainArrive (launch run seg : Nat) (d : Dev) : Dev :=
  match d.launchOf launch with
  | none => d
  | some l =>
    match d.imageOf l, l.chains[run]? with
    | some im, some c =>
      match (im.kernels[c.kernel]?).bind fun k => (im.chains[k.chain]?).map fun ch => (k, ch) with
      | none => d
      | some (k, ch) =>
        if !l.chainsRun || c.written then d
        else
          let rank := d.chainRank ch
          let can (i : Nat) : Option (Nat × List (List Word) × List Word × Dev) :=
            match ch.members[i]?, c.partials.find? fun p => p.1 == i with
            | some m, some p =>
              if m.rank == rank && (c.sumAt i seg).isNone && decide (seg < segsOf p.2) &&
                 ((List.range seg).all fun s => (c.sumAt i s).isSome) then
                (d.chainIn ch c i seg).map fun q => (i, p.2, q.1, q.2)
              else none
            | _, _ => none
          match ((List.range (ch.members.length - 1)).map (· + 1)).findSome? can with
          | none => d
          | some (i, own, got, d1) =>
            let heads := if seg = 0 then c.heads ++ [(i, got)] else c.heads
            let head := match heads.find? fun h => h.1 == i with | some h => h.2 | none => []
            let width := (own.getLastD []).length
            let sum := if k.kind = 1 then attnSegment d.numerics width seg head (segment own 0) got (segment own seg)
              else chainAdd got (segment own seg)
            let c' := { c with sums := c.sums ++ [(i, seg, sum)], heads := if k.kind = 1 then heads else c.heads }
            let d2 := d1.chainForward launch ch c' i seg
            let d3 :=
              if i + 1 < ch.members.length then d2
              else if k.kind = 1 then d2.attnLast l im c' i seg width
              else
                match l.entries[c.entry]?, k.shapeOf with
                | some e, some (ab, blk) =>
                  let words := (List.range (seg + 1)).flatMap fun s => (c'.sumAt i s).getD []
                  let r := rowsDone width (segWords * seg) words.length
                  let rows := (List.range r.2).map fun q => (words.drop ((r.1 + q) * width)).take width
                  let w := placeOf im k e c.head
                  let tile := match k.tileList.findIdx? fun q => (ch.members[i]?).any fun m => q == (m.kiln, m.tile) with
                    | some u => (match k.tileList[u]? with | some q => tileNumber q.1 q.2 | none => 0)
                    | none => 0
                  let wc := d2.writer (l.policy.getD d.num) l.seed tile
                  d2.putResults false launch (d2.rowsOut wc w k.bufOut (c.n * ab.2 * blk.2) (c.m * ab.1 * blk.1 + r.1) r.1 (ab.2 * blk.2) rows)
                | _, _ => d2
            d3.chainPut launch ch c'
    | _, _ => d

def execChainSegmentArrive (launch run segment : Nat) (s : State) : Out := .next (s.onDev (Dev.chainArrive launch run segment))

end Sys2Proof.Machine
end

