-- ==== Sys2Proof/Machine/LaunchEnd.lean ====
section
/-! DEFINITION. The end of a launch, host preemption, and CANCEL (R58, R60, R64, R110, R181, R369, R377, R412 to R414, R428). -/
namespace Sys2Proof.Machine

-- LAUNCH_COMPLETE (R64, R181, R369)

/-- Nothing of a launch is left to run: every execution and chain is over and its gradient step has ended; a launch that ends early
waits for its tiles alone (R94). -/
def Dev.launchOver (d : Dev) (l : Launch) (im : Image) : Bool :=
  !d.tileRuns l.id &&
  match l.phase with
  | .running => (d.front l im).isNone && (l.job.isNone || l.step.isSome)
  | .ending _ => true
  | _ => false

/-- R64: every layer escalated, or every tile execution's final run was wider than marked. -/
def Dev.allWide (d : Dev) (l : Launch) (im : Image) : Bool :=
  let xs := d.scheduleOf l
  let tiles := (indexed xs).filter fun p => im.isTileExec p.2 && d.execHere im p.2
  let layers := distinct (tiles.map fun p => im.layerOf p.2)
  let ends := tiles.filterMap fun p => l.done.find? fun e => e.ix == p.1
  !ends.isEmpty && (ends.all (·.wide) || decide (layers.length ≤ d.escalatedOf l))

/-- The status a launch ends with (R58, R60, R64, R110, R158, R369, R413). -/
def Dev.launchStatus (d : Dev) (l : Launch) (im : Image) : Half :=
  match l.phase with
  | .ending st => st
  | _ =>
    match l.step with
    | some st => if st ≠ stOk && st ≠ stNumericNan then st
      else if l.nanFinal || 0 < l.nanRows || 0 < l.nanResults then stNumericNan
      else if d.allWide l im then stWidened else stOk
    | none =>
      if l.nanFinal || 0 < l.nanRows || 0 < l.nanResults then stNumericNan
      else if d.allWide l im then stWidened else stOk

/-- Did the arbiter take a launch, so that its pages were prepared (R188). -/
def Dev.prepared (d : Dev) (id : Nat) : Bool := !(d.cx.arb.any fun o => o.launch && o.owner == id && !o.taken)

/-- LAUNCH_COMPLETE (R64): the launch's contexts take their lengths, what it held is free, its reply waits to be written. -/
def Dev.launchComplete (id : Nat) (d : Dev) : Dev :=
  match d.launchOf id with
  | none => d
  | some l =>
    match d.imageOf l with
    | none => d
    | some im =>
      if !d.launchOver l im then d
      else
        let st := d.launchStatus l im
        let early := match l.phase with | .ending _ => true | _ => false
        let d1 := if early then d.gradCancelLaunch id else d
        let l1 := (d1.launchOf id).getD l
        let good := st == stOk || st == stWidened || st == stNumericNan
        let d2 := if d.prepared id then d1.ctxEnd l1 good else d1
        d2.launchEnded id st

def execLaunchComplete (id : Nat) (s : State) : Out := .next (s.act (Dev.launchComplete id))

-- PREEMPT and RESUME (R412, R414, R428)

/-- May a command's launches be preempted: some run, none waits or is preempted, and no record of a list is left to take. -/
def Dev.preemptible (d : Dev) (cmd : Nat) : Bool :=
  let ls := d.launchesOf cmd
  !ls.isEmpty && ls.all (fun l => l.phase == .running) &&
  (match d.listRun cmd with | some x => x.refused.isSome || decide (x.count ≤ x.next) | none => true)

/-- PREEMPT. It waits for the tiles to stop; where the target ends first it completes after the target's reply with ST_TAG_IDLE. -/
def Dev.preempt (c : Cmd) (d : Dev) : Dev :=
  match d.tagHolder (c.pkt.o0.extractLsb' 0 12) with
  | none => d.refuse c.id stTagIdle
  | some t =>
    if t.pkt.opcode != 0x12#8 && t.pkt.opcode != 0x13#8 then d.refuse c.id stPreemptState
    else if t.phase == .done || t.phase == .refused then
      d.modCmd c.id fun c => { c with phase := .after t.id, reply := { status := stTagIdle } }
    else if !d.preemptible t.id then d.refuse c.id stPreemptState
    else
      let d1 := d.modCmd c.id fun c => { c with phase := .after t.id, reply := { status := stTagIdle } }
      (d1.each ((d.launchesOf t.id).map (·.id)) fun id d => d.modLaunch id fun l => { l with phase := .preempting }).preemptSettle

def execPreempt (tag : Tag) (s : State) : Out := .next (s.onDev (Dev.onCmd tag 0x14 Dev.preempt))

/-- RESUME of a launch that PREEMPT stopped. -/
def Dev.resume (c : Cmd) (d : Dev) : Dev :=
  match d.tagHolder (c.pkt.o0.extractLsb' 0 12) with
  | none => d.refuse c.id stPreemptState
  | some t =>
    let ls := (d.launchesOf t.id).filter fun l => l.phase == .preempted
    if ls.isEmpty then d.refuse c.id stPreemptState
    else (d.each (ls.map (·.id)) fun id d => d.modLaunch id fun l => { l with phase := .running }).okCmd c.id 0 0 0

def execResume (tag : Tag) (s : State) : Out := .next (s.onDev (Dev.onCmd tag 0x15 Dev.resume))

-- CANCEL (R413, R414)

/-- The target was cancelled: its reply carries ST_CANCELLED. -/
def Dev.cancelled (t : Cmd) (d : Dev) : Dev := d.endCmd t.id stCancelled (vals 0 0 0)

/-- A LAUNCH or LAUNCH_LIST: those that wait for the arbiter leave it, the others stop at their next boundaries; no later record is
admitted. -/
def Dev.cancelLaunches (t : Cmd) (d : Dev) : Dev :=
  let ls := d.launchesOf t.id
  let d1 := d.modList t.id fun x =>
    if x.refused.isNone && decide (x.next < x.count) then { x with refused := some (x.next, stCancelled, 0) } else x
  let d2 := d1.each ls fun l d =>
    if l.phase == .waiting then (d.gradCancelLaunch l.id).launchEnded l.id stCancelled
    else (d.stopLaunch l.id stCancelled).gradCancelLaunch l.id
  d2.listSettle t.id

/-- R413's row for a target in progress; none where the target cannot be cancelled. -/
def Dev.cancelRunning (t : Cmd) (d : Dev) : Option Dev :=
  let op := t.pkt.opcode.toNat
  if op = 0x12 || op = 0x13 then some (d.cancelLaunches t)
  else if op = 0x22 || op = 0x23 then
    some ((d.migCancel t.id).cancelled t)
  else if op = 0x50 then
    if d.coll.jobs.any fun j => j.cmds.contains t.id then some (d.gradCancelCmd t.id) else some (d.collCancel t.id)
  else if op = 0x61 || op = 0x62 then
    match d.media.jobs.find? fun j => j.owner == .cmd t.id with
    | none => none
    | some j =>
      if j.started || 0 < j.step then none
      else some (((d.mediaUndo j false).dropMediaJob j.id).cancelled t)
  else if op = 0x02 then some ((d.cancelled t))
  else if op = 0x31 || op = 0x32 || op = 0x33 then
    if d.cx.arb.any fun o => !o.launch && o.owner == t.id then
      let cx : CtxPart := { d.cx with
        arb := d.cx.arb.filter fun o => !(!o.launch && o.owner == t.id),
        destroying := if op = 0x32 then d.cx.destroying.filter fun n => n != opnd t.pkt.o1 13 0 else d.cx.destroying }
      some (({ d with cx := cx } : Dev).cancelled t)
    else none
  else if op = 0x63 then
    match d.media.sessions.find? fun s => s.closing == some t.id with
    | some s => some ((d.modSession s.num fun s => { s with closing := none }).cancelled t)
    | none => none
  else if op = 0x52 then
    match d.coll.jobs.find? fun j => j.closing == some t.id with
    | some j => some ((d.modJob j.id fun j => { j with closing := none }).cancelled t)
    | none => none
  else none

/-- The kinds of command that R413's table cancels wherever they stand. -/
def cancelKinds : List Nat := [0x02, 0x12, 0x13, 0x20, 0x21, 0x22, 0x23, 0x50, 0x61, 0x62]

/-- CANCEL. -/
def Dev.cancel (c : Cmd) (d : Dev) : Dev :=
  match d.tagHolder (c.pkt.o0.extractLsb' 0 12) with
  | none => d.refuse c.id stTagIdle
  | some t =>
    let after (st : Half) (d : Dev) : Dev := d.modCmd c.id fun x => { x with phase := .after t.id, reply := { status := st } }
    let mark (d : Dev) : Dev := d.modCmd t.id fun x => { x with cancelling := true }
    let kind := cancelKinds.contains t.pkt.opcode.toNat
    if t.cancelling then after stOk d
    else if (t.phase == .done || t.phase == .refused) && kind then after stTagIdle d
    else if t.phase == .waiting && kind then after stOk ((mark d).cancelled t)
    else if t.phase == .running || t.phase == .fence then
      match (mark d).cancelRunning t with
      | some d1 => after stOk d1
      | none => d.refuse c.id stCancelRefused
    else d.refuse c.id stCancelRefused

/-- CANCEL (R413). -/
def execCancel (tag : Tag) (s : State) : Out := .next (s.act (Dev.onCmd tag 0x16 Dev.cancel))

end Sys2Proof.Machine
end

