-- ==== Sys2Proof/Machine/Contexts.lean ====
section
/-! DEFINITION. The commands on pools and contexts (R170 to R175, R183 to R188, R246). -/
namespace Sys2Proof.Machine

-- Pools (R170 to R172)

def Dev.alignedRegion (d : Dev) (a n : Nat) : Bool := a % unitBytes == 0 && n % unitBytes == 0 && (n == 0 || d.inWindow a n)

/-- R246: the units that a pool pins: its table region's, and its frame region's where it is PINNED. -/
def Pool.pinUnits (p : Pool) : List Nat := unitsOf p.tabBase p.tabLen ++ (if p.pinned then unitsOf p.frameBase p.frameLen else [])

/-- R170: the checks in order. -/
def Dev.poolCheck (d : Dev) (n : Fin 16) (p : Pool) : Half :=
  if p.frameKiB = 0 || 128 < p.frameKiB then stPoolInvalid
  else if (d.cx.poolOf n).isSome then stPoolBusy
  else if !(d.alignedRegion p.frameBase p.frameLen && d.alignedRegion p.tabBase p.tabLen &&
      !overlaps p.frameBase p.frameLen p.tabBase p.tabLen && !d.inPools p.frameBase p.frameLen && !d.inPools p.tabBase p.tabLen &&
      decide (p.frames < 2 ^ 28)) then stPoolInvalid
  else if p.tabLen < 8 * p.frames + unitBytes then stPoolInvalid
  else if d.tier.pinnedWith p.pinUnits > d.tier.pinLimit then stPinLimit
  else stOk

def TierPart.poolPin (on : Bool) (ix : Nat) (t : TierPart) : TierPart := t.putUnit { t.unit ix with poolPin := on }

/-- CTX_CREATE with KIND 1 (R170, R171, R246). Units that lie in the crock are promoted first; the command then completes. -/
def Dev.poolCreate (c : Cmd) (d : Dev) : Dev :=
  if !c.pkt.o0.getLsbD 0 then d
  else
    let n := Fin.ofNat 16 (opnd c.pkt.o1 3 0)
    let p : Pool := { frameKiB := opnd c.pkt.o1 15 8, frameBase := opDa c.pkt.o2, frameLen := opDa c.pkt.o3, tabBase := opDa c.pkt.o4,
                      tabLen := opDa c.pkt.o5, pinned := c.pkt.o1.getLsbD 16 }
    let st := d.poolCheck n p
    if st ≠ stOk then
      ({ d with tier := { d.tier with pinLimitSeen := d.tier.pinLimitSeen || st == stPinLimit } } : Dev).refuse c.id st
    else
      let go := (p.pinUnits).filter fun u => (d.tier.unit u).place.isNone
      let d1 : Dev := { d with
        tier := (p.pinUnits).foldl (fun t u => t.poolPin true u) (d.tier.hold p.pinUnits), cx := d.cx.setPool n (some p),
        mem := d.mem.forget p.tabBase p.tabLen }
      if go.isEmpty then d1.okCmd c.id 0 0 0
      else d1.beginMig { cmd := c.id, left := go, up := true, count := 0 }

def execCtxCreatePool (tag : Tag) (s : State) : Out := .next (s.onDev (Dev.onCmd tag 0x30 Dev.poolCreate))

/-- CTX_DESTROY with KIND 1 (R172, R246). -/
def Dev.poolDestroy (c : Cmd) (d : Dev) : Dev :=
  if !c.pkt.o0.getLsbD 0 then d
  else
    let n := Fin.ofNat 16 (opnd c.pkt.o1 3 0)
    match d.cx.poolOf n with
    | none => d.refuse c.id stPoolInvalid
    | some p =>
      if d.cx.ctxs.any fun x => x.pool == n then d.refuse c.id stPoolBusy
      else
        ({ d with tier := (p.pinUnits).foldl (fun t u => t.poolPin false u) d.tier, cx := d.cx.setPool n none } : Dev).okCmd c.id 0 0 0

def execCtxDestroyPool (tag : Tag) (s : State) : Out := .next (s.onDev (Dev.onCmd tag 0x32 Dev.poolDestroy))

-- Contexts (R174, R175, R183, R186 to R188)

/-- CTX_CREATE with KIND 0. -/
def Dev.ctxCreate (c : Cmd) (d : Dev) : Dev :=
  if c.pkt.o0.getLsbD 0 then d
  else
    let n := Fin.ofNat 16 (opnd c.pkt.o1 3 0)
    let layers := opnd c.pkt.o1 24 16
    let groups := opnd c.pkt.o1 38 32
    let hd := opnd c.pkt.o1 42 40
    let fmt := opnd c.pkt.o1 51 48
    let cap := opnd c.pkt.o2 17 0
    let st := ctxCreateCheck d.cx n layers groups hd fmt cap
    if st ≠ stOk then
      let cx := if st = stTableFull then { d.cx with tableFullSeen := true } else if st = stPoolEmpty then d.cx.markEmpty n else d.cx
      ({ d with cx := cx } : Dev).refuse c.id st
    else
      let num := newCtxNum d.cx d.freeCtr
      let x : Ctx := { num := num, pool := n, layers := layers, groups := groups, hdCode := hd, fmtCode := fmt, capacity := cap }
      (({ d with cx := d.cx.add x, freeCtr := d.freeCtr + 1 } : Dev).putTables n).okCmd c.id num 0 0

def execCtxCreate (tag : Tag) (s : State) : Out := .next (s.onDev (Dev.onCmd tag 0x30 Dev.ctxCreate))

/-- R188: a command on a context reaches the arbiter; it goes at once where nothing holds it. -/
def Dev.ctxOp (num : Nat) (write destroy : Bool) (c : Cmd) (d : Dev) : Dev :=
  if !d.ctxLive num then d.refuse c.id stCtxInvalid
  else
    let cx : CtxPart := { d.cx with
      arb := d.cx.arb ++ [{ launch := false, owner := c.id, ctx := num, write := write, taken := false }],
      destroying := if destroy then d.cx.destroying ++ [num] else d.cx.destroying }
    ({ d.setPhase c.id .running with cx := cx } : Dev).calm

/-- CTX_FORK (R183 to R185). -/
def execCtxFork (tag : Tag) (s : State) : Out :=
  .next (s.onDev (Dev.onCmd tag 0x31 fun c => Dev.ctxOp (opnd c.pkt.o0 13 0) false false c)).flushReports
/-- CTX_TRIM (R186). -/
def execCtxTrim (tag : Tag) (s : State) : Out :=
  .next (s.onDev (Dev.onCmd tag 0x33 fun c => Dev.ctxOp (opnd c.pkt.o0 13 0) true false c)).flushReports
/-- CTX_DESTROY with KIND 0 (R187). -/
def execCtxDestroy (tag : Tag) (s : State) : Out :=
  .next (s.onDev (Dev.onCmd tag 0x32 fun c d => if c.pkt.o0.getLsbD 0 then d else d.ctxOp (opnd c.pkt.o1 13 0) true true c)).flushReports

end Sys2Proof.Machine
end

