-- ==== Sys2Proof/Machine/Membership.lean ====
section
/-! DEFINITION. The fabric above its links: routes, retrains, membership, joining and leaving, and what arriving flits complete
(R324, R327, R328, R333 to R336, R341, R347 to R351). -/
namespace Sys2Proof.Machine

/-- The end of an operation, step or bind by the owner of its message (R324). -/
def Dev.failOwner (o : MsgOwner) (st : Half) (d : Dev) : Dev :=
  match o with
  | .op id => d.endColl id st
  | .job id =>
    match d.job id with
    | some j => if j.active then (((d.dropMsgs o).stepEnd id st).jobSettle id).jobGo id else d.dropMsgs o
    | none => d.dropMsgs o
  | .bind h =>
    match d.coll.binds.find? fun b => b.handle == h with
    | some b => d.bindFail b st
    | none => d.dropMsgs o
  | .launch id => (d.dropMsgs o).stopLaunch id st
  | .none => d

/-- End what is bound to groups as R348 says of a leave. -/
def Dev.endGroups (st : Half) (d : Dev) : Dev :=
  let d1 := d.each d.coll.binds fun b d => d.bindFail b st
  let d2 := d1.each d1.coll.ops fun o d => d.endColl o.id st
  d2.each (d2.coll.jobs.filter GradJob.active) fun j d => ((d.dropMsgs (.job j.id)).stepEnd j.id st).jobSettle j.id

-- Membership events (R348 to R350)

/-- R335: a member that is gone holds no assigned ID any more; where it comes again it arrives as a later device. -/
def FabricPart.forgetId (n : NodeId) (f : FabricPart) : FabricPart :=
  if f.nodeValid && f.node == n then f
  else { f with fingerprints := f.fingerprints.filter (fun x => !f.assigned.any fun a => a.1 == x && a.2 == n),
                assigned := f.assigned.filter fun a => a.2 != n }

/-- R349, R350: an event is applied once: the member leaves the database and the routes, groups that name it advance, and
LOST_PEER_SEEN records a loss. -/
def Dev.applyEvent (e : MemberEvent) (except : Option (Fin 128)) (d : Dev) : Dev :=
  let f := d.fabric
  if f.applied.contains (e.origin, e.seq) then d
  else
    let d1 : Dev := { d with fabric := { f.forgetId e.node with
      applied := (e.origin, e.seq) :: f.applied, memberSeq := max f.memberSeq e.seq, lostPeerSeen := f.lostPeerSeen || e.loss,
      lsdb := f.lsdb.filter fun n => n.node != e.node || n.node == f.node } }
    let d2 := if f.state = 2#2 || f.state = 3#2 then d1.flood (.event e) except else d1
    (((d2.reroute).releaseHeld).groupEvent e.node).setEvent evFabric

def execMembershipEvent (e : MemberEvent) (s : State) : Out := .next (s.onDev (Dev.applyEvent e none))

/-- R349: a member that no other member's links reach is lost; a neighbour of it floods the event. -/
def Dev.lossCheck (n : NodeId) (d : Dev) : Dev :=
  let f := d.fabric
  let known := f.lsdb.any fun x => x.node == n
  let linked := f.lsdb.any fun x => x.node != n && x.links.any fun l => l.peer == n
  let near := f.ports.toList.any fun p => p.peerNode == n && p.peerValid
  if known && !linked && near && n != f.node && f.state == 2#2 then
    d.applyEvent { origin := f.node, seq := f.memberSeq + 1, loss := true, node := n } none
  else d

-- Joining (R334 to R336, R347)

/-- R347: with its node ID the device floods its links, installs routes, and is MEMBER. -/
def Dev.joinWith (cmd : Nat) (id : NodeId) (d : Dev) : Dev :=
  let taken := d.fabric.lsdb.any (fun n => n.node == id) || d.fabric.ports.toList.any fun p => p.carries && p.peerValid && p.peerNode == id
  if taken then
    ({ d with fabric := { d.fabric with idConflictSeen := true, state := 0#2, join := none } } : Dev).refuse cmd stFabricIdConflict
  else
    let d1 : Dev := { d with fabric := { d.fabric with node := id, nodeValid := true, state := 2#2, join := none } }
    ((d1.announce).reroute).okCmd cmd id.toNat 0 0

/-- FABRIC_JOIN (R347). -/
def Dev.fabricJoin (c : Cmd) (d : Dev) : Dev :=
  let f := d.fabric
  if f.role.mode = 0 then d.refuse c.id stFabricParam
  else if f.state ≠ 0#2 then d.refuse c.id stFabricBusy
  else if d.upPorts.isEmpty then d.refuse c.id stFabricIsolated
  else if f.role.mode = 1 then d.joinWith c.id (BitVec.ofNat 14 (f.role.g * f.role.n + f.role.i))
  else
    let fp := ownFingerprint
    match f.assigned.find? fun a => a.1 == fp with
    | some a => d.joinWith c.id a.2
    | none =>
      let d1 := (d.setPhase c.id .running)
      ({ d1 with fabric := { d1.fabric with state := 1#2, join := some c.id, electAt := d.after 200000 } } : Dev).flood (.fingerprint fp) none

def execFabricJoin (tag : Tag) (s : State) : Out := .next (s.onDev (Dev.onCmd tag 0xA0 Dev.fabricJoin))

/-- R335: an assignment is in force here: it is flooded, and a device that waits for its ID joins. -/
def Dev.takeAssigned (ids : List (Long × NodeId)) (except : Option (Fin 128)) (d : Dev) : Dev :=
  let d1 := (({ d with fabric := { d.fabric with assigned := ids } } : Dev).flood (.assignment ids) except)
  match d1.fabric.join, ids.find? fun a => a.1 == ownFingerprint with
  | some cmd, some a => d1.joinWith cmd a.2
  | _, _ => d1

/-- ELECTION_TIMEOUT (R335): no lower fingerprint was seen for 200 ms. -/
def Dev.elect (d : Dev) : Dev :=
  let f := d.fabric
  let fp := ownFingerprint
  if f.role.mode ≠ 2 || f.join.isNone || !d.due f.electAt || !f.assigned.isEmpty || f.fingerprints.any fun x => decide (x.toNat < fp.toNat) then d
  else
    let all_ := sortBy (fun a b => decide (a.toNat ≤ b.toNat)) (fp :: f.fingerprints.filter (· != fp))
    let ids := (indexed all_).map fun e => (e.2, (BitVec.ofNat 14 e.1 : NodeId))
    ({ d with fabric := { f with coordinator := true } } : Dev).takeAssigned ids none

def execElectionTimeout (s : State) : Out := .next (s.onDev Dev.elect)

/-- R335: the lowest node ID that no device holds by assignment. -/
def nextId (ids : List (Long × NodeId)) : NodeId :=
  BitVec.ofNat 14 (((List.range 16384).find? fun i => !ids.any fun a => a.2.toNat == i).getD 0)

/-- R335: a fingerprint is heard; a coordinator gives a later device the next free ID. -/
def Dev.hearFingerprint (fp : Long) (p : Fin 128) (d : Dev) : Dev :=
  let f := d.fabric
  if f.fingerprints.contains fp then d
  else
    let d1 := (({ d with fabric := { f with fingerprints := f.fingerprints ++ [fp] } } : Dev).flood (.fingerprint fp) (some p))
    if f.coordinator && !f.assigned.any fun a => a.1 == fp then
      d1.takeAssigned (f.assigned ++ [(fp, nextId f.assigned)]) none
    else d1

-- Leaving (R348)

/-- R348: the leave event goes out, and transit traffic is forwarded for a while. -/
def Dev.leaveGo (d : Dev) : Dev :=
  match d.fabric.leave with
  | none => d
  | some l =>
    let f := d.fabric
    ({ d with fabric := { f with state := 3#2, leave := some { l with forwarding := true, due := d.after 50000 } } } : Dev).applyEvent
      { origin := f.node, seq := f.memberSeq + 1, loss := false, node := f.node } none

/-- A draining leave goes on once nothing collective is in flight. -/
def Dev.leaveSettle (d : Dev) : Dev :=
  match d.fabric.leave with
  | some l => if !l.forwarding && d.coll.ops.isEmpty && d.coll.binds.isEmpty && !d.coll.jobs.any GradJob.active then d.leaveGo else d
  | none => d

/-- R348: begin to leave, for a command or a Function Level Reset. -/
def Dev.leaveBegin (cmd : Nat) (drain : Bool) (d : Dev) : Dev :=
  let d1 : Dev := { d with fabric := { d.fabric with state := 3#2, leave := some { cmd := cmd, forwarding := false, due := d.after 1000000 } } }
  if drain then d1.leaveSettle else (d1.endGroups stGroupChanged).leaveGo

/-- FABRIC_LEAVE (R348). -/
def Dev.fabricLeave (c : Cmd) (d : Dev) : Dev :=
  if !d.isMember then d.refuse c.id stFabricNotMember
  else (d.setPhase c.id .running).leaveBegin c.id (c.pkt.o0.getLsbD 0)

def execFabricLeave (tag : Tag) (s : State) : Out := .next (s.onDev (Dev.onCmd tag 0xA1 Dev.fabricLeave))

/-- LEAVE_DRAIN_TIMEOUT (R348). -/
def Dev.leaveDrained (d : Dev) : Dev :=
  match d.fabric.leave with
  | some l => if l.forwarding || !d.due l.due then d else (d.endGroups stGroupChanged).leaveGo
  | none => d

def execLeaveDrainTimeout (s : State) : Out := .next (s.onDev Dev.leaveDrained)

/-- LEAVE_FORWARD_END (R348): the device is ALONE; its ports stay UP. -/
def Dev.leaveEnd (d : Dev) : Dev :=
  match d.fabric.leave with
  | some l =>
    if !l.forwarding || !d.due l.due then d
    else
      ({ d with fabric := { d.fabric with
        state := 0#2, leave := none, node := 0, nodeValid := false, coordinator := false, lsdb := [], fingerprints := [], assigned := [],
        routes := Vector.replicate 4 [], transits := [] } } : Dev).okCmd l.cmd 0 0 0
  | none => d

def execLeaveForwardEnd (s : State) : Out := .next (s.onDev Dev.leaveEnd)

-- What follows a change

/-- Everything that waits for an acknowledgement or a route goes on. -/
def Dev.fabricSettle (d : Dev) : Dev :=
  let d1 := d.collSettle
  let d2 := d1.each (d1.coll.jobs.map (·.id)) fun j d => (d.stepSettle j).jobGo j
  let d3 := d2.each (d2.coll.binds.map (·.handle)) Dev.bindSettle
  d3.leaveSettle

def execDataFlitReceive (p : Fin 128) (f : Flit) (corrected : List Nat) (bad : Bool) (s : State) : Out :=
  .next (s.onDev fun d => (d.receiveFlit p f corrected bad).fabricSettle)

def execIdleFlitReceive (p : Fin 128) (f : Flit) (corrected : List Nat) (bad : Bool) (s : State) : Out :=
  .next (s.onDev (Dev.receiveIdle p f corrected bad))

/-- ROUTE_FLIT (R335, R341, R348, R349): link state, an election's data, or an event, flooded on and applied. -/
def Dev.takeRoute (p : Fin 128) (r : RouteBody) (d : Dev) : Dev :=
  if !(d.port p).carries then d
  else
    match r with
    | .linkState node version links =>
      let f := d.fabric
      let old := match f.lsdb.find? fun x => x.node == node with | some x => x.version | none => 0
      if version ≤ old || (f.nodeValid && node = f.node) then d
      else
        let gone := match f.lsdb.find? fun x => x.node == node with
          | some x => (x.links.map (·.peer)).filter fun n => !links.any fun l => l.peer == n
          | none => []
        let d1 : Dev := { d with fabric := { f with lsdb := f.lsdb.filter (fun x => x.node != node) ++
          [{ node := node, version := version, links := links }] } }
        let d2 := if f.state = 2#2 || f.state = 3#2 then d1.flood (.linkState node version links) (some p) else d1
        ((d2.reroute).releaseHeld).each gone Dev.lossCheck
    | .fingerprint fp => d.hearFingerprint fp p
    | .assignment ids => if d.fabric.assigned.length < ids.length then d.takeAssigned ids (some p) else d
    | .event e => d.applyEvent e (some p)

def execRouteFlit (p : Fin 128) (r : RouteBody) (s : State) : Out := .next (s.onDev fun d => (d.takeRoute p r).fabricSettle)

/-- R331, R333: DEAD_COUNT intervals have passed without a hello; a port with no good wavelength hears none (R551). -/
def Dev.silent (p : Fin 128) (d : Dev) : Bool :=
  decide (max 1 (field (d.cfgOf (portLantern p)) 7 4) ≤ (d.port p).missed) || (d.port p).good == 0#9

/-- NEIGHBOUR_DEAD (R333, R349): the port is down, and is TRAINING until hellos return; an unmated one is DARK (R551). -/
def Dev.neighbourDead (p : Fin 128) (d : Dev) : Dev :=
  let x := d.port p
  if x.state = psDark || x.state = psFailed || !x.trained || !d.silent p then d
  else
    let st := if x.good = 0#9 then psDark else psTraining
    ((d.portDown p st).lossCheck x.peerNode)

def execNeighbourDead (p : Fin 128) (s : State) : Out :=
  .next (s.onDev fun d => (Dev.portChanges (Dev.neighbourDead p) d).fabricSettle)

-- Retrains (R327, R328)

/-- Engines of a lantern that serve no position and are in service. -/
def Dev.spareEngine (l : Fin 4) (d : Dev) : Option Nat :=
  (List.range 34).find? fun e =>
    !d.fabric.engineOut.contains (l.val, e) && (List.range 32).all fun i => (d.port (portOf l i)).engine != e

/-- R515: wavelengths newly out of service are recorded. -/
def Dev.noteWaves (p : Fin 128) (lost : BitVec 9) (d : Dev) : Dev :=
  if lost = 0#9 then d
  else (d.each ((List.range 9).filter fun w => lost.getLsbD w) fun w d =>
    d.noteRepair 0x0A (dieCode (lanternDie (portLantern p))) p.val w).setEvent evRepair

/-- R328 step 2: the spare engine takes the position; the link goes down and comes up again. -/
def Dev.swapEngine (p : Fin 128) (e : Nat) (d : Dev) : Dev :=
  let l := portLantern p
  let old := (d.port p).engine
  let good := (d.fabric.lasers.get l).lit e
  let d1 : Dev := { d with fabric := { d.fabric with engineOut := d.fabric.engineOut ++ [(l.val, old)] } }
  let d2 := ((d1.noteRepair 0x0B (dieCode (lanternDie l)) (old + at_ 6 l.val) 1).setEvent evRepair).portDown p psTraining
  d2.modPort p fun x => { x with engine := e, good := good, lanes := lowestWaves good 8, spareSeen := true, badRetrains := 0 }

/-- RETRAIN_COMPLETE (R327, R328): the wavelengths found good, and whether the retrain succeeded. -/
def Dev.retrained (p : Fin 128) (good : BitVec 9) (ok : Bool) (d : Dev) : Dev :=
  let x := d.port p
  if !x.retraining then d
  else
    let n := popcount 9 good.toNat
    let bad := if ok then 0 else x.badRetrains + 1
    let lost := (List.range 9).foldl (fun (a : BitVec 9) w => if !good.getLsbD w && x.lanes.getLsbD w then a ||| BitVec.ofNat 9 (2 ^ w) else a) 0#9
    let noted := d.noteWaves p lost
    if 8 ≤ n && ok then
      let lanes := lowestWaves good 8
      let d1 := noted.modPort p fun y => { y with
        retraining := false, badRetrains := 0, good := good, lanes := lanes, spareSeen := y.spareSeen || lanes != x.lanes, replaySeen := y.replaySeen || !y.retry.isEmpty,
        state := if y.state = psHalf then psUp else y.state }
      let d2 := d1.each (d1.port p).retry fun f d => (d.emitFlit p f).countPort p 0x03 1
      d2.pumpPort p
    else if 8 ≤ n && bad < 3 then noted.modPort p fun y => { y with badRetrains := bad, good := good }
    else
      match d.spareEngine (portLantern p) with
      | some e => noted.swapEngine p e
      | none =>
        if 4 ≤ n then
          let d1 := noted.modPort p fun y => { y with
            retraining := false, badRetrains := 0, good := good, lanes := lowestWaves good 4, state := if y.carries then psHalf else y.state }
          let d2 := d1.each (d1.port p).retry fun f d => (d.emitFlit p f).countPort p 0x03 1
          d2.pumpPort p
        else (noted.portDown p psFailed).modPort p fun y => { y with lanes := 0#9, good := good, badRetrains := 0 }

def execRetrainComplete (p : Fin 128) (good : BitVec 9) (ok : Bool) (s : State) : Out :=
  .next (s.onDev fun d => (Dev.portChanges (Dev.retrained p good ok) d).fabricSettle)

-- Timeouts of messages (R324, R341, R351)

/-- MESSAGE_ACK_TIMEOUT (R324): once more by a fresh route; then the operation ends with ST_ROUTE_UNREACHABLE. -/
def Dev.ackTimeout (l : Fin 4) (msgId : Nat) (d : Dev) : Dev :=
  match d.fabric.unacked.find? fun m => m.lantern == l && m.msgId == msgId with
  | none => d
  | some m =>
    if !d.due m.due then d
    else if m.copies ≤ 1 then
      let m' : TxMsg := { m with copies := 2, due := d.after 100 }
      ({ d with fabric := { d.fabric with unacked := d.fabric.unacked.map fun x => if x == m then m' else x } } : Dev).sendCopy m'
    else (d.ackMsg l msgId).failOwner m.owner stRouteUnreachable

def execMessageAckTimeout (l : Fin 4) (msgId : BitVec 12) (s : State) : Out := .next (s.onDev (Dev.ackTimeout l msgId.toNat))

/-- NO_ROUTE_TIMEOUT (R341): messages in transit that found no valid hop for 100 µs are discarded. -/
def Dev.noRoute (p : Fin 128) (vc : BitVec 2) (d : Dev) : Dev :=
  { d with fabric := { d.fabric with transits := d.fabric.transits.filter fun t => !(t.port == p && t.vc == vc && t.out.isNone && d.due t.due) } }

def execNoRouteTimeout (p : Fin 128) (vc : BitVec 2) (s : State) : Out := .next (s.onDev (Dev.noRoute p vc))

/-- HELD_MESSAGE_TIMEOUT (R351). -/
def Dev.heldTimeout (i : Nat) (d : Dev) : Dev :=
  match d.fabric.inbox[i]? with
  | some m => if m.heldTo.any d.due then { d with fabric := { d.fabric with inbox := d.fabric.inbox.eraseIdx i } } else d
  | none => d

def execHeldMessageTimeout (i : Nat) (s : State) : Out := .next (s.onDev (Dev.heldTimeout i))

end Sys2Proof.Machine
end

