-- ==== Sys2Proof/Machine/Windows.lean ====
section
/-! DEFINITION. Weight windows and the split of die shared memory (R228, R229, R248 to R251, R503). -/
namespace Sys2Proof.Machine

/-- A stream table's segments by layer; none where its header, counts or records break R248. -/
def parseStream (b : List Byte) (layers : Nat) : Option (List (List WinSeg)) :=
  let total := bytesAt b 7 4
  let counts := (List.range layers).map fun i => bytesAt b (64 + 4 * i + 3) (64 + 4 * i)
  let recAt := 64 + roundUp (4 * layers) 64
  let recs := (chunks 16 total (b.drop recAt)).map fun r => ({ src := bytesAt r 5 0, dst := bytesAt r 11 6, len := 64 * bytesAt r 15 12 } : WinSeg)
  if bytesAt b 1 0 == 1 && bytesAt b 3 2 == layers && decide (1 ≤ total) && decide (total ≤ 65536) && zeroAt b 63 8 &&
     sumNat counts == total && recs.all (fun r => r.src % 64 == 0 && r.dst % 64 == 0) then
    some ((counts.foldl (fun (acc : List (List WinSeg) × List WinSeg) n => (acc.1 ++ [acc.2.take n], acc.2.drop n)) ([], recs)).1)
  else none

/-- R249's last check: two layers whose uses can lie less than D apart write apart. A window of one pass never wraps. -/
def segsApart (layers : List (List WinSeg)) (depth passes : Nat) : Bool :=
  let n := layers.length
  (indexed layers).all fun i => (indexed layers).all fun j =>
    decide (j.1 ≤ i.1) || !(decide (j.1 - i.1 < depth) || (passes != 1 && decide (n - (j.1 - i.1) < depth))) ||
    i.2.all fun a => j.2.all fun b => !overlaps a.dst a.len b.dst b.len

/-- R249, after the table has been read. -/
def Dev.streamCheck (d : Dev) (im : Image) (layers : List (List WinSeg)) (depth passes : Nat) : Half :=
  let ls := im.kernels.map (·.layer)
  if !layers.all (fun l => l.all fun s => d.inCrock s.src s.len && d.inStack s.dst s.len) then stAddress
  else if !(ls.zip (ls.drop 1)).all (fun p => decide (p.1 ≤ p.2)) then stWindowOrder
  else if im.classes ≠ 4 then stWindowClass
  else if !segsApart layers depth passes then stWindowOverlap
  else stOk

/-- WINDOW_STREAM without CLOSE (R248, R249). -/
def Dev.windowOpen (c : Cmd) (d : Dev) : Dev :=
  if c.pkt.o0.getLsbD 24 then d
  else
    let num := opnd c.pkt.o0 7 0
    let handle := opnd c.pkt.o0 15 8
    let depth := opnd c.pkt.o0 23 16
    let passes := opnd c.pkt.o2 15 0
    let a := opDa c.pkt.o1
    if 8 ≤ d.tier.windows.length then d.refuse c.id stWindowFull
    else if 7 < num || d.tier.windows.any (fun w => w.num.val == num || w.program == handle) then d.refuse c.id stWindowBusy
    else
      match d.liveProgram handle with
      | none => d.refuse c.id stProgramInvalid
      | some p =>
        let layers := p.image.layerCount
        d.fetchBytes c.id a 64 (fun h d =>
          let len := 64 + roundUp (4 * layers) 64 + 16 * bytesAt h 7 4
          if depth = 0 || 16 < depth || 65536 < bytesAt h 7 4 || bytesAt h 3 2 ≠ layers then d.refuse c.id stWindowFormat
          else
            d.fetchBytes c.id a len (fun b d =>
              match parseStream b layers with
              | none => d.refuse c.id stWindowFormat
              | some ls =>
                let st := d.streamCheck p.image ls depth passes
                if st ≠ stOk then d.refuse c.id st
                else
                  let w : Window := { num := Fin.ofNat 8 num, program := handle, depth := depth, passes := passes, layers := ls }
                  ({ d with tier := { d.tier with windows := d.tier.windows ++ [w] } } : Dev).okCmd c.id 0 0 0))

def execWindowStream (tag : Tag) (s : State) : Out := .next (s.onDev (Dev.onCmd tag 0x24 Dev.windowOpen))

/-- R251: an admitted launch of a program waits for the window: it has a layer left for which it holds no use. -/
def Dev.windowAwaited (d : Dev) (handle : Nat) : Bool :=
  d.launches.any fun l => l.alive && l.handle == handle &&
    (match d.imageOf l with
     | some im => (d.todo l im).any fun x => !(l.uses.any fun u => u.2 == im.layerOf x.2)
     | none => false)

/-- WINDOW_STREAM with CLOSE (R251). -/
def Dev.windowClose (c : Cmd) (d : Dev) : Dev :=
  if !c.pkt.o0.getLsbD 24 then d
  else
    let num := opnd c.pkt.o0 7 0
    match d.tier.windows.find? fun w => w.num.val == num with
    | none => d.refuse c.id stWindowBusy
    | some w =>
      if d.windowAwaited w.program then d.refuse c.id stWindowBusy
      else ({ d with tier := { d.tier with windows := d.tier.windows.filter fun x => x.num.val != num } } : Dev).okCmd c.id 0 0 0

def execWindowClose (tag : Tag) (s : State) : Out := .next (s.onDev (Dev.onCmd tag 0x24 Dev.windowClose))

/-- R250: may the next use be filled: it is one of the window's, and the use D before it has been released. -/
def Window.mayFill (w : Window) : Bool :=
  (w.passes == 0 || decide (w.filled < w.passes * w.layers.length)) &&
  (List.range (w.filled + 1 - w.depth)).all fun n => w.released.contains n

/-- One segment copied from the crock, its poison with it (R503). -/
def Dev.fillSeg (w : Fin 8) (s : WinSeg) (d : Dev) : Dev :=
  let d0 := match d.mem.firstPoison s.src s.len with
    | some a => d.ueAt a false
    | none => d
  let d1 : Dev := { d0 with mem := d0.mem.move s.src s.dst s.len }
  (((d1.traffic false false s.src s.len).traffic true false s.dst s.len).count crockDie 0x05 w.val (cdiv s.len 64)).meshMove crockDie (d1.dieOf s.dst) s.len

/-- WINDOW_USE_FILLED (R250). -/
def Dev.useFilled (n : Fin 8) (d : Dev) : Dev :=
  match d.tier.windows.find? fun w => w.num == n with
  | none => d
  | some w =>
    if !(d.running && w.mayFill) then d
    else
      (d.each (w.layers.getD (w.filled % max 1 w.layers.length) []) (Dev.fillSeg n)).modWindow n fun w => { w with filled := w.filled + 1 }

def execWindowUseFilled (w : Fin 8) (s : State) : Out := .next (s.onDev (Dev.useFilled w))

-- Die shared memory (R228, R229)

def scratchStep : Nat := 0x800000

/-- A write to KLN_SHMEM_PART (R228, R229). A set wins over a clear in the same write (R4). -/
def Dev.shmemWrite (k : Fin 12) (v : Word) : Dev → Dev := Dev.dieWrite fun d =>
  if v &&& 0xFFFF80E0#32 ≠ 0#32 then d.protoError
  else
    let steps := field v.toNat 4 0
    let need := maxNat (d.progs.programs.map fun p => p.scratch.getD k.val 0)
    let bad := decide (16 < steps) || decide (steps * scratchStep < need)
    d.modKiln k fun (x : Kiln) =>
      let m := x.shmem
      { x with shmem := { m with steps := if bad then m.inForce else steps, pending := !bad && steps != m.inForce,
                                 refused := (m.refused && !v.getLsbD 14) || bad } }

/-- SHMEM_PART_REQUEST (R229). -/
def execShmemPartRequest (k : Fin 12) (v : Word) (s : State) : Out := .next (s.onDev (Dev.shmemWrite k v))

/-- R229: admitted launches or collective stages that use a kiln. -/
def Dev.kilnUsed (d : Dev) (k : Fin 12) : Bool :=
  d.launches.any (fun l => l.alive && l.dies.contains k.val) ||
  d.coll.ops.any (fun o => o.d.stageLen != 0 && overlaps o.d.stage 1 (scratchBase k.val) 0x40000000) ||
  d.coll.jobs.any fun j => j.active && j.stageLen != 0 && overlaps j.stage 1 (scratchBase k.val) 0x40000000

/-- SHMEM_PART_APPLY (R229). -/
def Dev.shmemApply (k : Fin 12) (d : Dev) : Dev :=
  let m := (d.kiln k).shmem
  if !m.pending || d.kilnUsed k then d
  else
    let lo := min m.steps m.inForce
    let hi := max m.steps m.inForce
    let a := scratchBase k.val + lo * scratchStep
    let d0 := d.emptyCache k
    let d1 : Dev := { d0 with mem := (d0.mem.clear a ((hi - lo) * scratchStep)).unpoisonWhole a ((hi - lo) * scratchStep) }
    d1.modKiln k fun (x : Kiln) => { x with shmem := { x.shmem with inForce := m.steps, pending := false } }

def execShmemPartApply (k : Fin 12) (s : State) : Out := .next (s.act (Dev.shmemApply k))

end Sys2Proof.Machine
end

