-- ==== Sys2Proof/Machine/SlipStream.lean ====
section
/-! DEFINITION. The slip path of a kiln: directories, block headers, decoding, forerunner streams, damage (R253 to R274). -/
namespace Sys2Proof.Machine

/-- The use and stream a slip event names, once its layer's gate has opened (R250, R253, R268), with the device after the gate. -/
def Dev.slipUse (k : Fin 12) (launch buf unit : Nat) (d : Dev) : Option (SlipUse × SlipStream × Dev) :=
  match d.launchOf launch with
  | none => none
  | some l =>
    match d.imageOf l with
    | none => none
    | some im =>
      match d.front l im with
      | none => none
      | some f =>
        match im.kernels[f]? with
        | none => none
        | some kn =>
          if d.running && l.phase == .running && kn.kind == 0 && l.slips.contains buf then
            (d.gate l kn.layer).bind fun d1 =>
              (d1.findStream k launch f buf unit).map fun s => ({ l := l, im := im, kernel := f, k := kn, buf := buf }, s, d1)
          else none

/-- A damaged header or block, met for the first time (R269). -/
def Dev.slipHurt (k : Fin 12) (s : SlipStream) (dm : SlipDamage) (da : Nat) (d : Dev) : Dev :=
  d.putStream k { s with damage := some dm, damageDa := da }

/-- A poisoned word in what the fill engine reads strikes the launch (R504). -/
def Dev.slipRead (launch a n : Nat) (k : Dev → Dev) (d : Dev) : Dev :=
  match d.mem.firstPoison a n with
  | some w => d.launchStruck launch w
  | none => k ((d.heat a n).traffic false false a n)

def slipQueueMax : Nat := 48

/-- R264, R268: the check of a block's header in a kiln: the table it is bound to, or the damage's kind. -/
def Dev.slipBind (d : Dev) (k : Fin 12) (s : SlipStream) (h : SlipHead) : Except Nat (Option SlipTable) :=
  if !slipHeadOk h s.index (s.entry.expanded - s.expanded) (s.entry.stored - s.stored) then .error 1
  else if h.raw then .ok none
  else
    let slot := (d.slip k).slots.get (Fin.ofNat 4 h.slot)
    match slot.table with
    | some t => if slot.state = 1 && t.id == h.tableId && slipSuits t h.fmt then .ok (some t) else .error 2
    | none => .error 2

/-- A block's header enters the queue, and the stream goes on to the next block. -/
def Dev.slipQueue (k : Fin 12) (s : SlipStream) (h : SlipHead) (t : Option SlipTable) (d : Dev) : Dev :=
  let x := d.slip k
  let q : QueuedBlock := { launch := s.launch, kernel := s.kernel, buf := s.buf, unit := s.unit, da := s.nextDa, head := h, table := t, fore := s.fore }
  (d.setSlip k { x with queue := x.queue ++ [q] }).putStream k
    { s with nextDa := s.nextDa + h.blockLen, index := s.index + 1, expanded := s.expanded + h.origLen, stored := s.stored + h.blockLen }

/-- R270: the header of a forerunner stream's next block, checked: blocks number BLOCK_COUNT and sum to EXPANDED_LEN. -/
def SlipStream.foreHead (s : SlipStream) (h : ForeHead) (bs : List Byte) : Option SlipHead :=
  match foreBlockHead bs with
  | none => none
  | some (orig, sto) =>
    if decide (s.index + 1 ≤ h.count) && decide (s.stored + sto ≤ s.entry.stored) && decide (s.expanded + orig ≤ s.entry.expanded) &&
       (s.index + 1 == h.count) == (s.expanded + orig == s.entry.expanded) then
      some { flags := bytesAt bs 2 2, fmt := h.fmt, slot := 0, tableId := 0, origLen := orig, blockLen := sto, index := s.index, rsvOk := true }
    else none

/-- The next header of a forerunner stream: the stream's own, then its blocks' (R270, R271). -/
def Dev.foreHeaderRead (k : Fin 12) (s : SlipStream) (d : Dev) : Dev :=
  match s.fore with
  | none =>
    d.slipRead s.launch s.entry.stream 160 fun d =>
      match parseForeHead (d.mem.readBytes s.entry.stream 160) with
      | some h => d.putStream k { s with nextDa := s.entry.stream + 160, stored := 160, fore := some h }
      | none => d.slipHurt k s { kind := 7 } s.entry.stream
  | some h =>
    d.slipRead s.launch s.nextDa 16 fun d =>
      match s.foreHead h (d.mem.readBytes s.nextDa 16) with
      | some x => d.slipQueue k s x none
      | none => d.slipHurt k s { kind := 7 } s.nextDa

/-- SLIP_BLOCK_HEADER_READ (R264, R265, R271). -/
def Dev.slipHeaderRead (k : Fin 12) (launch buf unit : Nat) (d : Dev) : Dev :=
  match d.slipUse k launch buf unit with
  | none => d
  | some (_, s, d1) =>
    match s.struck with
    | some w => d1.launchStruck launch w
    | none =>
      if s.damage.isSome || s.entry.expanded ≤ s.expanded then d1
      else if slipQueueMax ≤ (d1.slip k).queue.length then d1.count (kilnDie k) 0x1B 0 1
      else if s.entry.kind = 1 then d1.foreHeaderRead k s
      else
        d1.slipRead launch s.nextDa 64 fun d =>
          let h := parseSlipHead (d.mem.readBytes s.nextDa 64)
          match d.slipBind k s h with
          | .error c => d.slipHurt k s { kind := c } s.nextDa
          | .ok t => d.slipQueue k s h t

def execSlipBlockHeaderRead (k : Fin 12) (launch buf unit : Nat) (s : State) : Out :=
  .next (s.onDev (Dev.slipHeaderRead k launch buf unit))

/-- R258, R259, R266: a queued block's expanded bytes, or its damage. -/
def Dev.slipDecode (d : Dev) (q : QueuedBlock) : Except SlipDamage (List Byte) :=
  let bs := d.mem.readBytes q.da q.head.blockLen
  if q.head.raw then .ok (slice bs 64 q.head.origLen)
  else
    match q.table with
    | some t => decodeSlipBlock t q.head bs
    | none => .error { kind := 2 }

/-- A block leaves the queue with its bytes ready for the tile; retiring slots may go (R263, R267). -/
def Dev.slipReady (k : Fin 12) (q : QueuedBlock) (s : SlipStream) (bs : List Byte) (d : Dev) : Dev :=
  let x := d.slip k
  (d.setSlip k ({ x with queue := x.queue.erase q } : SlipPart).settle).putStream k (s.push bs)

/-- SLIP_BLOCK_DECODED (R265, R267, R271): the block at the head of the queue, where it is a slip block. -/
def Dev.slipDecoded (k : Fin 12) (d : Dev) : Dev :=
  match (d.slip k).queue with
  | [] => d
  | q :: _ =>
    match d.findStream k q.launch q.kernel q.buf q.unit with
    | none => d
    | some s =>
      if s.damage.isSome || q.fore.isSome then d
      else
        d.slipRead q.launch q.da q.head.blockLen fun d =>
          match d.slipDecode q with
          | .ok bs => (d.slipReady k q s bs).count (kilnDie k) (if q.head.raw then 0x19 else 0x18) 0 1
          | .error e => d.slipHurt k s e q.da

def execSlipBlockDecoded (k : Fin 12) (s : State) : Out := .next (s.onDev (Dev.slipDecoded k))

/-- R271: ac that a decoder takes for a forerunner block, at 4 symbols per ac; a raw block passes at the fill rate, 96 bytes per ac
(log 144). -/
def foreTime (q : QueuedBlock) : Nat :=
  if q.head.raw then cdiv q.head.origLen 96
  else match slipFmt q.head.fmt with | some f => cdiv (q.head.origLen * 8 / f.vbits) 4 | none => 0

/-- FORERUNNER_BLOCK_DECODED (R270 to R272): the stream's next block, where its turn in the queue has come and its smoothing queue has
room. While a move waits for it the time is a stall. -/
def Dev.foreDecoded (k : Fin 12) (launch buf unit : Nat) (d : Dev) : Dev :=
  match d.slipUse k launch buf unit with
  | none => d
  | some (_, s, d1) =>
    match foreTurn (d1.slip k).queue s with
    | none => d1
    | some q =>
      if s.damage.isSome || !s.room q.head.origLen then d1
      else
        d1.slipRead launch q.da q.head.blockLen fun d =>
          match q.fore.bind fun h => decodeForeBlock h (d.mem.readBytes q.da q.head.blockLen) with
          | some r => (d.slipReady k q s r.2).count (kilnDie k) 0x1C 0 (if s.out < s.need then foreTime q else 0)
          | none => d.slipHurt k s { kind := 7 } q.da

def execForerunnerBlockDecoded (k : Fin 12) (launch buf unit : Nat) (s : State) : Out :=
  .next (s.onDev (Dev.foreDecoded k launch buf unit))

/-- R269, R274: damage that a second read confirms. -/
def Dev.slipFinal (k : Fin 12) (s : SlipStream) (dm : SlipDamage) (d : Dev) : Dev :=
  let x := d.slip k
  let x1 : SlipPart := { x with
    damageSeen := true, lastCheck := dm.kind, lastLane := if dm.kind = 3 || dm.kind = 4 then dm.lane else 0,
    streams := x.streams.filter fun t => !s.sameAs t,
    queue := x.queue.filter fun q => !q.isOf s }
  let d1 := (d.setSlip k x1.settle).count (kilnDie k) 0x1A dm.kind 1
  d1.modLaunch s.launch fun l =>
    match l.phase with
    | .ending _ => l
    | .ended => l
    | _ => { (l.stop stSlipDamage) with slipDa := s.damageDa, slipKind := dm.kind }

/-- R269: where a damaged stream is read once more: the directory, a block of the queue, or a header. -/
def Dev.slipRange (d : Dev) (k : Fin 12) (u : SlipUse) (s : SlipStream) (dm : SlipDamage) : Nat × Nat :=
  if dm.kind = 6 then (u.base, u.dirLen)
  else
    match (d.slip k).queue.find? fun q => q.da == s.damageDa && q.isOf s with
    | some q => (q.da, q.head.blockLen)
    | none => (s.damageDa, if dm.kind ≠ 7 then 64 else if s.fore.isSome then 16 else 160)

/-- What that read finds: the stream as it goes on, or damage. -/
def Dev.slipAgain (d : Dev) (k : Fin 12) (u : SlipUse) (s : SlipStream) (dm : SlipDamage) : Except SlipDamage SlipStream :=
  let healed : SlipStream := { s with damage := none }
  if dm.kind = 6 then
    match d.slipEntry u s.unit with
    | some e => .ok { healed with entry := e, nextDa := e.stream }
    | none => .error dm
  else
    match (d.slip k).queue.find? fun q => q.da == s.damageDa && q.isOf s with
    | some q =>
      if dm.kind = 7 then
        (match q.fore.bind fun h => decodeForeBlock h (d.mem.readBytes q.da q.head.blockLen) with | some _ => .ok healed | none => .error dm)
      else (match d.slipDecode q with | .ok _ => .ok healed | .error e => .error e)
    | none =>
      if dm.kind = 7 then
        match s.fore with
        | some h => (match s.foreHead h (d.mem.readBytes s.nextDa 16) with | some _ => .ok healed | none => .error dm)
        | none => (match parseForeHead (d.mem.readBytes s.entry.stream 160) with | some _ => .ok healed | none => .error dm)
      else (match d.slipBind k s (parseSlipHead (d.mem.readBytes s.damageDa 64)) with
        | .ok _ => .ok healed
        | .error c => .error { kind := c })

/-- The use a stream of a kiln serves. -/
def Dev.useOf (d : Dev) (s : SlipStream) : Option SlipUse :=
  match d.launchOf s.launch with
  | none => none
  | some l =>
    match d.imageOf l with
    | none => none
    | some im => im.kernels[s.kernel]?.map fun kn => { l := l, im := im, kernel := s.kernel, k := kn, buf := s.buf }

/-- SLIP_DAMAGE_REREAD (R269): the kiln's first damaged stream is read again. -/
def Dev.slipReread (k : Fin 12) (d : Dev) : Dev :=
  match (d.slip k).streams.find? fun s => s.damage.isSome with
  | none => d
  | some s =>
    match s.damage, d.useOf s with
    | some dm, some u =>
      let r := d.slipRange k u s dm
      d.slipRead s.launch r.1 r.2 fun d =>
        match d.slipAgain k u s dm with
        | .ok s1 => d.putStream k s1
        | .error e => if e.kind = dm.kind then d.slipFinal k s e else d.slipHurt k s e s.damageDa
    | _, _ => d

def execSlipDamageReread (k : Fin 12) (s : State) : Out := .next (s.onDev (Dev.slipReread k))

end Sys2Proof.Machine
end

