-- ==== Sys2Proof/Machine/Time.lean ====
section
/-! DEFINITION. The time unit: its registers, states, references, slewing and steps (R417 to R424, R544). -/
namespace Sys2Proof.Machine

def Dev.modTime (f : TimePart → TimePart) (d : Dev) : Dev := { d with time := f d.time }

-- Fields (R418, R419)

def TimePart.source (t : TimePart) : Nat := field t.cfg.toNat 1 0
def TimePart.seconds (t : TimePart) : Bool := t.cfg.getLsbD 3
/-- STEP_LIMIT in ns; 0 acts as 1 µs. -/
def TimePart.stepNs (t : TimePart) : Nat := 1000 * max 1 (field t.cfg.toNat 15 8)
def TimePart.holdoverS (t : TimePart) : Nat := field t.cfg.toNat 23 16
def TimePart.domain (t : TimePart) : Nat := min 127 (field t.cfg.toNat 31 24)
/-- R419: NUM and DEN of the register. -/
def TimePart.rateNum (t : TimePart) : Nat := field t.rate.toNat 15 0
def TimePart.rateDen (t : TimePart) : Nat := field t.rate.toNat 25 16
def TimePart.rateOk (t : TimePart) : Bool :=
  t.rateNum != 0 && (t.rateDen == 1 || t.rateDen == 1001) && decide (t.rateDen ≤ t.rateNum) && decide (t.rateNum ≤ 240 * t.rateDen) &&
  (!t.seconds || t.rateDen == 1)

/-- R420: a change of state sets the TIME event, and leaving LOCKED sets UNLOCK_SEEN. -/
def Dev.timeState (st : BitVec 2) (d : Dev) : Dev :=
  if d.time.state = st then d
  else (d.modTime fun t => { t with state := st, unlockSeen := t.unlockSeen || t.state == 2#2, goodSince := none }).setEvent evTime

/-- R419: the rate in force follows the register while that is valid; an invalid one sets RATE_ERR and holds ACQUIRING. -/
def Dev.rateSettle (d : Dev) : Dev :=
  let t := d.time
  if t.rateOk then d.modTime fun t => { t with num := t.rateNum, den := t.rateDen, acc := t.acc * t.rateDen / max 1 t.den }
  else (d.modTime fun t => { t with rateErr := true }).timeState 1#2

/-- A write to HUB_TIME_CFG (R418). -/
def Dev.timeCfg (v : Word) (d : Dev) : Dev :=
  if !d.ready then d
  else if v &&& 0x000000F0#32 ≠ 0#32 then d.protoError
  else
    let changed := (v ^^^ d.time.cfg) &&& 0xFF00000F#32 ≠ 0#32
    let other := (v ^^^ d.time.cfg) &&& 0xFF000000#32 ≠ 0#32
    let d1 := d.modTime fun t => { t with cfg := v, ptp := if other then {} else t.ptp, goodSince := if changed then none else t.goodSince }
    (if changed then d1.timeState 1#2 else d1).rateSettle

/-- TIME_CFG_WRITE (R418). -/
def execTimeCfgWrite (v : Word) (s : State) : Out := .next (s.onDev (Dev.timeCfg v))

/-- A write to HUB_TIME_RATE (R419). -/
def Dev.timeRate (v : Word) (d : Dev) : Dev :=
  if !d.ready then d
  else if v &&& 0xFC000000#32 ≠ 0#32 then d.protoError
  else (d.modTime fun t => { t with rate := v }).rateSettle

/-- TIME_RATE_WRITE (R419). -/
def execTimeRateWrite (v : Word) (s : State) : Out := .next (s.onDev (Dev.timeRate v))

-- Corrections (R421)

/-- One step to a phase; a forward one leaves the streams to fire what it skipped (R437). -/
def Dev.stepTo (p : Nat) (d : Dev) : Dev :=
  let old := d.phaseNow
  if p % 2 ^ 48 = old then d
  else
    let ahead := decide ((p + 2 ^ 48 - old) % 2 ^ 48 < 2 ^ 47)
    let d1 := d.modTime fun t => { t with phase := BitVec.ofNat 48 p, stepSeen := true, slew := 0 }
    { d1 with candle := { d1.candle with streams := d1.candle.streams.map fun st =>
        if ahead && (st.state == 2#2 || st.state == 3#2) then { st with stepped := some (old, p % 2 ^ 48) } else st } }

/-- Phase units in ns at the rate in force, and back. -/
def TimePart.nsOf (t : TimePart) (u : Int) : Int := u * (t.den * 1000000000) / (max 1 t.num * 65536)
/-- R420: twice the worst phase error of the source, in ns. -/
def TimePart.lockNs (t : TimePart) : Nat := match t.source with | 1 => 200 | 2 => 2000 | 3 => 1000 | _ => 0

/-- A measured phase error, what the unit lacks to the reference in ns: recorded, and slewed or stepped to phase p. -/
def Dev.measure (ns : Int) (p : Nat) (d : Dev) : Dev :=
  let held : Int := max (-32767) (min 32767 ns)
  let good := decide (ns.natAbs ≤ d.time.lockNs)
  let d1 := d.modTime fun t => { t with
    phaseErr := BitVec.ofInt 16 held, goodSince := if good then some (t.goodSince.getD d.nowUs) else none }
  if ns.natAbs ≤ d.time.stepNs then d1.modTime fun t => { t with slew := ns } else d1.stepTo p

-- States (R420)

/-- R420: SOURCE's references are there, or not. -/
def TimePart.present (on : Bool) (t : TimePart) : TimePart :=
  { t with trefPresent := if t.source = 1 || t.source = 3 then on else t.trefPresent,
           pulsePresent := if t.source = 1 then on else t.pulsePresent,
           ptpPresent := if 2 ≤ t.source then on else t.ptpPresent }

/-- TIME_LOCK (R420): the error has been good for 1 s. With frame pulses FRAME counts from 0 at the first lock (R421). -/
def Dev.timeLock (d : Dev) : Dev :=
  match d.time.goodSince with
  | none => d
  | some since =>
    if d.time.state ≠ 1#2 || d.time.source = 0 || !d.time.rateOk || d.nowUs < since + 1000000 then d
    else
      let first := d.time.source == 1 && !d.time.seconds && !d.time.lockedOnce
      let d1 := (d.timeState 2#2).modTime fun t => { t with lockedOnce := true }
      if first then d1.stepTo (d.phaseNow % 65536) else d1

def execTimeLock (s : State) : Out := .next (s.onDev Dev.timeLock)

/-- TIME_REFERENCE_LOSS (R420); HOLDOVER_S of 0 goes straight to FREE. -/
def execTimeReferenceLoss (s : State) : Out :=
  .next (s.onDev fun d =>
    let d1 := d.modTime (TimePart.present false)
    if d.time.state = 2#2 then
      (d1.timeState (if d.time.holdoverS = 0 then 0#2 else 3#2)).modTime fun t => { t with holdTo := d.after (1000000 * t.holdoverS) }
    else d1)

/-- HOLDOVER_EXPIRY (R420). -/
def execHoldoverExpiry (s : State) : Out := .next (s.onDev fun d => if d.time.state = 3#2 && d.due d.time.holdTo then d.timeState 0#2 else d)

/-- TIME_REFERENCE_RETURN (R420). -/
def execTimeReferenceReturn (s : State) : Out :=
  .next (s.onDev fun d =>
    if d.time.source = 0 then d
    else
      let d1 := d.modTime (TimePart.present true)
      if d.time.state = 3#2 then d1.timeState 2#2 else if d.time.state = 0#2 then d1.timeState 1#2 else d1)

/-- TPULSE_EDGE (R421, R544): errNs is the edge against the one the unit predicts, inLimits that it meets the limits of width,
rise and jitter. -/
def Dev.tpulse (errNs : Int) (inLimits : Bool) (d : Dev) : Dev :=
  if d.time.source ≠ 1 || !inLimits || !(d.time.state = 1#2 || decide (errNs.natAbs ≤ 1000)) then d
  else
    let frame := (d.phaseNow + 32768) / 65536 * 65536
    (d.modTime fun t => { t with pulsePresent := true }).measure errNs frame

def execTpulseEdge (errNs : Int) (inLimits : Bool) (s : State) : Out := .next (s.onDev (Dev.tpulse errNs inLimits))

-- PTP (R422)

/-- The order of the best master clock algorithm on what an Announce says. -/
def PtpMaster.key (m : PtpMaster) : List Nat := [m.priority1, m.clockClass, m.accuracy, m.variance, m.priority2, m.identity, m.steps]
def lexLe : List Nat → List Nat → Bool
  | [], _ => true
  | _ :: _, [] => false
  | a :: as, b :: bs => decide (a < b) || (a == b && lexLe as bs)
def PtpMaster.better (a b : PtpMaster) : Bool := lexLe a.key b.key

/-- An Announce: the masters heard, and the best of them. -/
def Ptp.announce (m : PtpMaster) (p : Ptp) : Ptp :=
  let heard := p.heard.filter (fun x => x.identity != m.identity) ++ [m]
  let best := (heard.foldl (fun (b : Option PtpMaster) x => match b with | some y => if y.better x then some y else some x | none => some x) none)
  { p with heard := heard, master := best,
           syncArrival := if best.map (·.identity) == p.master.map (·.identity) then p.syncArrival else none }

/-- R422: the phase at a time in ns since the SMPTE epoch. -/
def TimePart.phaseAt (t : TimePart) (ns : Int) : Nat := ((ns * (t.num * 65536) / (max 1 t.den * 1000000000)) % (2 ^ 48 : Int)).toNat

/-- A Sync and its origin are known: the error of the phase that the Sync found is measured, and corrected on the present one. -/
def Dev.ptpMeasure (origin arrival : Nat) (found : Nat) (d : Dev) : Dev :=
  let m2s : Int := (arrival : Int) - origin
  let delay := (m2s + d.time.ptp.slaveToMaster) / 2
  let want := d.time.phaseAt (origin + delay)
  let diff := ofTwos 48 ((want + 2 ^ 48 - found) % 2 ^ 48)
  let d1 := d.modTime fun t => { t with ptp := { t.ptp with syncArrival := none } }
  if d.time.source < 2 then d1
  else d1.measure (d.time.nsOf diff) (((d.phaseNow : Int) + diff) % (2 ^ 48 : Int)).toNat

def Dev.fromMaster (d : Dev) (identity : Nat) : Bool := d.time.ptp.master.any fun m => m.identity == identity

/-- PTP_MESSAGE (R422). A start that skipped step S19 runs without PTP (R475). -/
def Dev.ptp (m : PtpMsg) (d : Dev) : Dev :=
  if !d.ready || d.start.skips.getLsbD 18 then d
  else match m with
  | .announce domain x =>
    if domain = d.time.domain then d.modTime fun t => { t with ptpPresent := true, ptp := t.ptp.announce x } else d
  | .sync id origin arrival two =>
    if !d.fromMaster id then d
    else
      let d1 := d.emit .ptpDelayReq
      if two then d1.modTime fun t => { t with ptp := { t.ptp with syncArrival := some arrival, syncPhase := t.phase.toNat } }
      else d1.ptpMeasure origin arrival d.phaseNow
  | .followUp id origin =>
    match d.time.ptp.syncArrival with
    | some a => if d.fromMaster id then d.ptpMeasure origin a d.time.ptp.syncPhase else d
    | none => d
  | .delayResp id sent received =>
    if d.fromMaster id then d.modTime fun t => { t with ptp := { t.ptp with slaveToMaster := (received : Int) - sent } } else d

/-- PTP_MESSAGE (R422), once step S19 has released the PHY (R547). -/
def execPtpMessage (m : PtpMsg) (s : State) : Out := .next (s.onDev fun d => if d.pins.ethPhyRstN then d.ptp m else d)

/-- R417, R421: the phase over one µs: at the rate in force, with at most 0.1 % more or less while it slews. -/
def TimePart.tick (t : TimePart) : TimePart :=
  let per := t.num * 65536
  let move : Int := if 0 < t.slew then 1 else if t.slew < 0 then -1 else 0
  let acc := (((t.acc + 1000 * per : Nat) : Int) + move * per).toNat
  let unit := max 1 t.den * 1000000000
  { t with acc := acc % unit, phase := t.phase + BitVec.ofNat 48 (acc / unit), slew := t.slew - move }

end Sys2Proof.Machine
end

