-- ==== Sys2Proof/Machine/Reset.lean ====
section
/-! DEFINITION. What a Function Level Reset and a loss of power leave, the sherd log, and the end of debug mode (R386, R462, R478,
R487, R488, R534, R540). -/
namespace Sys2Proof.Machine

-- The sherd log (R478)

/-- Records that the 4 MiB log holds, and those of the 64 KiB erased when it is full. -/
def sherdMax : Nat := 131072
def sherdBlock : Nat := 2048

def Flash.sherd (r : Sherd) (f : Flash) : Flash :=
  let s := if sherdMax ≤ f.sherds.length then f.sherds.drop sherdBlock else f.sherds
  { f with sherds := s ++ [r] }

/-- Milliseconds since the start began. -/
def Dev.startMs (d : Dev) : Nat := (d.nowUs - d.start.beganUs) / 1000

def Dev.modStart (f : StartPart → StartPart) (d : Dev) : Dev := { d with start := f d.start }
def Dev.modFlash (f : Flash → Flash) (d : Dev) : Dev := d.modStart fun s => { s with flash := f s.flash }
def Dev.modPower (f : PowerPart → PowerPart) (d : Dev) : Dev := { d with power := f d.power }
def Dev.modPins (f : Pins → Pins) (d : Dev) : Dev := { d with pins := f d.pins }

/-- The events a sherd record names (R478). -/
def shTrip : Nat := 1
def shInputLoss : Nat := 2
def shInterrupted : Nat := 3
def shConflict : Nat := 4
def shFallback : Nat := 5
def shRecovery : Nat := 6
def shLedgerStale : Nat := 7

/-- An event record: STEP is 0. -/
def Dev.sherdEvent (event : Nat) (d : Dev) : Dev :=
  d.modFlash (Flash.sherd { start := d.start.startNo, step := 0, outcome := 0, event := event, time := d.startMs })

-- Commits that a reset stops (R487, R488)

/-- The slot of the commit that the firing arbiter may have begun: the first FIRING_COMMIT that waits, of a staged slot. Whether it
had begun to write is not fixed, so it is a free choice. -/
def Dev.commitSlot (d : Dev) : Option (Fin 8) :=
  match d.link.cmds.find? fun c => c.phase == .waiting && (c.pkt.opcode == 0x80#8 || c.pkt.opcode == 0x81#8 || c.pkt.opcode == 0x82#8) with
  | none => none
  | some c =>
    let k : Fin 8 := Fin.ofNat 8 (opnd c.pkt.o0 2 0)
    if c.pkt.opcode == 0x81#8 && (d.start.staged.get k).isSome then some k else none

/-- Bytes of a copy that a commit left half written: they verify under nothing. -/
def halfWritten : List Byte := [0#8]

def Flash.setSlot (k : Fin 8) (x : FlashSlot) (f : Flash) : Flash := { f with slots := f.slots.set k x }

/-- R487: a Function Level Reset stops the commit at its next write; the slot is freed at once. -/
def Dev.commitStopped (d : Dev) : Dev :=
  match d.commitSlot with
  | none => d
  | some k =>
    let r := d.choose 2
    if r.1 = 0 then r.2 else (r.2.modFlash (Flash.setSlot k {})).sherdEvent shInterrupted

/-- R488: a reset or loss of power leaves the slot half written. -/
def Dev.commitLost (d : Dev) : Dev :=
  match d.commitSlot with
  | none => d
  | some k =>
    let r := d.choose 2
    if r.1 = 0 then r.2 else r.2.modFlash (Flash.setSlot k { primary := halfWritten })

-- Debug mode (R534)

/-- Debug mode ends: every halted kiln goes on. -/
def Dev.debugEnd (d : Dev) : Dev :=
  { d with ctrs := { d.ctrs with debugMode := false }, kilns := d.kilns.map fun (k : Kiln) => { k with halted := false } }

-- Loss of power and PERST_N (R462, R488, R540)

/-- What is left when every stage but the always-on one is off: flash, the latches of the always-on domain, the
value kept for HUB_UNIFIED_CFG (R224; DEDUCED, log 41), the pins. Memory holds undefined bytes. -/
def Dev.unpowered (d : Dev) : Dev :=
  let e := d.commitLost
  { out := e.out, nowUs := e.nowUs, freeCtr := e.freeCtr, mem := { e.mem.forget 0 (2 ^ 48) with poison := [], channels := 0, dead := [], deadWin := [] },
    start := { flash := e.start.flash },
    tier := { cfgKept := e.tier.cfgKept },
    power := { tripLatch := e.power.tripLatch, tripRecorded := e.power.tripRecorded, inputLossLatch := e.power.inputLossLatch,
               inputMv := e.power.inputMv },
    pins := { e.pins with pwrGood := false, wakeN := true, sbAlertN := true, ethPhyRstN := false, i3c := false, powered := false } }

/-- The whole device without power: rings too; commands that wait outside it still do. -/
def State.unpowered (f : Dev → Dev) (s : State) : State := { s with rings := {}, dev := f s.dev.unpowered }

-- Function Level Reset (R386)

/-- The launches of the device stop at their next tile boundaries, with no reply. -/
def Dev.stopLaunches (d : Dev) : Dev :=
  let d1 : Dev := { d with launches := d.launches.map fun l =>
    if l.alive then { l with phase := .ending stCancelled, job := none, cls := 0, owner := .cmd d.link.nextId } else l }
  d1.each (d1.launches.map (·.id)) Dev.launchComplete

/-- Slip tables: LOADED slots retire (R263). -/
def SlipPart.retire (x : SlipPart) : SlipPart :=
  ({ x with slots := x.slots.map fun (s : SlipSlot) => if s.state = 0 then s else { s with state := 2 } } : SlipPart).settle

/-- R386: what the host held is released. -/
def Dev.release (d : Dev) : Dev :=
  let unpin (t : TierPart) (p : PoolSlot) : TierPart := match p.pool with
    | some q => q.pinUnits.foldl (fun t u => t.poolPin false u) t
    | none => t
  let tier := d.cx.pools.toList.foldl unpin d.tier
  { d with
    tier := { tier with windows := [], migCmds := [], rests := [] },
    cx := { d.cx with pools := d.cx.pools.map fun (p : PoolSlot) => { p with pool := none }, ctxs := [], arb := [], destroying := [] },
    progs := { d.progs with programs := d.progs.programs.map fun (p : Program) => { p with retiring := true }, lists := [] },
    media := { d.media with sessions := [], jobs := [] },
    candle := { d.candle with streams := Vector.replicate 32 {}, reports := [] },
    fn := { d.fn with slots := d.fn.slots.map fun (x : FnSlot) => if x.state = 0 || x.holders.isEmpty then {} else { x with state := 3 } },
    coll := { d.coll with groups := [], binds := [], earlyBinds := [], ready := [], ops := [], jobs := [], slots := [], marks := [] },
    fabric := { d.fabric with unacked := d.fabric.unacked.filter (fun m => m.owner == .none),
                              waiting := d.fabric.waiting.filter (fun m => m.owner == .none), join := none,
                              state := if d.fabric.state = 1#2 then 0#2 else d.fabric.state },
    start := { d.start with staged := Vector.replicate 8 none } }

/-- R386, R487, R534: a Function Level Reset of the device but for the rings. -/
def Dev.flr (d : Dev) : Dev :=
  let d1 := d.commitStopped.debugEnd
  let d2 : Dev := { d1.release with link := { nextId := d.link.nextId + 1 } }
  let d3 := d2.stopLaunches.settlePrograms
  let d4 : Dev := { d3 with kilns := d3.kilns.map fun (k : Kiln) => { k with slip := k.slip.retire } }
  if d4.fabric.state = 2#2 then d4.leaveBegin d.link.nextId false else d4

def State.flr (s : State) : State := { s with rings := {}, dev := s.dev.flr }

/-- R471, R540: in ember a reset first completes an exit; PERST_N takes precedence over it. -/
def State.reset386 (s : State) : State :=
  let d := s.dev
  if !d.pins.perstN || !d.ringsOpen then s
  else
    match d.power.state.toNat with
    | 0 => s.flr
    | 1 => s.onDev (Dev.modPower fun p => { p with flrPending := true, pendingWake := some (p.pendingWake.getD 1#2) })
    | 2 => s.onDev (Dev.modPower fun p => { p with flrPending := true, state := 3, wakeSource := 1 })
    | _ => s.onDev (Dev.modPower fun p => { p with flrPending := true })

/-- FUNCTION_LEVEL_RESET (R386). -/
def execFunctionLevelReset (s : State) : Out := .next s.reset386
/-- LINK_DOWN (R386): a link that goes down without PERST_N has the same effects. -/
def execLinkDown (s : State) : Out := .next s.reset386

end Sys2Proof.Machine
end

