-- ==== Sys2Proof/Machine/Power.lean ====
section
/-! DEFINITION. Power, the cap, coolant, ember, and the sideband pins (R448 to R471, R538 to R549). -/
namespace Sys2Proof.Machine

-- Caps (R450, R453 to R457)

def PowerPart.lostStages (p : PowerPart) : Nat := 16 - popcount 16 p.stages.toNat
/-- R450: the sustained limit. -/
def PowerPart.limit (p : PowerPart) : Nat := 6000 - 375 * p.lostStages
/-- R453: the ranges of a cap and its window. -/
def capOk (cap window : Nat) : Bool :=
  (cap == 0 || (decide (2500 ≤ cap) && decide (cap ≤ 6000))) && decide (1 ≤ window) && decide (window ≤ 1000)
/-- The cap that a source's number asks for; both are clamped to the limit (R450, R453). -/
def PowerPart.capOf (p : PowerPart) (cap : Nat) : Half := BitVec.ofNat 16 (min p.limit (if cap = 0 then 6000 else cap))

/-- POWER_CAP (R453). -/
def Dev.powerCap (c : Cmd) (d : Dev) : Dev :=
  let cap := opnd c.pkt.o0 15 0
  let win := opnd c.pkt.o0 31 16
  if !capOk cap win then d.refuse c.id stPowerParam
  else (d.modPower fun p => { p with hostCap := p.capOf cap, hostWindow := BitVec.ofNat 16 win }).okCmd c.id 0 0 0

def execPowerCap (tag : Tag) (s : State) : Out := .next (s.onDev (Dev.onCmd tag 0x91 Dev.powerCap))

/-- R548: the sideband answers: the board can reach the device. -/
def Dev.sideband (d : Dev) : Bool := d.pins.alwaysOn && d.pins.perstN && d.pins.thermTripN

/-- BOARD_POWER_CAP (R453): within the same ranges; anything else changes nothing. -/
def Dev.boardCap (cap window : Half) (d : Dev) : Dev :=
  if !d.sideband || !capOk cap.toNat window.toNat then d
  else d.modPower fun p => { p with boardCap := p.capOf cap.toNat, boardWindow := window }

def execBoardPowerCap (cap window : Half) (s : State) : Out := .next (s.onDev (Dev.boardCap cap window))

/-- R454: the cap and window that apply. -/
def PowerPart.applies (p : PowerPart) : Nat × Nat :=
  let h := (p.hostCap.toNat, p.hostWindow.toNat)
  let b := (p.boardCap.toNat, p.boardWindow.toNat)
  if h.1 < b.1 then h else if b.1 < h.1 then b else (h.1, min h.2 b.2)

/-- R455: the kilns that an armed or draining stream uses. -/
def Dev.streamKilns (d : Dev) : List Nat :=
  (List.range 12).filter fun k => d.candle.streams.toList.any fun st =>
    (st.state == 2#2 || st.state == 3#2) && (match st.table with | some t => (d.candleUses t).contains k | none => false)

/-- The clocks that the cap allows, kiln by kiln, with one clock for each priority. -/
def PowerPart.withClocks (p : PowerPart) (stream : List Nat) (n s : Nat) : PowerPart :=
  { p with cap := Vector.ofFn fun k => if stream.contains k.val then s else n }

/-- R455: one step down: the kilns no stream uses first; a stream's follow where those already stand lower (DEDUCED, log 37). -/
def stepDown (n s : Nat) (none all : Bool) : Nat × Nat :=
  if all || (!none && (n < s || n ≤ 10)) then (n, max 10 (s - 1)) else (max 10 (n - 1), s)
/-- One step up, in the reverse order. -/
def stepUp (n s : Nat) (none all : Bool) : Nat × Nat :=
  if none || (!all && (n < s || 33 ≤ s)) then (min 33 (n + 1), s) else (n, min 33 (s + 1))

/-- The clock of one priority: the lowest among its kilns, which take the same clock. -/
def PowerPart.clockOf (p : PowerPart) (ks : List Nat) : Nat := minNat 33 (ks.filterMap fun k => p.cap[k]?)

/-- POWER_CAP_TICK (R455): a millisecond ends with an average input power in W. -/
def Dev.capTick (watts : Nat) (d : Dev) : Dev :=
  let p := d.power
  let samples := (watts :: p.samples).take 1000
  let ap := p.applies
  let win := samples.take ap.2
  let sum := sumNat win
  let below := decide (sum * 100 < ap.1 * 97 * win.length)
  let d1 := d.modPower fun p => { p with samples := samples, inputW := BitVec.ofNat 16 (min 0xFFFF watts),
                                         inputMa := watts * 1000000 / max 1 p.inputMv, belowFor := if below then p.belowFor + 1 else 0 }
  if !d.running || p.fastUntil.isSome then d1
  else
    let st := d.streamKilns
    let others := (List.range 12).filter fun k => !st.contains k
    let n := p.clockOf others
    let s := p.clockOf st
    if ap.1 * win.length < sum then
      if p.cap.toList.all (· == 10) then d1.modPower fun p => { p with capUnmetSeen := true }
      else
        let x := stepDown n s st.isEmpty others.isEmpty
        (d1.modPower fun p => p.withClocks st x.1 x.2).setEvent evCapped
    else if ap.2 ≤ d1.power.belowFor && p.cap.toList.any (· != 33) then
      let x := stepUp n s st.isEmpty others.isEmpty
      d1.modPower fun p => p.withClocks st x.1 x.2
    else d1

def execPowerCapTick (watts : Nat) (s : State) : Out := .next (s.onDev (Dev.capTick watts))

/-- FAST_POWER_LIMIT (R456): every kiln comes down to 1.6 GHz. -/
def Dev.fastLimit (d : Dev) : Dev :=
  if !d.running then d
  else d.modPower fun p => { p with cap := p.cap.map (min 16), fastLimitSeen := true, fastUntil := some (d.nowUs + 1000) }

def execFastPowerLimit (s : State) : Out := .next (s.onDev Dev.fastLimit)

/-- FAST_LIMIT_RELEASE (R456): after 1 ms control returns to R455. -/
def Dev.fastRelease (d : Dev) : Dev :=
  match d.power.fastUntil with
  | some t => if t ≤ d.nowUs then d.modPower fun p => { p with fastUntil := none } else d
  | none => d

def execFastLimitRelease (s : State) : Out := .next (s.onDev Dev.fastRelease)

-- Input, stages, trips (R449, R450, R462, R539 to R542)

/-- R539: the always-on domain answers once the input is there. -/
def Dev.inputApplied (d : Dev) : Dev :=
  if d.pins.input then d
  else (d.modPins fun p => { p with input := true, alwaysOn := true, thermTripN := true }).modPower fun p => { p with tripLatch := false, inputMv := 48000 }

def execInputPowerApplied (s : State) : Out := .next (s.onDev Dev.inputApplied)

/-- INPUT_VOLTAGE_LOSS (R449): as a trip, with no trip record; the next start logs it. -/
def Dev.inputLost (d : Dev) : Dev :=
  ({ d with tier := {} } : Dev).modPins (fun p => { p with input := false, alwaysOn := false, thermTripN := true }) |>.modPower fun p =>
    { p with inputLossLatch := true, tripLatch := false, inputMv := 0 }

def execInputVoltageLoss (s : State) : Out := .next (if s.dev.pins.input then s.unpowered Dev.inputLost else s)

/-- R462: a trip asserts THERM_TRIP_N, sets the latch, and switches every stage off. -/
def Dev.tripped (d : Dev) : Dev :=
  (d.modPins fun p => { p with thermTripN := false }).modPower fun p => { p with tripLatch := true, tripRecorded := true }
def State.trip (s : State) : State := if s.dev.pins.alwaysOn && !s.dev.power.tripLatch then s.unpowered Dev.tripped else s

/-- THERMAL_TRIP (R462). -/
def execThermalTrip (s : State) : Out := .next s.trip
/-- DIE_COMPARATOR_TRIP (R542): a die that is powered trips the device. -/
def execDieComparatorTrip (_ : DieIx) (s : State) : Out := .next (if s.dev.pins.powered then s.trip else s)

/-- STAGE_OUT_OF_REGULATION (R450): the stage is switched off, the limit falls, the loss is recorded. PWR_GOOD, which fell, is high
again once the stage is out of service (R541). -/
def Dev.stageLost (i : Fin 16) (d : Dev) : Dev :=
  if !d.pins.powered || !d.power.stages.getLsbD i.val then d
  else
    let d1 := d.modPower fun p => { p with stages := p.stages &&& ~~~BitVec.ofNat 16 (2 ^ i.val) }
    (d1.modPower fun p => { p with hostCap := p.capOf p.hostCap.toNat, boardCap := p.capOf p.boardCap.toNat }).unitOut hubDie i.val 450

def execStageOutOfRegulation (i : Fin 16) (s : State) : Out := .next (s.onDev (Dev.stageLost i))

-- Coolant (R461, R463)

/-- THERMAL_WARN (R461): the readings, in the units of R463 and °C by die; a warning condition among them sets WARN_SEEN, and its
event pulls SB_ALERT_N low (R548). -/
def Dev.thermalWarn (inlet flow : Byte) (temps : List Nat) (d : Dev) : Dev :=
  if !d.ready then d
  else
    let d1 := d.modPower fun p => { p with inlet := inlet, flow := flow, temps := Vector.ofFn fun i => temps.getD i.val (p.temps.get i) }
    if 84 < inlet.toNat || flow.toNat < 60 || d1.power.temps.toList.any (fun t => decide (95 < t)) then
      ((d1.modPower fun p => { p with warnSeen := true }).modPins fun p => { p with sbAlertN := false }).setEvent evThermal
    else d1

def execThermalWarn (inlet flow : Byte) (temps : List Nat) (s : State) : Out := .next (s.onDev (Dev.thermalWarn inlet flow temps))

/-- THERMAL_THROTTLE_TICK (R461): a millisecond at a temperature. Below 97 °C the die is lowered no more, and R451's clock stands
again (DEDUCED, log 38). -/
def Dev.throttle (x : DieIx) (temp : Nat) (d : Dev) : Dev :=
  if !d.running then d
  else
    let clk := d.power.heat.get x
    let low := if x.val < 12 then 10 else 22
    let d1 := d.modPower fun p => { p with temps := p.temps.set x temp }
    if 100 < temp || (97 ≤ temp && clk < 33) then
      d1.modPower fun p => { p with heat := p.heat.set x (max low (clk - 1)), throttleSeen := true }
    else if temp < 97 then d1.modPower fun p => { p with heat := p.heat.set x 33 }
    else d1

def execThermalThrottleTick (x : DieIx) (temp : Nat) (s : State) : Out := .next (s.onDev (Dev.throttle x temp))

-- Ember (R464 to R471)

/-- Bytes that lose their contents: they are undefined, and no poison marks them. -/
def Dev.lose (a n : Nat) (d : Dev) : Dev := { d with mem := (d.mem.forget a n).unpoisonWhole a n }

/-- R467's conditions that refuse EMBER. -/
def Dev.emberBarred (id : Nat) (d : Dev) : Bool :=
  d.power.state != 0#2 ||
  d.link.cmds.any (fun c => c.id != id) ||
  d.candle.streams.toList.any (fun st => st.state == 2#2 || st.state == 3#2) ||
  !d.media.sessions.isEmpty || !d.coll.jobs.isEmpty || d.fabric.state != 0#2 || !d.tier.moves.isEmpty ||
  d.tier.windows.any Window.mayFill

/-- R464, R468: what an entry turns off and loses. Every port but the lowest UP one goes dark. -/
def Dev.emberEnter (retain : Bool) (d : Dev) : Dev :=
  let kept := (List.finRange 128).find? fun p => (d.port p).state == psUp
  let d1 := d.portChanges fun d =>
    d.each ((List.finRange 128).filter fun p => kept != some p && (d.port p).state != psFailed && (d.port p).state != psDark) fun p d =>
      d.portDown p psDark
  let d2 := if retain then d1 else d1.lose (scratchBase 0) (12 * 0x40000000)
  let d3 := d2.lose (mapBase 0) (2 * 0x40000000)
  let d3 := d3.each (List.finRange 12) Dev.emptyCache
  ({ d3 with
    fabric := { d3.fabric with keptPort := kept },
    kilns := d3.kilns.map fun (k : Kiln) => { k with tiles := k.tiles.map fun (t : TileSt) => { t with ready := [], groups := [] } },
    power := { d3.power with state := 1, shmemRetained := retain } } : Dev).debugEnd

/-- POWER_STATE with a state other than RUN (R467, R468, R471). -/
def Dev.toEmber (c : Cmd) (d : Dev) : Dev :=
  let st := opnd c.pkt.o0 7 0
  if st = 0 || (st = 1 && d.power.state == 3#2) then d
  else if st ≠ 1 then d.refuse c.id stPowerParam
  else if d.emberBarred c.id then d.refuse c.id stPowerState
  else ((d.emberEnter (c.pkt.o0.getLsbD 8)).modPower fun p => { p with emberCmds := [c.id] }).okCmd c.id 0 0 0

def execPowerStateEmber (tag : Tag) (s : State) : Out := .next (s.onDev (Dev.onCmd tag 0x90 Dev.toEmber))

/-- POWER_STATE RUN (R467, R470): in ember it begins the exit, and its reply is written at the end. -/
def Dev.toRun (c : Cmd) (d : Dev) : Dev :=
  if opnd c.pkt.o0 7 0 ≠ 0 then d
  else
    let wait := (d.setPhase c.id .running).modPower fun p => { p with runCmds := p.runCmds ++ [c.id] }
    match d.power.state.toNat with
    | 0 => d.okCmd c.id 0 0 0
    | 1 => wait.modPower fun p => { p with pendingWake := some (p.pendingWake.getD 1#2) }
    | 2 => wait.modPower fun p => { p with state := 3, wakeSource := 1 }
    | _ => wait

def execPowerStateRun (tag : Tag) (s : State) : Out := .next (s.onDev (Dev.onCmd tag 0x90 Dev.toRun))

/-- BOARD_WAKE (R470, R471): the board's wake pulls WAKE_N low. -/
def Dev.boardWake (d : Dev) : Dev :=
  if !d.sideband then d
  else
    match d.power.state.toNat with
    | 1 => d.modPower fun p => { p with pendingWake := some (p.pendingWake.getD 2#2) }
    | 2 => (d.modPower fun p => { p with state := 3, wakeSource := 2 }).modPins fun p => { p with wakeN := false }
    | _ => d

def execBoardWake (s : State) : Out := .next (s.onDev Dev.boardWake)

/-- WAKE_N_TIMEOUT (R470): the link has reached L0, or 100 ms are over. -/
def execWakeNTimeout (s : State) : Out := .next (s.onDev (Dev.modPins fun p => { p with wakeN := true }))

/-- BOARD_MEMORY_POWER_LOSS (R466): board power to the crock fails in ember. -/
def Dev.boardMemLost (d : Dev) : Dev := if d.ember then d.modPower fun p => { p with boardMemPower := false } else d

def execBoardMemoryPowerLoss (s : State) : Out := .next (s.onDev Dev.boardMemLost)

/-- R466: what lay in board memory. -/
def Dev.crockGone (d : Dev) : Dev :=
  let d1 := (d.lose crockBase (d.tier.capacityGib * gib)).modPower fun p => { p with boardMemLost := true, boardMemPower := true }
  d1.each ((List.range d.tier.units).filter fun u => (d.tier.unit u).place.isNone) fun u d => d.lose (windowBase + u * unitBytes) unitBytes

/-- EMBER_EXIT_COMPLETE (R470): ports start to retrain, RUN commands end, and a Function Level Reset that waited follows. -/
def State.emberExit (s : State) : State :=
  if s.dev.power.state ≠ 3#2 then s
  else
    let s1 := s.onDev fun d =>
      let d1 := if d.power.boardMemPower then d else d.crockGone
      let d2 := d1.portChanges fun d =>
        d.each ((List.finRange 128).filter fun p => (d.port p).state == psDark && (d.port p).good != 0#9) fun p d =>
          d.modPort p fun x => { x with state := psTraining }
      let cmds := d2.power.runCmds
      let d3 : Dev := { d2 with fabric := { d2.fabric with keptPort := none }, power := { d2.power with state := 0, runCmds := [] } }
      d3.each cmds fun id d => d.okCmd id 0 0 0
    if s.dev.power.flrPending then (s1.onDev (Dev.modPower fun p => { p with flrPending := false })).flr else s1

def execEmberExitComplete (s : State) : Out := .next s.emberExit

-- Sideband (R459, R548)

/-- MCTP_TELEMETRY_READ (R459): the board reads the telemetry; SB_ALERT_N is released (DEDUCED, log 39). -/
def Dev.telemetry (d : Dev) : Dev :=
  if !d.sideband then d
  else
    let p := d.power
    (d.emit (.telemetry p.inputMv p.inputMa p.inputW.toNat p.temps.toList ((List.finRange 20).map d.dieClock) p.inlet.toNat p.outlet.toNat
      p.flow.toNat p.state.toNat)).modPins fun x => { x with sbAlertN := true }

def execMctpTelemetryRead (s : State) : Out := .next (s.onDev Dev.telemetry)

/-- I3C_ENTDAA (R548): the target runs I3C until the next reset. -/
def execI3cEntdaa (s : State) : Out :=
  .next (s.onDev fun d => if d.sideband then d.modPins fun p => { p with i3c := true } else d)

end Sys2Proof.Machine
end

