-- ==== Sys2Proof/Machine/Firing.lean ====
section
/-! DEFINITION. Firings: their form and signatures, the slots, the commit records, and the commands on them (R472, R473, R480 to
R498). -/
namespace Sys2Proof.Machine

-- A firing's bytes (R473, R480 to R482)

/-- R473: the slot size Z. -/
def Flash.slotSize (f : Flash) : Nat := min 0x8000000 ((f.capacity - 0x1000000) / 16 / 0x100000 * 0x100000)

/-- An entry of the component table (R481). -/
def componentAt (bs : List Byte) (i : Nat) : Component :=
  let r := slice bs (256 + 64 * i) 64
  { kind := bytesAt r 1 0, signer := bytesAt r 2 2, offset := bytesAt r 11 8, size := bytesAt r 15 12, digest := slice r 16 48 }

/-- R481: types with their signers; the certificate chain is unsigned. -/
def keahalKinds : List Nat := [1, 2, 3, 4, 5]
def chainKind : Nat := 6
def policyKind : Nat := 0x10
def defaultsKind : Nat := 0x11
def roleKind : Nat := 0x12
def ownerKinds : List Nat := [0x10, 0x11, 0x12]

def Component.bytes (c : Component) (bs : List Byte) : List Byte := slice bs c.offset c.size
def Component.sigAt (c : Component) : Nat := c.offset + roundUp c.size 64
/-- Where a component and its signature end. -/
def Component.fin (c : Component) : Nat := if c.kind = chainKind then c.offset + c.size else c.sigAt + 96
def Component.sig (c : Component) (bs : List Byte) : Nat × Nat := (leNat (slice bs c.sigAt 48), leNat (slice bs (c.sigAt + 48) 48))

def componentCount (bs : List Byte) : Nat := bytesAt bs 7 6
def componentsOf (bs : List Byte) : List Component := (List.range (componentCount bs)).map (componentAt bs)
def findKind (cs : List Component) (kind : Nat) : Option Component := cs.find? fun c => c.kind == kind
/-- The bytes of the component of a type, empty where there is none. -/
def kindBytes (bs : List Byte) (kind : Nat) : List Byte :=
  match findKind (componentsOf bs) kind with | some c => c.bytes bs | none => []

/-- R480: the header of a firing of a length. -/
def firingHeaderOk (z : Nat) (bs : List Byte) : Bool :=
  bytesAt bs 3 0 == 0x47524946 && bytesAt bs 5 4 == 1 && decide (6 ≤ componentCount bs) && decide (componentCount bs ≤ 16) &&
  bytesAt bs 15 8 == bs.length && decide (bs.length ≤ z) && zeroAt bs 31 28 && zeroAt bs 255 80 &&
  decide (256 + 64 * componentCount bs ≤ bs.length)

/-- R481: the table: known types at most once with their signers, the required ones there, offsets, and no overlap. -/
def tableOk (bs : List Byte) : Bool :=
  let cs := componentsOf bs
  (cs.all fun c =>
    (if keahalKinds.contains c.kind then c.signer == 0 else if ownerKinds.contains c.kind then c.signer == 1 else c.kind == chainKind) &&
    c.offset % 64 == 0 && decide (256 + 64 * cs.length ≤ c.offset) && decide (c.fin ≤ bs.length)) &&
  (List.range cs.length).all (fun i => zeroAt bs (256 + 64 * i + 7) (256 + 64 * i + 3)) &&
  ([1, 2, 3, 4, 5, 6].all fun k => (findKind cs k).isSome) &&
  ((indexed cs).all fun a => (indexed cs).all fun b =>
    a.1 == b.1 || (a.2.kind != b.2.kind && !overlaps a.2.offset (a.2.fin - a.2.offset) b.2.offset (b.2.fin - b.2.offset)))

def firingNumerics (bs : List Byte) : Word := BitVec.ofNat 32 (bytesAt bs 19 16)
def firingSeq (bs : List Byte) : Nat := bytesAt bs 27 24
def firingOwner (bs : List Byte) : List Byte := slice bs 32 48
def unowned (owner : List Byte) : Bool := owner.all (· == 0#8)

/-- R482: header, table, digests and numerics. -/
def firingFormOk (z : Nat) (bs : List Byte) : Bool :=
  firingHeaderOk z bs && tableOk bs &&
  (componentsOf bs).all fun c => sha384 (c.bytes bs) == c.digest &&
    (!keahalKinds.contains c.kind || Config.implements (c.bytes bs) (firingNumerics bs))

/-- R482: the chain, and every signature. An all-zero policy key, which releases the device (R483), signs nothing: only the policy
may be there (DEDUCED, log 42). -/
def firingSigned (bs : List Byte) : Bool :=
  let cs := componentsOf bs
  let good (key : Nat) (c : Component) : Bool := ecdsaVerifies key (sha384Nat (c.bytes bs)) (c.sig bs).1 (c.sig bs).2
  (match Config.chainLeaf (kindBytes bs chainKind) with
   | some key => cs.all fun c => !keahalKinds.contains c.kind || good key c
   | none => false) &&
  (match findKind cs policyKind with
   | none => unowned (firingOwner bs) && !cs.any fun c => ownerKinds.contains c.kind
   | some p =>
     let key := Config.policyKey (p.bytes bs)
     if unowned key then unowned (firingOwner bs) && !cs.any fun c => c.kind == defaultsKind || c.kind == roleKind
     else sha384 key == firingOwner bs && cs.all fun c => !ownerKinds.contains c.kind || good (beNat key) c)

/-- R482: the firing verifies. -/
def firingVerifies (z : Nat) (bs : List Byte) : Bool := firingFormOk z bs && firingSigned bs

/-- R480: the firing digest takes COMMIT_SEQ as zero. -/
def withSeq (seq : Nat) (bs : List Byte) : List Byte := bs.take 24 ++ leBytes 4 seq ++ bs.drop 28
def firingDigest (bs : List Byte) : List Byte := sha384 (withSeq 0 bs)

/-- The firing as it runs from a slot. -/
def activeOf (slot : Fin 8) (bs : List Byte) : ActiveFiring :=
  let p := kindBytes bs policyKind
  { slot := slot, commitSeq := firingSeq bs, numerics := firingNumerics bs, ownerDigest := firingOwner bs,
    revoked := Config.policyRevoked p, debugAllowed := !p.isEmpty && Config.policyDebug p, components := componentsOf bs }

/-- R334: the fabric role of a firing; without one, MODE is NONE. -/
def roleOf (bs : List Byte) : Role :=
  match findKind (componentsOf bs) roleKind with
  | none => {}
  | some c =>
    let f := Config.roleField (c.bytes bs)
    { mode := f 0, fabricId := BitVec.ofNat 64 (f 1), n := f 2, groups := f 3, g := f 4, i := f 5 }

/-- R334, R343, R344: the roles that are accepted. -/
def Role.ok (r : Role) : Bool :=
  r.mode == 0 || r.mode == 2 ||
  (r.mode == 1 && decide (r.n * r.groups ≤ 16384) && decide (r.g < r.groups) && decide (r.i < r.n) &&
   (if r.groups = 1 then decide (2 ≤ r.n) && decide (r.n ≤ 129)
    else decide (2 ≤ r.n) && decide (r.n ≤ 128) && decide (r.groups - 1 ≤ r.n * (129 - r.n))))

-- Commit records and slots (R486 to R491)

/-- The records that count: those of both areas, but for a SEQ that the areas give different contents. -/
def Flash.records (f : Flash) : List CommitRec :=
  let all_ := f.areaA ++ f.areaB.filter fun r => !f.areaA.contains r
  all_.filter fun r => all_.all fun q => q.seq != r.seq || q == r
def Flash.newest (f : Flash) : Option CommitRec := f.records.find? fun r => f.records.all fun q => decide (q.seq ≤ r.seq)
def Flash.nextSeq (f : Flash) : Nat := maxNat ((f.areaA ++ f.areaB).map (·.seq)) + 1
def Flash.commitOf (f : Flash) (seq : Nat) : Option CommitRec := f.records.find? fun r => !r.isRevert && r.seq == seq
/-- The newest COMMIT record below a SEQ. -/
def Flash.olderThan (f : Flash) (seq : Nat) : Option CommitRec :=
  let rs := f.records.filter fun r => !r.isRevert && decide (r.seq < seq)
  rs.find? fun r => rs.all fun q => decide (q.seq ≤ r.seq)
/-- R489: the COMMIT record that a newest record makes the candidate, by its SEQ. -/
def CommitRec.target (r : CommitRec) : Nat := if r.isRevert then r.targetSeq else r.seq

/-- What judging a slot finds: the copy used, or whether both copies were refused (R489). -/
inductive Judged where
  | used (bs : List Byte)
  | conflict
  | bad
  deriving DecidableEq, Repr

/-- R489, rules 1 to 5, for a candidate. -/
def Flash.judge (f : Flash) (r : CommitRec) : Judged :=
  let s := f.slots.get r.slot
  let a := firingVerifies f.slotSize s.primary
  let b := firingVerifies f.slotSize s.mirror
  let take (bs : List Byte) : Judged := if firingSeq bs = r.seq && (firingDigest bs).take 32 == r.digest then .used bs else .bad
  if a && b then
    if s.primary = s.mirror then take s.primary
    else if firingSeq s.primary = firingSeq s.mirror then .conflict
    else take (if firingSeq s.mirror < firingSeq s.primary then s.primary else s.mirror)
  else if a then take s.primary
  else if b then take s.mirror
  else .bad
def Judged.bytes : Judged → Option (List Byte)
  | .used bs => some bs
  | _ => none

/-- The COMMIT record of the selected firing. -/
def Flash.selectedRec (f : Flash) : Option CommitRec := (f.newest).bind fun r => f.commitOf r.target
/-- The bytes of the selected firing. -/
def Flash.selectedBytes (f : Flash) : Option (List Byte) := (f.selectedRec).bind fun r => (f.judge r).bytes

/-- What a candidate's judging and the search among older records give: the record that passes with its bytes, and whether a conflict was
met on the way. -/
def Judged.orOlder (j : Judged) (r : CommitRec) (older : Option (CommitRec × List Byte) × Bool) : Option (CommitRec × List Byte) × Bool :=
  match j with
  | .used bs => (some (r, bs), false)
  | .conflict => (older.1, true)
  | .bad => older
/-- The first record at or below a candidate whose slot passes, going from COMMIT record to older COMMIT record; and whether a
conflict was met on the way. fuel bounds the records. -/
def Flash.passing (f : Flash) : Nat → Option CommitRec → Option (CommitRec × List Byte) × Bool
  | _, none => (none, false)
  | 0, _ => (none, false)
  | fuel + 1, some r => (f.judge r).orOlder r (f.passing fuel (f.olderThan r.seq))

/-- R490: the record that a revert would name. -/
def Flash.revertRec (f : Flash) : Option CommitRec :=
  match f.selectedRec with
  | none => none
  | some r => ((f.passing f.records.length (f.olderThan r.seq)).1).map (·.1)

/-- Append a record to both areas; a full area loses its oldest 64 KiB first (R486). -/
def Flash.putRecord (r : CommitRec) (f : Flash) : Flash :=
  let room (a : List CommitRec) : List CommitRec := (if 16384 ≤ a.length then a.drop 1024 else a) ++ [r]
  { f with areaA := room f.areaA, areaB := room f.areaB }

/-- R493: bit k is set when a commit record names slot k's copy used. -/
def Flash.committedMask (f : Flash) : BitVec 8 :=
  f.records.foldl (fun m r => if !r.isRevert && (f.judge r).bytes.isSome then m ||| BitVec.ofNat 8 (2 ^ r.slot.val) else m) 0#8

/-- A slot is freed: erased, and staged no more. -/
def Dev.freeSlot (k : Fin 8) (d : Dev) : Dev := (d.modFlash (Flash.setSlot k {})).modStart fun s => { s with staged := s.staged.set k none }

-- FIRING_STAGE (R483, R484)

/-- R483: does the device accept the owner of a firing. -/
def Dev.ownerAccepts (d : Dev) (bs : List Byte) : Bool :=
  match d.start.flash.selectedBytes with
  | none => true
  | some cur =>
    unowned (firingOwner cur) || firingOwner cur == firingOwner bs ||
    Config.policyTransfer (kindBytes bs policyKind) (beNat (Config.policyKey (kindBytes cur policyKind)))

/-- R484: the slot holds neither the active firing, the selected one, nor the one a revert would select. -/
def Dev.stageable (d : Dev) (k : Fin 8) : Bool :=
  (match d.start.active with | some a => a.slot != k | none => true) &&
  (match d.start.flash.selectedRec with | some r => r.slot != k | none => true) &&
  (match d.start.flash.revertRec with | some r => r.slot != k | none => true)

/-- FIRING_STAGE (R484). -/
def Dev.firingStage (c : Cmd) (d : Dev) : Dev :=
  let a := opDa c.pkt.o0
  let n := opnd c.pkt.o1 39 0
  let k : Fin 8 := Fin.ofNat 8 (opnd c.pkt.o2 2 0)
  let z := d.start.flash.slotSize
  if !d.stageable k then d.refuse c.id stFiringSlot
  else if z < n then d.refuse c.id stFiringFormat
  else if !d.directOk a n then d.refuse c.id stAddress
  else
    d.fetchBytes c.id a n fun bs d =>
      if !(firingFormOk z bs && firingSeq bs == 0) then d.refuse c.id stFiringFormat
      else if !(firingSigned bs && d.ownerAccepts bs) then d.refuse c.id stFiringSignature
      else if !(roleOf bs).ok then d.refuse c.id stFiringRole
      else
        (d.modStart fun s => { s with staged := s.staged.set k (some { da := a, len := n, digest := firingDigest bs }) }).okCmd c.id 0 0 0

def execFiringStage (tag : Tag) (s : State) : Out := .next (s.onDev (Dev.onCmd tag 0x80 Dev.firingStage))

-- FIRING_COMMIT and FIRING_REVERT (R485, R490)

/-- FIRING_COMMIT (R485). flashOk: each copy reads back as it was written. -/
def Dev.firingCommit (flashOk : Bool) (c : Cmd) (d : Dev) : Dev :=
  let k : Fin 8 := Fin.ofNat 8 (opnd c.pkt.o0 2 0)
  match d.start.staged.get k with
  | none => d.refuse c.id stFiringSlot
  | some st =>
    d.fetchBytes c.id st.da st.len fun bs d =>
      if firingDigest bs ≠ st.digest then (d.freeSlot k).refuse c.id stFiringFormat
      else if !flashOk then (d.freeSlot k).refuse c.id stFiringSlot
      else
        let seq := d.start.flash.nextSeq
        let copy := withSeq seq bs
        let r : CommitRec := { seq := seq, isRevert := false, slot := k, targetSeq := 0, digest := st.digest.take 32 }
        let d1 := (d.freeSlot k).modFlash fun f => (f.setSlot k { primary := copy, mirror := copy }).putRecord r
        (d1.modStart fun s => { s with selected := some k, committed := s.flash.committedMask }).okCmd c.id 0 0 0

def execFiringCommit (tag : Tag) (flashOk : Bool) (s : State) : Out := .next (s.onDev (Dev.onCmd tag 0x81 (Dev.firingCommit flashOk)))

/-- FIRING_REVERT (R490). -/
def Dev.firingRevert (c : Cmd) (d : Dev) : Dev :=
  match d.start.flash.revertRec with
  | none => d.refuse c.id stFiringNone
  | some r =>
    let q : CommitRec := { seq := d.start.flash.nextSeq, isRevert := true, slot := r.slot, targetSeq := r.seq, digest := r.digest }
    ((d.modFlash (Flash.putRecord q)).modStart fun s => { s with selected := some r.slot }).okCmd c.id 0 0 0

def execFiringRevert (tag : Tag) (s : State) : Out := .next (s.onDev (Dev.onCmd tag 0x82 Dev.firingRevert))

-- Health (R497), ATTEST (R496, R498) and HEALTH_QUERY (R518)

/-- Counts of what is in service. -/
def Dev.lampsLeft (d : Dev) : Nat := (d.repair.lamps.toList.filter (·.ok)).length
def Dev.enginesLeft (d : Dev) : Nat :=
  sumNat ((List.finRange 4).map fun l => (List.range 34).countP fun e =>
    !d.fabric.engineOut.contains (l.val, e) && (List.range 32).all fun i => (d.port (portOf l i)).engine != e)
def Dev.stackMask (d : Dev) : Nat := sumNat ((List.range 24).map fun s => if d.stackOk s then 2 ^ s else 0)

/-- R497: the HEALTH field. -/
def Dev.health (d : Dev) : List Byte :=
  (d.kilns.toList.map fun (k : Kiln) => BitVec.ofNat 8 k.boundTiles.length) ++ leBytes 3 d.stackMask ++ leBytes 1 d.lampsLeft ++
  leBytes 1 ((List.finRange 128).countP fun p => (d.port p).carries) ++ leBytes 1 d.enginesLeft ++
  leBytes 1 (popcount 16 d.power.stages.toNat) ++ leBytes 1 (popcount 12 d.tier.chOk.toNat) ++ leBytes 4 d.repair.ledgerVersion ++
  leBytes 3 d.start.alternates.toNat ++ leBytes 3 d.start.skips.toNat ++
  leBytes 1 (b2n d.power.tripLast + 2 * b2n d.power.boardMemLost + 4 * b2n d.ctrs.debugEntered + 8 * b2n d.start.fallback) ++
  List.replicate 33 0#8

/-- R496: a measurement, in the layout of R481 with OFFSET zero. -/
def measurement (kind signer size : Nat) (digest : List Byte) : List Byte :=
  leBytes 2 kind ++ leBytes 1 signer ++ List.replicate 5 0#8 ++ leBytes 4 0 ++ leBytes 4 size ++ digest

/-- The report but for its signature and certificates (R496). -/
def Dev.attestBody (d : Dev) (nonce : List Byte) (total : Nat) : List Byte :=
  let comps := match d.start.active with | some a => a.components | none => []
  leBytes 4 0x54535441 ++ leBytes 2 1 ++ leBytes 2 total ++ nonce ++ leBytes 8 ownFingerprint.toNat ++ leBytes 4 d.numerics.toNat ++
  leBytes 4 (match d.start.active with | some a => a.commitSeq | none => 0) ++
  leBytes 1 (match d.start.active with | some a => a.slot.val | none => 0xFF) ++ leBytes 1 (comps.length + 1) ++
  leBytes 2 d.start.startNo ++ List.replicate 4 0#8 ++
  (match d.start.active with | some a => a.ownerDigest | none => List.replicate 48 0#8) ++ d.health ++
  measurement 0 0 0 (leBytes 48 Config.bootRomDigest) ++ comps.flatMap fun c => measurement c.kind c.signer c.size c.digest

/-- Bytes of the whole report. -/
def Dev.attestLen (d : Dev) : Nat :=
  let n := 1 + (match d.start.active with | some a => a.components.length | none => 0)
  176 + 64 * n + 96 + Config.deviceCerts.length

/-- ATTEST (R496, R498). -/
def Dev.attest (c : Cmd) (d : Dev) : Dev :=
  let nonce := opDa c.pkt.o0
  let a := opDa c.pkt.o1
  let n := d.attestLen
  if !d.daOk nonce 32 || !d.daOk a n then d.refuse c.id stAddress
  else if opnd c.pkt.o2 31 0 < n then d.refuse c.id stQuerySpace
  else if !d.start.identityOk then d.refuse c.id stResourceAbsent
  else
    d.fetchBytes c.id nonce 32 fun bs d =>
      let body := d.attestBody bs n
      d.storeBytes c.id a (body ++ Config.identitySign (sha384Nat body) ++ Config.deviceCerts) fun d => d.okCmd c.id n 0 0

def execAttest (tag : Tag) (s : State) : Out := .next (s.onDev (Dev.onCmd tag 0x83 Dev.attest))

/-- A sherd record's bytes (R478). -/
def Sherd.bytes (r : Sherd) : List Byte :=
  let b := leBytes 4 r.start ++ leBytes 1 r.step ++ leBytes 1 r.outcome ++ leBytes 1 r.method ++ leBytes 1 r.consec ++ leBytes 2 r.detail ++
    leBytes 1 r.unit ++ leBytes 1 r.event ++ leBytes 4 r.time ++ List.replicate 8 0#8
  b ++ (sha384 b).take 8

/-- A ledger record's bytes (R514). -/
def LedgerRec.bytes (r : LedgerRec) : List Byte :=
  let b := leBytes 4 r.version ++ leBytes 1 r.rep.kind ++ leBytes 1 r.rep.unit ++ leBytes 2 r.rep.element ++ leBytes 8 r.rep.detail ++
    leBytes 4 r.start ++ leBytes 4 r.time ++ List.replicate 32 0#8
  b ++ (sha384 b).take 8

/-- R478: the records of the last 8 starts, this one included. -/
def Dev.lastSherds (d : Dev) : List Sherd := d.start.flash.sherds.filter fun r => decide (d.start.startNo < r.start + 8)

/-- HEALTH_QUERY (R518). -/
def Dev.healthQuery (c : Cmd) (d : Dev) : Dev :=
  let a := opDa c.pkt.o0
  let sh := d.lastSherds
  let led := d.repair.standing
  let n := 128 + 32 * sh.length + 64 * led.length
  let head := leBytes 4 0x48544C48 ++ leBytes 2 1 ++ leBytes 2 0 ++ leBytes 4 n ++ leBytes 4 d.repair.ledgerVersion ++ leBytes 2 sh.length ++
    leBytes 2 led.length ++ List.replicate 44 0#8 ++ d.health
  if !d.daOk a n then d.refuse c.id stAddress
  else if opnd c.pkt.o1 31 0 < n then d.refuse c.id stQuerySpace
  else d.storeBytes c.id a (head ++ sh.flatMap Sherd.bytes ++ led.flatMap LedgerRec.bytes) fun d => d.okCmd c.id n 0 0

def execHealthQuery (tag : Tag) (s : State) : Out := .next (s.onDev (Dev.onCmd tag 0xF0 Dev.healthQuery))

end Sys2Proof.Machine
end

