-- ==== Sys2Proof/Machine/Start.lean ====
section
/-! DEFINITION. The start sequence: steps, policies, the sherd log, what each step leaves, and the health ledger (R473 to R479, R489,
R507, R509, R514 to R517, R539, R540). -/
namespace Sys2Proof.Machine

-- Policies (R475, R477)

/-- What a step's policy lists (R475). -/
inductive StepPolicy where
  | retry | alternate | skip | hold | wait
  deriving DecidableEq, Repr

/-- R475's last column. -/
def policyOf : Nat → List StepPolicy
  | 1 => [.hold]
  | 2 => [.retry, .alternate, .skip]
  | 3 => [.retry, .skip]
  | 4 => [.alternate, .skip]
  | 7 => [.wait]
  | 11 => [.retry, .alternate, .skip]
  | 12 => [.retry, .alternate, .skip]
  | 13 => [.retry, .alternate]
  | 14 => [.retry, .alternate, .skip]
  | 16 => [.alternate]
  | 18 => [.skip]
  | 20 => [.skip]
  | 22 => [.skip]
  | 24 => [.hold]
  | _ => [.retry, .skip]

/-- The policy at the n-th consecutive failure: the last entry is repeated. -/
def policyAt (step n : Nat) : StepPolicy := (policyOf step).getD (min n (policyOf step).length - 1) .retry

/-- The outcomes of a step in the starts before one, newest first: a STARTED record without an outcome counts as FAILED (R478). -/
def Flash.history (f : Flash) (step now : Nat) : List Nat :=
  let rs := f.sherds.filter fun r => r.step == step && decide (r.start < now)
  let starts := distinct (rs.reverse.map (·.start))
  starts.map fun n => match rs.find? fun r => r.start == n && r.outcome != 0 with | some r => r.outcome | none => 3

/-- R477: the count of consecutive earlier starts in which a step failed. -/
def Flash.failures (f : Flash) (step now : Nat) : Nat := ((f.history step now).takeWhile (· == 3)).length

/-- How a step runs: by its primary method, its alternate, not at all, or by the primary first and the alternate after it. -/
inductive Method where
  | primary | alternate | skip | probe
  deriving DecidableEq, Repr

/-- R477: the method of a step at this start. The failure before it was failure c, whose policy entry it follows (DEDUCED, log 40);
a method that succeeded as an alternate is kept, and at every 16th such start the primary is tried first. -/
def Dev.methodOf (d : Dev) (step : Nat) : Method :=
  let h := d.start.flash.history step d.start.startNo
  let c := (h.takeWhile (· == 3)).length
  if c = 0 then
    let kept := (h.takeWhile (· == 2)).length
    if kept = 0 then .primary else if (kept + 1) % 16 = 0 then .probe else .alternate
  else
    match policyAt step c with
    | .alternate => .alternate
    | .skip => .skip
    | _ => .primary

-- Numbers that registers hold (R51, R52)

/-- HUB_NUM_POLICY and HUB_TROUBLE_LIMITS as they are written. -/
def NumPolicy.ofWords (pol lim : Nat) : NumPolicy :=
  { qualityRef := bit pol 0, mxFloor := bit pol 1, gradSr := bit pol 2, widen := bit pol 3, escDisable := bit pol 4,
    escThreshold := field pol 15 8, satLimit := field lim 7 0, flushLimit := field lim 15 8, ratio := field lim 23 16 }
def NumPolicy.policyWord (p : NumPolicy) : Nat :=
  b2n p.qualityRef + 2 * b2n p.mxFloor + 4 * b2n p.gradSr + 8 * b2n p.widen + 16 * b2n p.escDisable + at_ 8 p.escThreshold
def NumPolicy.limitsWord (p : NumPolicy) : Nat := p.satLimit + at_ 8 p.flushLimit + at_ 16 p.ratio

-- The ledger (R514 to R517)

/-- What a repair stands for: a later record of the same place replaces an earlier one. -/
def Repair.place (r : Repair) : Nat × Nat × Nat × Nat :=
  if 5 ≤ r.kind && r.kind ≤ 10 then (r.kind, r.unit, r.element, r.detail)
  else if r.kind = 13 then (12, r.unit, r.element, 0) else (r.kind, r.unit, r.element, 0)
/-- A record that undoes a repair stands for nothing itself. -/
def Repair.undoes (r : Repair) : Bool := r.kind == 1 || r.kind == 13 || (r.kind == 11 && r.detail == 0)
def standingPut (l : List LedgerRec) (r : LedgerRec) : List LedgerRec :=
  let rest := l.filter fun x => x.rep.place != r.rep.place
  if r.rep.undoes then rest else rest ++ [r]

/-- The records that follow an area's last SNAPSHOT, with the SNAPSHOT's version. -/
def areaRecords (a : List LedgerRec) : Option (Nat × List LedgerRec) :=
  match a.reverse.find? fun r => r.rep.kind == 1 with
  | some s => some (s.version, a.filter fun r => decide (s.version < r.version))
  | none => none

/-- R516: read the ledger at a start. -/
def Dev.loadLedger (d : Dev) : Dev :=
  let a := areaRecords (d.start.flash.ledger.get 0)
  let b := areaRecords (d.start.flash.ledger.get 1)
  let use (i : Fin 2) (rs : List LedgerRec) : Dev :=
    let st := rs.foldl standingPut []
    let held := (st.filter fun r => r.rep.holdsSpare).map fun r => ({ rep := r.rep } : SpareUse)
    { d with repair := { d.repair with activeArea := i, spares := held, standing := st,
                                       ledgerVersion := maxNat ((d.start.flash.ledger.get i).map (·.version)), ledgerEmptyStart := false } }
  match a, b with
  | none, none => { d with repair := { d.repair with ledgerEmptyStart := true, standing := [], ledgerVersion := 0 } }
  | some x, none => use 0 x.2
  | none, some y => use 1 y.2
  | some x, some y => if y.1 ≤ x.1 then use 0 x.2 else use 1 y.2

/-- Records of an area (R514). -/
def areaMax : Nat := 65536
/-- Standing repairs at most (R517). -/
def standingMax : Nat := 60000

def Dev.modLedger (i : Fin 2) (v : Nat) (st : List LedgerRec) (d : Dev) : Dev :=
  { d with repair := { d.repair with activeArea := i, ledgerVersion := v, standing := st } }

/-- R516, R517: write the oldest repair not yet recorded. -/
def Dev.ledgerPut (d : Dev) : Dev :=
  match d.repair.unwritten with
  | [] => d
  | r :: rest =>
    let d0 : Dev := { d with repair := { d.repair with unwritten := rest } }
    let known := d.repair.standing.any fun x => x.rep.place == r.place
    if !known && !r.undoes && standingMax ≤ d.repair.standing.length then
      { d0 with repair := { d0.repair with ledgerFull := true } }
    else
      let v := d.repair.ledgerVersion + 1
      let rec_ : LedgerRec := { version := v, rep := r, start := d.start.startNo, time := d.startMs }
      let i := d.repair.activeArea
      let area := d.start.flash.ledger.get i
      if (areaRecords area).isSome && area.length < areaMax then
        (d0.modFlash fun f => { f with ledger := f.ledger.set i (area ++ [rec_]) }).modLedger i v (standingPut d.repair.standing rec_)
      else
        let j : Fin 2 := if i = 0 then 1 else 0
        let all_ := standingPut d.repair.standing rec_
        let snap : LedgerRec := { rec_ with rep := { kind := 1, unit := 0, element := 0, detail := all_.length } }
        let again := (indexed all_).map fun x => { x.2 with version := v + 1 + x.1, start := d.start.startNo, time := d.startMs }
        (d0.modFlash fun f => { f with ledger := f.ledger.set j (snap :: again) }).modLedger j (v + all_.length) again

/-- Every repair that waits is written, as step S23 does. -/
def Dev.ledgerFlush (d : Dev) : Dev := d.repair.unwritten.foldl (fun d _ => d.ledgerPut) d

-- What the steps leave (R475, R507)

def Dev.dieDown (d : Dev) (x : DieIx) : Bool := d.start.diesOut.contains x
/-- The step takes a unit out of service, or finds it good again (R510, R513, R515). -/
def Dev.stepUnit (step : Nat) (die : DieIx) (unit : Nat) (ok : Bool) (d : Dev) : Dev :=
  let was := d.repair.standing.any fun r => r.rep.kind == 12 && r.rep.unit == dieCode die && r.rep.element == unit
  if !ok && !was then (d.noteRepair 12 (dieCode die) unit step).setEvent evRepair
  else if ok && was then d.noteRepair 13 (dieCode die) unit 0
  else d

/-- S02: the identity, and the latched events (R449, R462, R495). -/
def Dev.stepS02 (skip : Bool) (f : Findings) (d : Dev) : Dev :=
  let d1 := d.modStart fun s => { s with identityOk := !skip && f.identity }
  let d2 := if d1.power.tripRecorded then (d1.sherdEvent shTrip).modPower fun p => { p with tripLast := true } else d1
  let d3 := if d2.power.inputLossLatch then d2.sherdEvent shInputLoss else d2
  d3.modPower fun p => { p with tripRecorded := false, inputLossLatch := false }

/-- R488: slots that hold bytes no commit record names. -/
def Flash.orphans (f : Flash) : List (Fin 8) :=
  (List.finRange 8).filter fun k =>
    let s := f.slots.get k
    (!s.primary.isEmpty || !s.mirror.isEmpty) &&
    !(f.records.any fun r => !r.isRevert && r.slot == k && (r.seq == firingSeq s.primary || r.seq == firingSeq s.mirror))

def Dev.recover (d : Dev) : Dev :=
  (d.modStart fun s => { s with recovery := true, active := none }).sherdEvent shRecovery

/-- S03: orphans freed, the ledger read, and the firing chosen (R488, R489). -/
def Dev.stepS03 (skip : Bool) (d : Dev) : Dev :=
  let os := d.start.flash.orphans
  let d1 := (d.each os fun k d => d.modFlash (Flash.setSlot k {})).loadLedger
  let d2 := if os.isEmpty then d1 else (d1.modStart fun s => { s with interruptedSeen := true }).sherdEvent shInterrupted
  let f := d2.start.flash
  let first := (f.newest).bind fun r => match f.commitOf r.target with | some c => some c | none => f.olderThan r.target
  let x := f.passing f.records.length first
  let d3 := d2.modStart fun s => { s with selected := (f.newest).map (·.slot), committed := f.committedMask }
  if skip then d3.recover
  else
    let d4 := if x.2 then (d3.modStart fun s => { s with conflictSeen := true }).sherdEvent shConflict else d3
    match x.1 with
    | none => d4.recover
    | some (r, bs) =>
      let d5 := d4.modStart fun s => { s with active := some (activeOf r.slot bs) }
      if (f.newest).any (fun q => q.target == r.seq) then d5 else (d5.modStart fun s => { s with fallback := true }).sherdEvent shFallback

/-- The previous committed firing in place of the active one (steps S04 and S13). -/
def Dev.previousFiring (d : Dev) : Dev :=
  match d.start.active with
  | none => d
  | some a =>
    match (d.start.flash.passing d.start.flash.records.length (d.start.flash.olderThan a.commitSeq)).1 with
    | some (r, bs) => (d.modStart fun s => { s with active := some (activeOf r.slot bs), fallback := true }).sherdEvent shFallback
    | none => d

/-- The active firing's bytes, as flash holds them. -/
def Dev.activeBytes (d : Dev) : List Byte :=
  match d.start.active with
  | none => []
  | some a => (((d.start.flash.commitOf a.commitSeq).bind fun r => (d.start.flash.judge r).bytes)).getD []

def Dev.takeRole (d : Dev) : Dev := { d with fabric := { d.fabric with role := roleOf d.activeBytes } }

/-- S05: the lamplighters; LL8 takes over a core that failed (R512). -/
def Dev.stepS05 (f : Findings) (d : Dev) : Dev :=
  let bad := f.lampsFailed.filter fun c => c.val < 8
  let spareOk := !f.lampsFailed.contains 8
  let d1 : Dev := { d with repair := { d.repair with
    lamps := Vector.ofFn fun c => if c.val < 8 then { ok := !bad.contains c, spare := false }
                                  else { ok := spareOk && !bad.isEmpty, spare := spareOk && bad.isEmpty } } }
  d1.each bad fun c d => d.noteRepair 14 (dieCode hubDie) c.val (if spareOk then 8 else 0xFF)

/-- S06: the stages that passed are switched on, and PWR_GOOD rises (R450, R539). -/
def Dev.stepS06 (f : Findings) (d : Dev) : Dev :=
  let d1 := (d.modPower fun p => { p with stages := ~~~f.stagesFailed }).modPins fun p => { p with pwrGood := true, powered := true }
  (d1.modPower fun p => { p with hostCap := p.capOf p.hostCap.toNat, boardCap := p.capOf p.boardCap.toNat }).each
    ((List.range 16).filter fun i => f.stagesFailed.getLsbD i) fun i d => d.stepUnit 6 hubDie i false

/-- R507, R509: a kiln's tiles, by the ledger and the tests. -/
def Dev.startTiles (k : Fin 12) (d : Dev) : Dev :=
  let mine := d.repair.standing.filter fun r => r.rep.unit == k.val
  let find (kind e : Nat) : Option LedgerRec := mine.find? fun r => r.rep.kind == kind && r.rep.element == e
  let bind (t : Nat) : Nat := match find 2 t with | some r => r.rep.detail % 32 | none => t
  let times (p : Nat) : Nat := match find 3 p with | some r => r.rep.detail % 256 | none => 0
  let quarantined (p : Nat) : Bool := match find 3 p with
    | some r => (match find 4 p with | some s => decide (s.version < r.version) | none => true)
    | none => false
  let failed (p : Nat) : Bool := d.start.tilesOut.any fun x => x.1 == k && x.2.val == p
  let out (p : Nat) : Bool := failed p || (quarantined p && decide (2 ≤ times p))
  let bound (p : Nat) : Bool := (List.range 16).any fun t => bind t == p
  let d1 := d.modKiln k fun (x : Kiln) => { x with
    tiles := Vector.ofFn fun t => { phys := bind t.val, unbound := false },
    phys := Vector.ofFn fun p => { quarantined := times p.val, out := out p.val, spare := !out p.val && !bound p.val } }
  let ps := List.range 18
  let d2 := d1.each (ps.filter fun p => failed p && !quarantined p) fun p d => (d.noteRepair 3 k.val p (times p)).setEvent evRepair
  let d3 := d2.each (ps.filter fun p => quarantined p && !out p) fun p d => d.noteRepair 4 k.val p 0
  d3.tilesLost k ((List.finRange 16).filter fun t => out (bind t.val))

/-- S10: tiles and softmax stages (R210, R507). -/
def Dev.stepS10 (f : Findings) (d : Dev) : Dev :=
  let d1 := d.modStart fun s => { s with tilesOut := s.tilesOut ++ f.tilesFailed }
  d1.each ((List.finRange 12).filter fun k => !d.dieDown (kilnDie k)) fun k d =>
    let ok (p : Fin 8) : Bool := !f.softmaxFailed.contains (k, p)
    let e := (d.startTiles k).modKiln k fun (x : Kiln) => { x with stages := Vector.ofFn fun p => { ok := ok p } }
    (e.each (List.finRange 8) fun p d => d.stepUnit 10 (kilnDie k) p.val (ok p)).reformPipes k

/-- S09: rows that fail take spares; a tile with a row that finds none fails (R507, R513). Vector register files, and the reduction
memories. -/
def Dev.stepS09 (f : Findings) (d : Dev) : Dev :=
  let ok (die unit : Nat) : Bool := !f.vectorFailed.any fun x => x.1.val == die && x.2.val == unit
  let d0 := d.modStart fun s => { s with tilesOut := f.tilesFailed }
  let d1 := d0.each f.rowsFailed fun x d =>
    let r := sramRepair x.memory x.unit x.tile x.row
    if x.memory ≠ 0 then d.takeOrStay r
    else (d.takeSpare r 0 0).getD (d.modStart fun s => { s with tilesOut := s.tilesOut ++ [(Fin.ofNat 12 x.unit, Fin.ofNat 18 x.tile)] })
  let d2 : Dev := { d1 with
    kilns := Vector.ofFn fun k => { d1.kiln k with vec := Vector.ofFn fun u => { ok := !d.dieDown (kilnDie k) && ok k.val u.val } },
    wheels := Vector.ofFn fun w => { d1.wheel w with vec := { ok := !d.dieDown (wheelDie w) && ok (12 + w.val) 0 } },
    coll := { d1.coll with red := Vector.ofFn fun l => { d1.coll.red.get l with ok := !d.dieDown (lanternDie l) } } }
  let d3 := d2.each (List.finRange 12) fun k d => d.each (List.finRange 2) fun u d => d.stepUnit 9 (kilnDie k) (8 + u.val) (ok k.val u.val)
  d3.each (List.finRange 2) fun w d => d.stepUnit 9 (wheelDie w) 1 (ok (12 + w.val) 0)

/-- The value that the firing's defaults give a register, where they name it and leave its reserved bits clear. -/
def Dev.defaultFor (d : Dev) (i : Nat) (rsv : Word) : Option Word :=
  match Config.defaultOf (kindBytes d.activeBytes defaultsKind) i with
  | some v => if v &&& rsv = 0#32 then some v else none
  | none => none

/-- R224: the value of HUB_UNIFIED_CFG in force from this start: the host's, else the firing's, else the reset value (DEDUCED, log
41). -/
def Dev.unifiedFor (d : Dev) : Word :=
  match d.tier.cfgKept with
  | some v => v
  | none => (d.defaultFor 0 0xF00000C0#32).getD 0x01000000#32

/-- S11: bond lanes that fail take spares of their groups; the stacks that fail. -/
def Dev.stepS11 (f : Findings) (d : Dev) : Dev :=
  (d.modStart fun s => { s with stacksOut := f.stacksFailed }).each f.lanesFailed fun x d => d.takeOrStay (laneRepair x.1 x.2.1 x.2.2)

/-- R511: a slot of 2 MiB is retired: it is recorded, with whether it backs the window in a kiln's stack that gives it these last slots. -/
def Dev.noteRetired (stack slot : Nat) (backing : Bool) (d : Dev) : Dev :=
  let rs := if d.repair.retired.contains (stack, slot) then d.repair.retired else d.repair.retired ++ [(stack, slot)]
  let d1 : Dev := { d with repair := { d.repair with spareOutSeen := true, retired := rs } }
  (d1.noteRepair 9 (dieCode (dieIx (stack / 2))) stack (slot % 2 ^ 15 + at_ 15 (b2n backing))).setEvent evRepair

/-- S12: DRAM rows that fail take spares of their banks, or have their slots retired; the stacks that neither step S11 nor S12 failed. -/
def Dev.stepS12 (f : Findings) (d : Dev) : Dev :=
  let outs := d.start.stacksOut ++ f.stacksFailed
  let first := (48 - min 48 (field d.unifiedFor.toNat 5 0)) * 512
  let d0 := d.each f.dramFailed fun x d => (d.dramRepair x.stack x.row x.col x.upset).getD (d.noteRetired x.stack.val x.slot (decide (first ≤ x.slot)))
  let d1 := d0.modStart fun s => { s with stacksOut := outs }
  { d1 with kilns := Vector.ofFn fun k =>
    let up (i : Nat) : Bool := !d.dieDown (kilnDie k) && !outs.contains (Fin.ofNat 24 (2 * k.val + i))
    { d1.kiln k with stackOk := #v[up 0, up 1] } }

/-- S13: wheel firmware and the built-in tables. -/
def Dev.stepS13 (d : Dev) : Dev :=
  { d with
    wheels := Vector.ofFn fun w => { d.wheel w with ready := !d.dieDown (wheelDie w) },
    fn := { d.fn with builtinReady := true } }

/-- S14: the DDR5 population and its training (R238 to R240): the channels left that trained run at the common speed, or by the
alternate at a lower speed of the table. -/
def Dev.stepS14 (alternate : Bool) (f : Findings) (d : Dev) : Dev :=
  let x : CrockFound := if d.dieDown crockDie then {} else f.crock
  let down := if alternate then max 1 x.lowered else 0
  let first := x.channel (x.served.headD 0)
  match x.ladder with
  | [] => { d with tier := { d.tier with chOk := 0, dpc := 0, speed := 0, dimmCap := 0, channelGib := 0, mrdimm := false, fallback := false } }
  | v :: vs => { d with tier := { d.tier with
      chOk := BitVec.ofNat 12 (sumNat (x.served.map (2 ^ ·))) &&& ~~~x.failed,
      dpc := first.length, speed := (v :: vs).getD down (vs.getLastD v),
      dimmCap := ((first.map fun (y : Dimm) => y.gib).headD 0) / 16, channelGib := channelGib first,
      mrdimm := first.any fun (y : Dimm) => y.mrdimm, fallback := down != 0 && !vs.isEmpty } }

/-- S15: board memory reads as zeros; a skip leaves out the channels whose writing failed. -/
def Dev.stepS15 (skip : Bool) (f : Findings) (d : Dev) : Dev :=
  let t : TierPart := { d.tier with chOk := if skip then d.tier.chOk &&& ~~~f.crock.failed else d.tier.chOk }
  let n := t.capacityGib * gib
  { d with tier := t, mem := { (d.mem.clear crockBase n).unpoisonWhole crockBase n with channels := popcount 12 t.chOk.toNat, dead := [], deadWin := [] } }

/-- Slots that were retired while they backed the window (R511), of those that would back it now, as numbers counted stack by stack in turn. -/
def Dev.retiredBacking (inUse : List Nat) (share : Nat) (d : Dev) : List Nat :=
  let first := (48 - share) * 512
  let slots := d.repair.standing.filterMap fun r =>
    let slot := r.rep.detail % 2 ^ 15
    if r.rep.kind == 9 && bit r.rep.detail 15 && decide (first ≤ slot) then
      (inUse.findIdx? (· == r.rep.element)).map fun i => (slot - first) * inUse.length + i
    else none
  slots.foldl (fun l x => insertNat x l) []

/-- S16: the unified window (R224, R225); its alternate takes both shares as 0. -/
def Dev.stepS16 (alternate : Bool) (d : Dev) : Dev :=
  let v := d.unifiedFor
  let ss := if alternate then 0 else min 48 (field v.toNat 5 0)
  let cs := if alternate then 0 else min d.tier.capacityGib (field v.toNat 19 8)
  let inUse := (List.range 24).filter d.stackOk
  let out := d.retiredBacking inUse ss
  let su := ss * 512 * inUse.length - out.length
  let cu := cs * 512
  let rs := field v.toNat 27 20 * 512
  let units := su + cu - rs
  let r := d.choose (max 1 units)
  { r.2 with tier := { d.tier with
      unifiedCfg := v, cfgPending := false, stackShare := ss, crockShare := cs, stackUnits := su, crockUnits := cu,
      reserve := rs, units := units, placed := [], inStack := min (su - rs) units, stacksIn := inUse, retiredAt := out,
      retiredSince := [], turn := r.1, moves := [], rests := [] } }

/-- S17: codec cores and convolution engines. -/
def Dev.stepS17 (f : Findings) (d : Dev) : Dev :=
  let core (w : Fin 2) (i : Fin 4) : Bool := !d.dieDown (wheelDie w) && !f.codecsFailed.contains (w, i)
  let eng (w : Fin 2) : Bool := !d.dieDown (wheelDie w) && !f.enginesFailed.contains w
  let d1 : Dev := { d with wheels := Vector.ofFn fun w => { d.wheel w with codecOk := Vector.ofFn (core w), engine := { ok := eng w } } }
  d1.each (List.finRange 2) fun w d =>
    (d.each (List.finRange 4) fun i d => d.stepUnit 17 (wheelDie w) (2 + i.val) (core w i)).stepUnit 17 (wheelDie w) 0 (eng w)

/-- S20: the laser feeds (R315, R332). -/
def Dev.stepS20 (f : Findings) (d : Dev) : Dev :=
  let mask (b : Nat) (l : Fin 4) (xs : List (Fin 4 × Fin 18)) : BitVec 9 :=
    (List.range 9).foldl (fun (m : BitVec 9) k => if xs.any fun x => x.1 == l && x.2.val == b + k then m ||| BitVec.ofNat 9 (2 ^ k) else m) 0#9
  { d with fabric := { d.fabric with lasers := Vector.ofFn fun l =>
    let aF := mask 0 l f.feedsFailed
    let bF := mask 9 l f.feedsFailed
    { aOk := ~~~(aF ||| mask 0 l f.feedsLow), bOk := ~~~(bF ||| mask 9 l f.feedsLow), aFailed := aF, bFailed := bF,
      lowSeen := f.feedsLow.any fun x => x.1 == l, failSeen := f.feedsFailed.any fun x => x.1 == l } } }

/-- S21: the ports as trained (R327, R328). An engine that left service and passes is a spare again; what leaves service is recorded
(R515). -/
def Dev.stepS21 (f : Findings) (d : Dev) : Dev :=
  let code (l : Fin 4) : Nat := dieCode (lanternDie l)
  let was := (List.finRange 4).flatMap fun l => ((List.finRange 34).filter fun e => d.repair.standing.any fun r =>
    r.rep.kind == 11 && r.rep.unit == code l && r.rep.element == e.val + at_ 6 l.val).map fun e => (l, e)
  let new := f.enginesBad.filter fun x => !was.contains x
  let da := d.each new fun x d => (d.noteRepair 11 (code x.1) (x.2.val + at_ 6 x.1.val) 1).setEvent evRepair
  let db := da.each (was.filter fun x => !f.enginesBad.contains x) fun x d => d.noteRepair 11 (code x.1) (x.2.val + at_ 6 x.1.val) 0
  let dark (t : PortTrained) (w : Nat) : Bool := !t.good.getLsbD w && !d.repair.standing.any fun r =>
    r.rep.kind == 10 && r.rep.element == t.port.val && r.rep.detail == w
  let dc := db.each f.ports fun t d => d.each ((List.range 9).filter (dark t)) fun w d =>
    (d.noteRepair 10 (code (portLantern t.port)) t.port.val w).setEvent evRepair
  let d0 : Dev := { dc with fabric := { dc.fabric with
    engineOut := f.enginesBad.map fun x => (x.1.val, x.2.val), ports := Vector.ofFn fun p => { d.port p with engine := portPos p, state := psDark, lanes := 0#9 } } }
  d0.each (f.ports.filter fun t => !d.dieDown (lanternDie (portLantern t.port))) fun t d =>
    let n := popcount 9 t.good.toNat
    let lanes := if 8 ≤ n then lowestWaves t.good 8 else if 4 ≤ n then lowestWaves t.good 4 else 0#9
    d.modPort t.port fun x => { x with engine := t.engine, good := t.good, lanes := lanes, spareSeen := x.spareSeen || t.engine != portPos t.port,
                                       state := if 4 ≤ n then psTraining else psFailed }

/-- S22: the ports that authenticated (R345); without an identity every trained port fails. -/
def Dev.stepS22 (f : Findings) (d : Dev) : Dev :=
  d.each ((List.finRange 128).filter fun p => (d.port p).state == psTraining) fun p d =>
    if !d.start.identityOk then d.modPort p fun x => { x with state := psAuthFailed, authFailSeen := true }
    else if f.authOk.contains p then d.modPort p fun x => { x with state := if popcount 9 x.lanes.toNat = 4 then psHalf else psUp }
    else d

/-- S23: the defaults of the numerics and of the firing, stale copies rewritten, and the ledger written (R481, R489, R492). -/
def Dev.stepS23 (skip : Bool) (d : Dev) : Dev :=
  let w := (Config.numericsDefaults d.numerics).toNat
  let d1 : Dev := { d with num := NumPolicy.ofWords (field w 31 0) (field w 63 32) }
  let put (i : Nat) (rsv : Word) (f : Word → Dev → Dev) (d : Dev) : Dev := match d.defaultFor i rsv with
    | some v => f v d
    | none => if (Config.defaultOf (kindBytes d.activeBytes defaultsKind) i).isSome then d.protoError else d
  let d1 := put 0 0xF00000C0#32 (fun _ d => d) d1
  let d2 := put 1 0x000000F0#32 (fun v => Dev.modTime fun t => { t with cfg := v, state := if field v.toNat 1 0 = 0 then 0 else 1 }) d1
  let d3 := (put 2 0xFC000000#32 (fun v => Dev.modTime fun t => { t with rate := v }) d2).rateSettle
  let d4 := put 3 0xFF000000#32 (fun v d => { d with coll := { d.coll with gradCfg := v } }) d3
  let d5 := put 4 0xFFFFFFC0#32 (fun v d => { d with tier := { d.tier with prioMap := v } }) d4
  let d6 := d5.each (List.finRange 4) fun l d => put (5 + 8 * l.val) 0xFE000000#32 (fun v d => { d with fabric := { d.fabric with
    linkCfg := d.fabric.linkCfg.set l v,
    ports := Vector.ofFn fun p => if portLantern p = l then { d.port p with ber := field v.toNat 3 0 } else d.port p } }) d
  let d7 := put 6 0x0000FE0E#32 (fun v d => { d with tier := { d.tier with migCfg := v } }) d6
  let d8 := d7.each (List.finRange 12) fun k d => put (7 + 8 * k.val) 0xFFFF80E0#32 (fun v d =>
    let n := min 16 (field v.toNat 4 0)
    d.modKiln k fun (x : Kiln) => { x with shmem := { steps := n, inForce := n } }) d
  let bs := d8.activeBytes
  let d9 := match d8.start.active with | some a => if bs.isEmpty then d8 else d8.modFlash (Flash.setSlot a.slot { primary := bs, mirror := bs }) | none => d8
  if skip then (d9.sherdEvent shLedgerStale) else d9.ledgerFlush

/-- What a step leaves when it ends well, by its method. -/
def Dev.stepEffect (n : Nat) (m : Method) (f : Findings) (d : Dev) : Dev :=
  let skip := m == .skip
  let alt := m == .alternate || (m == .probe && !f.primaryOk)
  match n with
    | 2 => d.stepS02 skip f
    | 3 => d.stepS03 skip
    | 4 => if skip then d.recover else (if alt then d.previousFiring else d).takeRole
    | 5 => d.stepS05 f
    | 6 => d.stepS06 f
    | 8 => d.modStart fun s => { s with diesOut := f.diesFailed }
    | 9 => d.stepS09 f
    | 10 => d.stepS10 f
    | 11 => d.stepS11 f
    | 12 => d.stepS12 f
    | 13 => ((if alt then d.previousFiring.takeRole else d)).stepS13
    | 14 => d.stepS14 alt f
    | 15 => d.stepS15 skip f
    | 16 => d.stepS16 alt
    | 17 => d.stepS17 f
    | 18 => if skip then d.modTime fun t => { t with cfg := t.cfg &&& ~~~3#32 } else d
    | 19 => if skip then d else d.modPins fun p => { p with ethPhyRstN := true }
    | 20 => d.stepS20 f
    | 21 => d.stepS21 f
    | 22 => d.stepS22 f
    | 23 => d.stepS23 skip
    | _ => d

-- The sequence (R474 to R478)

def Dev.stepRecord (outcome method consec : Nat) (f : Findings) (d : Dev) : Dev :=
  d.modFlash (Flash.sherd { start := d.start.startNo, step := d.start.step, outcome := outcome, method := method, consec := consec,
                            detail := f.detail, unit := f.unit, time := d.startMs })
/-- A step begins. -/
def Dev.startStep (n : Nat) (d : Dev) : Dev := (d.modStart fun s => { s with step := n, state := 0 }).stepRecord 0 0 0 {}

/-- R474: a start begins, from a device that holds nothing but what `unpowered` keeps. -/
def Dev.startBegin (selfStarts : Nat) (d : Dev) : Dev :=
  let n := maxNat (d.start.flash.sherds.map (·.start)) + 1
  (d.modStart fun s => { flash := s.flash, selfStarts := selfStarts, startNo := n, beganUs := d.nowUs, started := true }).startStep 1

/-- R476: a failed step under a policy that is neither hold nor wait: the device will start itself again, at most 8 times. -/
def Dev.stepFailed (f : Findings) (d : Dev) : Dev :=
  let n := d.start.step
  let c := d.start.flash.failures n d.start.startNo + 1
  let alt := b2n (d.methodOf n == .alternate || d.methodOf n == .probe)
  match policyAt n c with
  | .hold => (d.stepRecord 5 alt c f).modStart fun s => { s with state := 2 }
  | .wait => (d.stepRecord 6 alt c f).modStart fun s => { s with state := 4 }
  | _ =>
    let d1 := d.stepRecord 3 alt c f
    if d.start.selfStarts < 8 then d1.modStart fun s => { s with selfStartDue := true } else d1.modStart fun s => { s with state := 2 }

/-- R475: with what a skip leaves too few of, or no hub, the device is held. -/
def Dev.mustHold (n : Nat) (m : Method) (f : Findings) (d : Dev) : Bool :=
  (n == 5 && m == .skip && decide ((d.stepS05 f).lampsLeft < 4)) ||
  (n == 6 && m == .skip && decide (popcount 16 (~~~f.stagesFailed).toNat < 8)) || (n == 8 && f.diesFailed.contains hubDie)

/-- A step ends well: its outcome, its effect, and the next step, ready, or recovery mode (R475, R494). -/
def Dev.stepPassed (m : Method) (f : Findings) (d : Dev) : Dev :=
  let n := d.start.step
  let alt := m == .alternate || (m == .probe && !f.primaryOk)
  let bitN := BitVec.ofNat 24 (2 ^ (n - 1))
  let d1 := (d.stepEffect n m f).modStart fun s =>
    { s with alternates := if alt then s.alternates ||| bitN else s.alternates, skips := if m == .skip then s.skips ||| bitN else s.skips }
  let d2 := d1.stepRecord (if m == .skip then 4 else if alt then 2 else 1) (b2n alt) 0 f
  if n = 24 then d2.modStart fun s => { s with state := 1 }
  else if d2.start.recovery && n = 8 then d2.modStart fun s => { s with state := 3 }
  else d2.startStep (if d2.start.recovery && n = 3 then 5 else n + 1)

/-- START_STEP_COMPLETE (R475): ok tells whether the step could complete by the method it ran. -/
def Dev.stepDone (ok : Bool) (f : Findings) (d : Dev) : Dev :=
  let s := d.start
  if !s.started || s.state != 0#3 || s.selfStartDue then d
  else
    let m := d.methodOf s.step
    if d.mustHold s.step m f then
      (d.stepRecord 5 (b2n (m == .alternate)) (s.flash.failures s.step s.startNo + 1) f).modStart fun s => { s with state := 2 }
    else if ok || m == .skip then d.stepPassed m f
    else d.stepFailed f

def execStartStepComplete (ok : Bool) (f : Findings) (s : State) : Out := .next (s.onDev (Dev.stepDone ok f))

/-- R461, R462: the coolant lets the start go on. -/
def coolantGood (inlet flow : Byte) : Bool := decide (inlet.toNat ≤ 100) && decide (30 ≤ flow.toNat)

/-- COOLANT_RECHECK (R475): step S07 tests again. -/
def Dev.coolantRecheck (inlet flow : Byte) (d : Dev) : Dev :=
  if d.start.state != 4#3 then d
  else
    let d1 := d.modPower fun p => { p with inlet := inlet, flow := flow }
    if coolantGood inlet flow then (d1.modStart fun s => { s with state := 0 }).stepPassed .primary {} else d1

def execCoolantRecheck (inlet flow : Byte) (s : State) : Out := .next (s.onDev (Dev.coolantRecheck inlet flow))

/-- SELF_START (R476). -/
def State.selfStart (s : State) : State :=
  if !s.dev.start.selfStartDue then s
  else
    let n := s.dev.start.selfStarts + 1
    let trip := s.dev.power.tripLast
    s.unpowered fun d => (d.startBegin n).modPower fun p => { p with tripLast := trip }

def execSelfStart (s : State) : Out := .next s.selfStart

-- PERST_N (R539, R540)

/-- PERST_N_ASSERT: low for a number of µs; a shorter pulse than 1 µs is ignored. -/
def State.perstLow (us : Nat) (s : State) : State :=
  if us = 0 then s
  else s.unpowered fun d =>
    (d.modPower fun p => { p with tripLatch := false }).modPins fun p => { p with perstN := false, thermTripN := true }

def execPerstNAssert (us : Nat) (s : State) : Out := .next (s.perstLow us)

/-- PERST_N_RELEASE: with the input in range a start begins; the straps are read (R548). -/
def State.perstHigh (straps : BitVec 2) (s : State) : State :=
  if s.dev.pins.perstN then s
  else
    s.onDev fun d =>
      let d1 := d.modPins fun p => { p with perstN := true, sbAddr := straps }
      if d.pins.input && d.pins.thermTripN then d1.startBegin 0 else d1

def execPerstNRelease (straps : BitVec 2) (s : State) : Out := .next (s.perstHigh straps)

end Sys2Proof.Machine
end

