-- ==== Sys2Proof/Machine/Repair.lean ====
section
/-! DEFINITION. Repair in service: scrubbing, lanes, elements that fail, lamplighters, mesh flits, the ledger (R17, R502 to R520). -/
namespace Sys2Proof.Machine

-- Scrubbing and row repair (R502, R505, R511)

/-- Memories by R520's WHERE that R515's SRAM_ROW names: die shared memory, map, hub, reduction. -/
def sramCode (where_ : Nat) : Nat := if where_ = 3 then 1 else if where_ = 4 then 2 else if where_ = 7 then 3 else 4
/-- The stack of a DA, and the slot of 2 MiB in it. -/
def Dev.slotOf (d : Dev) (a : Nat) : Nat × Nat :=
  ((d.stackOf a).getD 0,
   if windowBase ≤ a then (48 - d.tier.stackShare) * 512 + (d.tier.unit (unitOf a)).slot
   else a % 0x1000000000 / unitBytes)

/-- R511: a slot is retired; a unit in it moves to another slot. -/
def Dev.retireSlot (stack slot : Nat) (d : Dev) : Dev :=
  let first := (48 - d.tier.stackShare) * 512
  let d1 := d.noteRetired stack slot (decide (first ≤ slot))
  if first ≤ slot then d1.slotLost stack (slot - first) else d1

/-- R511, R513: the row of a word that reads wrong takes a spare; without one a DRAM row's slot is retired, an SRAM row stays in use. -/
def Dev.repairRow (r : ScrubRead) (d : Dev) : Dev :=
  if r.where_ = 2 then d
  else if r.where_ = 1 then
    let at_ := d.slotOf r.location
    (d.dramRepair (Fin.ofNat 24 at_.1) r.row r.col r.upset).getD (d.retireSlot at_.1 at_.2)
  else d.takeOrStay (sramRepair (sramCode r.where_) r.unit 0 r.row)

/-- A corrected word: counted, and repaired when an earlier pass corrected it too (R511). -/
def Dev.scrubCorrected (r : ScrubRead) (d : Dev) : Dev :=
  let key := (r.where_, r.unit, r.location)
  let d1 := if r.where_ = 2 then d.count crockDie 0x06 (d.channelOf r.location) 1
            else if r.where_ = 1 then d.count (d.dieOf r.location) 0x22 ((d.stackOf r.location).getD 0 % 2) 1
            else if r.where_ = 3 then d.count (d.dieOf r.location) 0x22 2 1 else d
  if d.repair.corrected.contains key then
    ({ d1 with repair := { d1.repair with corrected := d1.repair.corrected.filter (· != key) } } : Dev).repairRow r
  else { d1 with repair := { d1.repair with corrected := d1.repair.corrected ++ [key] } }

/-- An uncorrectable word: poisoned where it has a DA, logged, and its row repaired. -/
def Dev.scrubLost (r : ScrubRead) (d : Dev) : Dev :=
  let d1 := if r.where_ ≤ 4 then ({ d with mem := d.mem.setPoison r.location } : Dev).ueAt r.location false
            else (d.logUe r.location r.unit r.where_ false).setEvent evUncorrectable
  d1.repairRow r

/-- Does the scrubber run over a memory: not in ember, not where its period is 0 (R505, R506). -/
def Dev.scrubs (d : Dev) (where_ : Nat) : Bool :=
  d.running && (if where_ = 1 || where_ = 2 then field d.repair.scrubCfg.toNat 7 0 != 0 else field d.repair.scrubCfg.toNat 15 8 != 0) &&
  [1, 2, 3, 4, 6, 7].contains where_

/-- SCRUB_TICK (R505): the scrubber reads one codeword. -/
def Dev.scrub (r : ScrubRead) (d : Dev) : Dev :=
  let n := popcount 80 r.upset.toNat
  if !d.scrubs r.where_ || (decide (r.where_ ≤ 4) && (d.whereOf r.location != r.where_ || !d.daOk r.location 1)) then d
  else if decide (r.where_ ≤ 4) && d.mem.poisoned r.location then d.scrubLost r
  else if n = 0 then d
  else if n ≤ 2 then d.scrubCorrected r
  else if n = 3 then d.scrubLost r
  else
    let c := d.choose 3
    if c.1 = 0 then c.2.scrubLost r
    else if r.where_ ≤ 4 then
      let w := r.location / 8 * 8
      let v := if c.1 = 1 then c.2.mem.readNat w 8 ^^^ r.upset.toNat % 2 ^ 64 else (Config.freeWord c.2.freeCtr).toNat
      { c.2 with mem := c.2.mem.writeBytes w (leBytes 8 v), freeCtr := c.2.freeCtr + 1 }
    else c.2

def execScrubTick (r : ScrubRead) (s : State) : Out := .next (s.onDev (Dev.scrub r))

/-- LANE_REPAIR (R511): a lane carried the corrected bit in so many different codewords within 1 s. At 64 it takes a spare of its group, or,
without one, stays in use (R513). -/
def execLaneRepair (stack : Fin 24) (group lane codewords : Nat) (s : State) : Out :=
  .next (s.onDev fun d => if d.running && d.stackOk stack.val && decide (64 ≤ codewords) then d.takeOrStay (laneRepair stack group lane) else d)

-- Lamplighters (R512)

def Dev.setLamp (c : Fin 9) (l : Lamp) (d : Dev) : Dev := { d with repair := { d.repair with lamps := d.repair.lamps.set c l } }

/-- A command ends with ST_UNCORRECTABLE and the effects that a CANCEL would leave. -/
def Dev.endLost (id : Nat) (d : Dev) : Dev :=
  match d.cmd id with
  | none => d
  | some c =>
    if c.phase == .done then d
    else if c.pkt.opcode == 0x12#8 || c.pkt.opcode == 0x13#8 then
      if c.phase == .waiting then d.refuse id stUncorrectable
      else d.each (d.launchesOf id) fun l d => d.stopLaunch l.id stUncorrectable
    else
      let d1 := if c.pkt.opcode == 0x81#8 && c.phase == .waiting then d.commitStopped else d
      let d2 := d1.refuse id stUncorrectable
      if c.phase == .running || c.phase == .fence then (d2.cancelRunning c).getD d2 else d2

/-- R504: a media command that reads an uncorrectable word stops. -/
def Dev.mediaStruck (j : MediaJob) (d : Dev) : Dev := ((d.mediaUndo j j.decode).mediaEnd j stUncorrectable 0 0 0).mediaPump

/-- MESH_RETRY_EXHAUSTED (R17): the transfer's issuer has the uncorrectable error, with the effects of R504; the error is logged. The spec
states no LOCATION or UNIT for a flit, so both are free. A command stops as R413 says, as does a media frame; a host's write is lost; a
move goes on, with the word poisoned at its destination (R503). -/
def Dev.meshFailed (who : MeshIssuer) (d : Dev) : Dev :=
  let r := d.choose 20
  let loc := (Config.freeWord r.2.freeCtr).toNat % 2 ^ 48
  let d1 : Dev := { r.2 with freeCtr := r.2.freeCtr + 1 }
  let struck := d1.logUe loc (dieCode (dieIx r.1)) 9 true
  let free := (d1.logUe loc (dieCode (dieIx r.1)) 9 false).setEvent evUncorrectable
  match who with
  | .launch id => if (d.launchOf id).any Launch.alive then struck.stopLaunch id stUncorrectable else d
  | .command tag =>
    match d.tagHolder tag with
    | some c =>
      if c.phase == .done || c.phase == .refused then d
      else match d.media.jobs.find? fun j => j.owner == .cmd c.id with | some j => struck.mediaStruck j | none => struck.endLost c.id
    | none => d
  | .media id =>
    match d.mediaJob id with
    | some j => struck.mediaStruck j
    | none => d
  | .atomic => struck.emit (.atomicResult stUncorrectable none)
  | .hostRead => (free.emit (.aer .poisonedRead)).emit (.readData [] true)
  | .hostWrite | .scrubber => free
  | .move a => { free with mem := free.mem.setPoison a }

def execMeshRetryExhausted (who : MeshIssuer) (s : State) : Out := .next (s.act (Dev.meshFailed who))

/-- R512: with fewer than four cores the device is held, and every command in flight is over. -/
def Dev.lampsShort (d : Dev) : Dev :=
  if 4 ≤ d.lampsLeft then d
  else (d.each (d.link.cmds.map (·.id)) Dev.endLost).modStart fun s => { s with state := 2 }

/-- A core stops: the spare will take over, or, without one, its commands are over (R512, R515). -/
def Dev.lampStops (c : Fin 9) (d : Dev) : Dev :=
  let l := d.repair.lamps.get c
  if !l.ok then
    if l.spare then
      let d1 := ((d.setLamp c {}).noteRepair 14 (dieCode hubDie) c.val 0xFF).setEvent evRepair
      { d1 with repair := { d1.repair with spareOutSeen := true } }
    else d
  else
    let spare := (d.repair.lamps.get 8).spare && d.repair.takeover.isNone
    let d1 := d.setLamp c { ok := false, spare := false }
    let d2 := d1.noteRepair 14 (dieCode hubDie) c.val (if spare then 8 else 0xFF)
    if spare then ({ d2 with repair := { d2.repair with takeover := some c } } : Dev).lampsShort
    else
      let ids := (d2.link.cmds.filter fun x => x.core == c.val).map (·.id)
      let d3 : Dev := { d2.setEvent evRepair with repair := { d2.repair with spareOutSeen := true } }
      (d3.each ids Dev.endLost).lampsShort

/-- LAMPLIGHTER_WATCHDOG (R512): a core's watchdog expires, or its own state reads uncorrectable. -/
def execLamplighterWatchdog (c : Fin 9) (s : State) : Out := .next (s.act (Dev.lampStops c))

/-- LAMPLIGHTER_TAKEOVER (R512): the spare takes the stopped core's commands. One that the core was carrying out in a service step
ends with ST_UNCORRECTABLE; which, if any, is not fixed: a free choice among those that wait. -/
def Dev.takeover (d : Dev) : Dev :=
  match d.repair.takeover with
  | none => d
  | some c =>
    let mine := d.link.cmds.filter fun x => x.core == c.val && x.phase == .waiting && x.pkt.cls == 0#2
    let r := d.choose (mine.length + 1)
    let d1 := match r.1 with
      | 0 => r.2
      | i + 1 => match mine[i]? with | some x => r.2.endLost x.id | none => r.2
    let d2 : Dev := { d1 with
      repair := { d1.repair with takeover := none, lamps := d1.repair.lamps.set 8 { ok := true, spare := false } },
      link := { d1.link with cmds := d1.link.cmds.map fun x => if x.core == c.val then { x with core := 8 } else x } }
    (d2.setEvent evLamp).setEvent evRepair

def execLamplighterTakeover (s : State) : Out := .next (s.act Dev.takeover)

-- Elements that fail (R513)

/-- A physical tile is lost: a spare is bound to its logical tile, or that is UNBOUND (R211, R509). -/
def Dev.tileLost (k : Fin 12) (p : Fin 18) (d : Dev) : Dev :=
  let x := (d.kiln k).phys.get p
  if x.out then d
  else
    let d1 := (d.modPhys k p.val fun y => { y with out := true, spare := false }).noteRepair 3 k.val p.val x.quarantined
    let lost := (List.finRange 16).filter fun t => (d.tile k t).phys == p.val && !(d.tile k t).unbound
    (d1.setEvent evRepair).tilesLost k lost

/-- R328: an engine leaves service; a spare takes its position, or the port is FAILED. -/
def Dev.engineLost (l : Fin 4) (e : Fin 34) (d : Dev) : Dev :=
  if d.fabric.engineOut.contains (l.val, e.val) then d
  else
    match (List.finRange 128).find? fun p => portLantern p == l && (d.port p).engine == e.val && (d.port p).trained with
    | none =>
      (({ d with fabric := { d.fabric with engineOut := d.fabric.engineOut ++ [(l.val, e.val)] } } : Dev).noteRepair 11
        (dieCode (lanternDie l)) (e.val + at_ 6 l.val) 1).setEvent evRepair
    | some p =>
      match d.spareEngine l with
      | some n => d.swapEngine p n
      | none =>
        let d1 : Dev := { d with fabric := { d.fabric with engineOut := d.fabric.engineOut ++ [(l.val, e.val)] } }
        let d2 := ((d1.noteRepair 11 (dieCode (lanternDie l)) (e.val + at_ 6 l.val) 1).setEvent evRepair).portDown p psFailed
        d2.modPort p fun x => { x with lanes := 0#9 }

/-- Launches that a failed sequencer or controller strikes. -/
def Dev.strikeCrippled (d : Dev) : Dev :=
  d.each d.launches fun l d =>
    match d.imageOf l with
    | some im => if l.alive && l.phase != .waiting && d.crippled im l.entries then d.stopLaunch l.id stUncorrectable else d
    | none => d

/-- ELEMENT_FAILURE (R513): an element fails. -/
def Dev.elementFails (e : Element) (d : Dev) : Dev :=
  match e with
  | .tile k p => d.tileLost k p
  | .sramRow w unit row => d.takeOrStay (sramRepair (sramCode w) unit 0 row)
  | .dramRow s slot row => (d.dramRepair s row 0 0).getD (d.retireSlot s.val slot)
  | .bondLane s g lane => d.takeOrStay (laneRepair s g lane)
  | .wavelength p w => if (d.port p).trained then (d.noteWaves p (BitVec.ofNat 9 (2 ^ w.val))).loseWave p w else d
  | .engine l e => d.engineLost l e
  | .lamplighter c => d.lampStops c
  | .sequencer i =>
    let die := dieIx (if i.val < 12 then i.val else i.val + 4)
    let d1 : Dev := { d with repair := { d.repair with seqFailed := insertNat i.val d.repair.seqFailed } }
    (d1.unitOut die 15 513).strikeCrippled
  | .dramController s =>
    let d1 : Dev := { d with repair := { d.repair with stacksFailed := if d.repair.stacksFailed.contains s then d.repair.stacksFailed else d.repair.stacksFailed ++ [s] } }
    (d1.unitOut (dieIx (s.val / 2)) (16 + s.val % 2) 513).strikeCrippled
  | .codecCore w i =>
    let d1 := (d.modWheel w fun (x : Wheel) => { x with codecOk := x.codecOk.set i false }).unitOut (wheelDie w) (2 + i.val) 513
    match d1.media.jobs.find? fun j => j.started && j.cores.contains i.val && (d1.session j.session).any fun s => s.desc.wheel == w with
    | some j => d1.unitFails j
    | none => d1
  | .ddrChannel c =>
    if !d.tier.chOk.getLsbD c.val then d
    else
      let place := popcount 12 (d.tier.chOk.toNat % 2 ^ c.val)
      ({ d with mem := { d.mem with dead := insertNat place d.mem.dead } } : Dev).remap.unitOut crockDie c.val 513
  | .timeUnit => (d.unitOut hubDie 16 513).modStart fun s => { s with state := 2 }
  | .hostPort => (d.unitOut hubDie 17 513).modStart fun s => { s with state := 2 }

def execElementFailure (e : Element) (s : State) : Out :=
  .next (s.act fun d => if d.ready then Dev.portChanges (Dev.elementFails e) d else d)

-- Records and the log (R517, R520)

/-- LEDGER_RECORD_WRITE (R517): the oldest repair not yet recorded is written. -/
def execLedgerRecordWrite (s : State) : Out := .next (s.onDev fun d => if d.ready then d.ledgerPut else d)

/-- A write to HUB_UE_LOG (R520): 1 to VALID clears the whole register, 1 to MULTIPLE that bit. -/
def Dev.ueWrite (v : Nat) : Dev → Dev := Dev.hubWrite fun d =>
  if bit v 62 then d.protoError
  else
    let d1 := d.dropHold .ueLog
    if bit v 63 then { d1 with repair := { d1.repair with ue := {} } }
    else if bit v 61 then { d1 with repair := { d1.repair with ue := { d1.repair.ue with multiple := false } } }
    else d1

/-- UE_LOG_CLEAR (R520). -/
def execUeLogClear (s : State) : Out := .next (s.onDev (Dev.ueWrite (2 ^ 63)))

end Sys2Proof.Machine
end

