-- ==== Sys2Proof/Machine/Counters.lean ====
section
/-! DEFINITION. Counter blocks, bandwidth windows, debug mode and JTAG (R521 to R535, R549). -/
namespace Sys2Proof.Machine

-- Selections (R523, R524, R528)

/-- The kinds of dies that have an event list (R528). -/
inductive DieKind where
  | kiln | lantern | wheel | hub | crock
  deriving DecidableEq, Repr

def kindOf (d : DieIx) : DieKind :=
  if d.val < 12 then .kiln else if d.val < 16 then .lantern else if d.val < 18 then .wheel else if d.val = 18 then .hub else .crock

/-- R528: the first index and the number of indices of an event's FILTER; (0, 0) for an event that has none, none for a code not
in the list. 0x00 counts nothing and takes any filter. -/
def eventRange : DieKind → Nat → Option (Nat × Nat)
  | _, 0 => some (0, 1023)
  | .kiln, e =>
    if e ≤ 0x0B then some (0, 16)
    else if e ≤ 0x0E then some (0, 8)
    else if e = 0x10 || e = 0x11 || e = 0x20 || e = 0x21 then some (0, 2)
    else if e = 0x1A then some (1, 7)
    else if e = 0x22 || e = 0x23 then some (0, 3)
    else if [0x18, 0x19, 0x1B, 0x1C, 0x24, 0x25, 0x26, 0x28].contains e then some (0, 0)
    else none
  | .lantern, e =>
    if [0x01, 0x02, 0x03, 0x05, 0x06, 0x07, 0x0D].contains e then some (0, 32)
    else if e = 0x04 then some (0, 256)
    else if e = 0x08 || e = 0x09 || e = 0x0B then some (0, 0)
    else if e = 0x0A then some (1, 5)
    else if e = 0x0C then some (0, 4)
    else none
  | .wheel, e => if e ≤ 0x02 then some (0, 4) else if e ≤ 0x07 then some (0, 0) else none
  | .hub, e =>
    if e ≤ 0x02 then some (0, 64)
    else if e = 0x03 || e = 0x09 then some (0, 0)
    else if e ≤ 0x06 then some (0, 16)
    else if e ≤ 0x08 then some (0, 32)
    else none
  | .crock, e =>
    if e = 0x03 || e = 0x04 then some (0, 0)
    else if e = 0x05 then some (0, 8)
    else if e ≤ 0x07 then some (0, 12)
    else none

/-- R524: may a CTR_SELn value be written; its reserved bits are zero, its EVENT is in the list, its FILTER in range. -/
def selOk (k : DieKind) (v : Word) : Bool :=
  let x := v.toNat
  let f := field x 17 8
  field x 31 22 == 0 &&
  (match eventRange k (field x 7 0) with
   | none => false
   | some r => f == 0x3FF || (decide (r.1 ≤ f) && decide (f < r.1 + r.2)))

def Ctr.select (v : Word) (c : Ctr) : Ctr :=
  { c with event := v.extractLsb' 0 8, filter := v.extractLsb' 8 10, enable := v.getLsbD 18, chain := v.getLsbD 19,
           freeze := v.getLsbD 20, user := v.getLsbD 21 }

def Dev.modBlock (b : DieIx) (f : CtrBlock → CtrBlock) (d : Dev) : Dev :=
  { d with ctrs := { d.ctrs with blocks := vmod d.ctrs.blocks b f } }
def CtrBlock.modCtr (i : Fin 8) (f : Ctr → Ctr) (b : CtrBlock) : CtrBlock := { b with ctrs := vmod b.ctrs i f }

/-- A write to a register of a die's block: the hub's, which stays up in ember, or another die's (R469, R474). -/
def Dev.blockWrite (b : DieIx) (f : Dev → Dev) (d : Dev) : Dev := if b = hubDie then d.hubWrite f else d.dieWrite f

/-- CTR_SEL_WRITE (R523, R524, R526). -/
def Dev.selWrite (b : DieIx) (i : Fin 8) (v : Word) : Dev → Dev := Dev.blockWrite b fun d =>
  if selOk (kindOf b) v then d.modBlock b (CtrBlock.modCtr i (Ctr.select v)) else d.protoError
def execCtrSelWrite (b : DieIx) (i : Fin 8) (v : Word) (s : State) : Out := .next (s.onDev (Dev.selWrite b i v))

/-- COUNTERS_RESUME (R527): a 1 written to FROZEN. -/
def Dev.ctrResume (b : DieIx) : Dev → Dev := Dev.blockWrite b (Dev.modBlock b fun x => { x with frozen := false })
def execCountersResume (b : DieIx) (s : State) : Out := .next (s.onDev (Dev.ctrResume b))

/-- COUNTER_OVERFLOW (R526): a counter that stands at 2^48 − 1 counts once more. -/
def Dev.ctrOverflow (b : DieIx) (i : Fin 8) (d : Dev) : Dev :=
  let x := d.ctrs.blocks.get b
  let c := x.ctrs.get i
  if c.enable && !x.frozen && c.count == 0xFFFFFFFFFFFF#48 then d.modBlock b (CtrBlock.bump 2 i.val 1) else d
def execCounterOverflow (b : DieIx) (i : Fin 8) (s : State) : Out := .next (s.onDev (Dev.ctrOverflow b i))

-- Registers of a block (R522, R525, R527)

/-- CTRn. -/
def Ctr.word (c : Ctr) : Nat := c.count.toNat + at_ 63 (b2n c.ovf)
/-- CTR_SELn. -/
def Ctr.sel (c : Ctr) : Nat :=
  c.event.toNat + at_ 8 c.filter.toNat + at_ 18 (b2n c.enable) + at_ 19 (b2n c.chain) + at_ 20 (b2n c.freeze) + at_ 21 (b2n c.user)
/-- CTR_STATUS. -/
def CtrBlock.status (b : CtrBlock) : Nat :=
  sumNat ((indexed b.ctrs.toList).map fun p => at_ p.1 (b2n p.2.ovf)) + at_ 8 (b2n b.frozen)

-- COUNTER_CONFIG (R529)

/-- A snapshot record. -/
def CtrBlock.snapshot (b : CtrBlock) : List Byte :=
  leBytes 8 b.cycle.toNat ++ b.ctrs.toList.flatMap (fun c => leBytes 8 c.word) ++ leBytes 4 b.status ++ List.replicate 52 0#8

/-- The descriptor's ACTION, the dies of its mask, and whether what every action checks is right. -/
def counterAction (b : List Byte) : Nat := bytesAt b 0 0
def counterDies (b : List Byte) : List DieIx := (List.finRange 20).filter fun i => bit (bytesAt b 7 4) i.val
def counterHead (b : List Byte) : Bool :=
  decide (counterAction b ≤ 3) && bytesAt b 7 4 != 0 && decide (bytesAt b 7 4 < 2 ^ 20) && zeroAt b 63 16

/-- The value of CTR_SELn in a PROGRAM record. -/
def counterSel (b : List Byte) (die : DieIx) (i : Fin 8) : Word :=
  let a := 64 + 32 * die.val + 4 * i.val
  BitVec.ofNat 32 (bytesAt b (a + 3) a)

/-- Carry out a COUNTER_CONFIG: its 64 bytes are read and checked, and f does what the row's action does. A row leaves the commands
of the other actions to theirs; an unknown action is refused by the row of PROGRAM. -/
def Dev.counterCmd (action : Nat) (f : Cmd → Nat → List Byte → List DieIx → Dev → Dev) (c : Cmd) (d : Dev) : Dev :=
  let a := opDa c.pkt.o0
  d.fetchBytes c.id a 64 fun b d1 =>
    let act := counterAction b
    if act ≠ action && !(action = 0 && 3 < act) then d
    else if !counterHead b then d1.refuse c.id stCounterParam
    else f c a b (counterDies b) d1

/-- Each of the blocks named. -/
def Dev.modBlocks (dies : List DieIx) (f : DieIx → CtrBlock → CtrBlock) (d : Dev) : Dev := d.each dies fun i d => d.modBlock i (f i)

/-- PROGRAM. -/
def Dev.counterProgram (c : Cmd) (a : Nat) (_ : List Byte) (dies : List DieIx) (d : Dev) : Dev :=
  d.fetchBytes c.id a 704 fun b d =>
    if !(dies.all fun i => (List.finRange 8).all fun n => selOk (kindOf i) (counterSel b i n)) then d.refuse c.id stCounterParam
    else
      (d.modBlocks dies fun i x => (List.finRange 8).foldl (fun x n =>
        x.modCtr n fun q => { q.select (counterSel b i n) with count := 0 }) x).okCmd c.id 0 0 0
def execCounterProgram (tag : Tag) (s : State) : Out := .next (s.onDev (Dev.onCmd tag 0xB0 (Dev.counterCmd 0 Dev.counterProgram)))

/-- SNAPSHOT. -/
def Dev.counterSnapshot (c : Cmd) (_ : Nat) (b : List Byte) (dies : List DieIx) (d : Dev) : Dev :=
  let da := bytesAt b 15 10
  let bs := dies.flatMap fun i => (d.ctrs.blocks.get i).snapshot
  if !d.daOk da bs.length then d.refuse c.id stAddress
  else if da % 64 ≠ 0 then d.refuse c.id stAlignment
  else d.storeBytes c.id da bs fun d => d.okCmd c.id 0 0 0
def execCounterSnapshot (tag : Tag) (s : State) : Out := .next (s.onDev (Dev.onCmd tag 0xB0 (Dev.counterCmd 1 Dev.counterSnapshot)))

/-- STOP. -/
def Dev.counterStop (c : Cmd) (_ : Nat) (_ : List Byte) (dies : List DieIx) (d : Dev) : Dev :=
  (d.modBlocks dies fun _ x => { x with ctrs := x.ctrs.map fun (q : Ctr) => { q with enable := false } }).okCmd c.id 0 0 0
def execCounterStop (tag : Tag) (s : State) : Out := .next (s.onDev (Dev.onCmd tag 0xB0 (Dev.counterCmd 2 Dev.counterStop)))

/-- CLEAR. -/
def Dev.counterClear (c : Cmd) (_ : Nat) (_ : List Byte) (dies : List DieIx) (d : Dev) : Dev :=
  (d.modBlocks dies fun _ x => { x with ctrs := x.ctrs.map fun (q : Ctr) => { q with count := 0, ovf := false } }).okCmd c.id 0 0 0
def execCounterClear (tag : Tag) (s : State) : Out := .next (s.onDev (Dev.onCmd tag 0xB0 (Dev.counterCmd 3 Dev.counterClear)))

-- Bandwidth windows (R531)

/-- What a window carried, in 256 B units, latched; the next one starts at zero. -/
def BwMeter.close (m : BwMeter) : BwMeter :=
  { latchOut := BitVec.ofNat 32 (m.out / 256), latchIn := BitVec.ofNat 32 (m.inn / 256) }

/-- BW_WINDOW_CLOSE: the running window's length has passed; a length of 0 acts as 1. -/
def Dev.bwClose (d : Dev) : Dev :=
  if d.ctrs.bwLeft ≠ 0 then d
  else { d with ctrs := { d.ctrs with portBw := d.ctrs.portBw.map BwMeter.close, meshBw := d.ctrs.meshBw.map BwMeter.close,
                                      bwLeft := max 1 d.ctrs.bwCfg.toNat } }
def execBwWindowClose (s : State) : Out := .next (s.onDev Dev.bwClose)

-- DEBUG_CONTROL (R532 to R534)

/-- Carry out a DEBUG_CONTROL of one action. Outside debug mode every action but ENTER is denied, by its own row; an action that
R532 does not list is denied by the row of EXIT. -/
def Dev.debugCmd (action : Nat) (f : Cmd → List Byte → Dev → Dev) (c : Cmd) (d : Dev) : Dev :=
  d.fetchBytes c.id (opDa c.pkt.o0) 64 fun b d1 =>
    let act := bytesAt b 0 0
    if act ≠ action && !(action = 1 && 4 < act) then d
    else if act ≠ action || (action != 0 && !d1.ctrs.debugMode) then d1.refuse c.id stDebugDenied
    else f c b d1

/-- The kilns a descriptor names. -/
def debugKilns (b : List Byte) : List (Fin 12) := (List.finRange 12).filter fun k => bit (bytesAt b 3 2) k.val

/-- R532: the device is unowned, or its owner's policy sets DEBUG_ALLOWED; the owner is the one the selected firing names (R483). -/
def Dev.debugPermitted (d : Dev) : Bool :=
  match d.start.flash.selectedBytes with
  | some bs => unowned (firingOwner bs) || (activeOf 0 bs).debugAllowed
  | none => true

/-- ENTER. -/
def Dev.debugEnter (c : Cmd) (_ : List Byte) (d : Dev) : Dev :=
  if d.debugPermitted then
    ({ d with ctrs := { d.ctrs with debugMode := true, debugEntered := true } } : Dev).okCmd c.id 0 0 0
  else d.refuse c.id stDebugDenied
def execDebugEnter (tag : Tag) (s : State) : Out := .next (s.onDev (Dev.onCmd tag 0xB1 (Dev.debugCmd 0 Dev.debugEnter)))

/-- EXIT (R534). -/
def Dev.debugExit (c : Cmd) (_ : List Byte) (d : Dev) : Dev := d.debugEnd.okCmd c.id 0 0 0
def execDebugExit (tag : Tag) (s : State) : Out := .next (s.onDev (Dev.onCmd tag 0xB1 (Dev.debugCmd 1 Dev.debugExit)))

/-- R533: the kilns stop: those of their tiles that run nothing save their groups now, the others at their next boundary. -/
def Dev.haltKilns (ks : List (Fin 12)) (d : Dev) : Dev :=
  d.each ks fun k d => (d.modKiln k fun (x : Kiln) => { x with halted := true }).haltSave k
def Dev.continueKilns (ks : List (Fin 12)) (d : Dev) : Dev := d.each ks fun k d => d.modKiln k fun (x : Kiln) => { x with halted := false }

/-- R533: a candle stream is ARMED or DRAINING. -/
def Dev.streamRuns (d : Dev) : Bool := d.candle.streams.toList.any fun s => decide (2 ≤ s.state)

def Dev.debugHalt (c : Cmd) (b : List Byte) (d : Dev) : Dev :=
  if d.streamRuns then d.refuse c.id stCandleState else (d.haltKilns (debugKilns b)).okCmd c.id 0 0 0
def execHalt (tag : Tag) (s : State) : Out := .next (s.onDev (Dev.onCmd tag 0xB1 (Dev.debugCmd 2 Dev.debugHalt)))

def Dev.debugContinue (c : Cmd) (b : List Byte) (d : Dev) : Dev := (d.continueKilns (debugKilns b)).okCmd c.id 0 0 0
def execContinue (tag : Tag) (s : State) : Out := .next (s.onDev (Dev.onCmd tag 0xB1 (Dev.debugCmd 3 Dev.debugContinue)))

/-- The scratchpad that a DUMP reads: physical tile 0xFF, and a range of the first kiln named that lies in its scratchpad. -/
def Dev.dumpSource (b : List Byte) (d : Dev) : Option Nat :=
  let off := bytesAt b 11 8
  match debugKilns b with
  | k :: _ => if bytesAt b 4 4 = 0xFF && decide (off + bytesAt b 15 12 ≤ d.scratchDirect k.val) then some (scratchBase k.val + off) else none
  | [] => none

/-- DUMP. Scratchpad bytes are moved with their poison (R503); bytes is what the tile buffer, or the shared memory's cache, holds at the
descriptor's offset (log 105). -/
def Dev.debugDump (bytes : List Byte) (c : Cmd) (b : List Byte) (d : Dev) : Dev :=
  let da := bytesAt b 21 16
  let n := bytesAt b 15 12
  if bytes.length ≠ n then d
  else if !d.daOk da n then d.refuse c.id stAddress
  else
    match d.dumpSource b with
    | some src =>
      if d.mem.storeStruck da n then d.storeBytes c.id da bytes id
      else (({ d with mem := d.mem.move src da n } : Dev).heat da n).okCmd c.id 0 0 0
    | none => d.storeBytes c.id da bytes fun d => d.okCmd c.id 0 0 0
def execDump (tag : Tag) (bytes : List Byte) (s : State) : Out :=
  .next (s.onDev (Dev.onCmd tag 0xB1 (Dev.debugCmd 4 (Dev.debugDump bytes))))

-- JTAG (R533, R549)

/-- R549: EXTEST, CLAMP and HIGHZ take effect only while PERST_N is low, and act as BYPASS otherwise; the debug instructions do what
HALT and CONTINUE do, in debug mode. -/
def Dev.jtagRun (i : JtagInstr) (d : Dev) : Dev :=
  let inForce (i : JtagInstr) : Dev := d.modPins fun p => { p with jtag := i }
  let bypass : Dev := (inForce .bypass).emit (.jtag 0)
  let boundary (i : JtagInstr) : Dev := if d.pins.perstN then bypass else inForce i
  let kilns (m : BitVec 12) : List (Fin 12) := (List.finRange 12).filter fun k => m.getLsbD k.val
  match i with
  | .idcode => (inForce .idcode).emit (.jtag 0x1C2009CB)
  | .bypass => bypass
  | .samplePreload => inForce .samplePreload
  | .extest => boundary .extest
  | .clamp => boundary .clamp
  | .highz => boundary .highz
  | .debugHalt m => if d.ctrs.debugMode && !d.streamRuns then (inForce i).haltKilns (kilns m) else bypass
  | .debugContinue m => if d.ctrs.debugMode then (inForce i).continueKilns (kilns m) else bypass
def execJtagInstruction (i : JtagInstr) (s : State) : Out := .next (s.onDev (Dev.jtagRun i))

end Sys2Proof.Machine
end

