-- ==== Sys2Proof/Machine/UnitExec.lean ====
section
/-! DEFINITION. Executions of vector units and convolution engines, which run from dispatch to end in one event (R105 to R142, R199,
R301 to R309, R504, R528, R553). -/
namespace Sys2Proof.Machine

-- Vector kernels (R105 to R142, R199)

/-- Position (t, h, w) of a row of a channels-last map. -/
def mapPos (h w r : Nat) : Nat × Nat × Nat := (r / (h * w), r / w % h, r % w)

/-- R139, R140: one output row of a convolution: every channel of one position; ranges read come with it. -/
def Dev.convRow (d : Dev) (w : RowPlace) (o : VecOp) (n row : Nat) : List Word × List (Nat × Nat) :=
  let cp := o.conv
  let ext := [cp 15, cp 16, cp 17]
  let g := max 1 (cp 18)
  let p := mapPos (o.convOut 1) (o.convOut 2) row
  let tapAt (i o j : Nat) : Option Nat :=
    let x := o * cp (3 + i) + j * cp (6 + i)
    if cp (9 + i) ≤ x && x - cp (9 + i) < ext.getD i 0 then some (x - cp (9 + i)) else none
  let taps := (indexed ((List.range (cp 0)).flatMap fun a => (List.range (cp 1)).flatMap fun b => (List.range (cp 2)).map fun c => (a, b, c))).filterMap
    fun t =>
      match tapAt 0 p.1 t.2.1, tapAt 1 p.2.1 t.2.2.1, tapAt 2 p.2.2 t.2.2.2 with
      | some a, some b, some c => some (t.1, (a * ext.getD 1 0 + b) * ext.getD 2 0 + c)
      | _, _, _ => none
  let nw := cp 0 * cp 1 * cp 2 * g
  let ins := taps.map fun t => (t.1, d.scaledRow w o.src0 n t.2)
  let bias := if o.aux = noIx then [] else d.wordRow w o.aux n 0
  ((List.range n).map fun co =>
      let ws := d.scaledRow w o.src1 nw co
      convOut (bias.getD co 0#32) (ins.flatMap fun t => (List.range g).map fun ci =>
        (t.2.getD (co / g * g + ci) 0#32, ws.getD (t.1 * g + ci) 0#32)),
   taps.flatMap (fun t => d.bufRowRanges w o.src0 0 n n t.2) ++ (List.range n).flatMap fun co => d.bufRowRanges w o.src1 0 nw nw co)

/-- R137: a per-channel operand of GROUPNORM: its planned EXTENT0 words, again for each position of the group. -/
def Dev.channelRow (d : Dev) (w : RowPlace) (i n row : Nat) : List Word :=
  let p := max 1 (min n (match w.im.buf i with | some b => b.ext 0 | none => n))
  let ws := d.wordRow w i p row
  (List.range n).map fun j => ws.getD (j % p) 0#32

/-- R108 to R140, R199: one operation on one row, whose executions take part elements each (R218). -/
def Dev.vecRow (d : Dev) (w : RowPlace) (k : Kernel) (o : VecOp) (part row : Nat) : RowOut :=
  let n := w.e.n
  let ver := d.numerics
  let a := d.wordRow w o.src0 n row
  let single := bit k.flags 0
  let operand (i : Nat) (absent : Word) : List Word :=
    if i = noIx then List.replicate n absent else if o.op = 0x28 then d.channelRow w i n row else d.wordRow w i n row
  if o.op ≤ 0x12 then
    let b := operand o.src1 o.param
    let c := operand o.aux o.param
    { vals := (a.zip (b.zip c)).map fun x => (elementOp ver o.op o.flags o.param x.1 x.2.1 x.2.2).getD qnan }
  else if o.op = 0x13 then { vals := [rsum a] }
  else if o.op = 0x14 then { vals := [rsumsq a] }
  else if o.op = 0x15 then { vals := [rmax a] }
  else if o.op = 0x16 then { vals := [rmin a] }
  else if o.op ≤ 0x22 then { vals := a.map (builtinFn ver o.op) }
  else if o.op = 0x23 then
    if o.fnSlot < 8 then { vals := a.map (builtinFn ver (0x1D + o.fnSlot)) }
    else
      match (d.fnSlot (Fin.ofNat 8 o.fnSlot)).table with
      | some t => { vals := a.map (segFn t) }
      | none => { vals := a.map fun _ => qnan }
  else if o.op = 0x24 then
    let mask := if o.maskIx = noIx then a else (a.zip (d.wordRow w o.maskIx n row)).map fun x => fadd x.1 x.2
    softmaxRow ver n (mask.take w.e.k)
  else if o.op = 0x25 then
    let s := splitStats single part a
    { vals := [s.mu, s.v], clamps := s.clamps }
  else if o.op = 0x27 then rmsNorm ver o.param a (operand o.src1 one32)
  else if o.op ≤ 0x28 then layerNorm ver (splitStats single part a) o.param a (operand o.src1 one32) (operand o.aux 0#32)
  else
    let ys := (d.convRow w o n row).1
    match w.im.buf o.dst with
    | some b => { vals := if b.tscale = 0#32 then ys else ys.map fun y => fdiv y b.tscale }
    | none => { vals := ys }

/-- The ranges one operation reads of elements c0 to c0 + m − 1 of a row; SOFTMAX reads a row beyond 65,536 elements for each of its
three passes (R131). -/
def Dev.vecReads (d : Dev) (w : RowPlace) (o : VecOp) (c0 m row : Nat) : List (Nat × Nat) :=
  let n := w.e.n
  let one (i : Nat) : List (Nat × Nat) := if i = noIx then [] else d.bufRowRanges w i c0 m n row
  if 0x29 ≤ o.op then (d.convRow w o n row).2
  else
    let rs := one o.src0 ++ (if o.usesSrc1 then one o.src1 else []) ++ (if o.usesAux then one o.aux else [])
    if o.op = 0x24 && decide (65536 < n) then rs ++ rs ++ rs else rs

/-- R129, R138: the writable buffer that takes an operation's row-status stream (0) or statistics (1), if any. -/
def streamBuf (l : Launch) (im : Image) (kernel ix stream : Nat) : Option Nat :=
  let i := Config.streamBuf l.handle kernel ix stream
  match im.buf i with
  | some b => if b.kind == 1 || b.kind == 3 then some i else none
  | none => none

/-- R129, R138: what a row leaves in those streams: its status byte, and its statistics in FP32, each in row order within the
stream's planned extents (R554). -/
def RowOut.streams (x : RowOut) (l : Launch) (w : RowPlace) (kernel ix : Nat) (o : VecOp) (row : Nat) : List OutBytes :=
  if !(o.op == 0x24 || o.op == 0x26 || o.op == 0x27 || o.op == 0x28) then []
  else
    let put (stream : Nat) (bytes : List Byte) (vals : List FV) : List OutBytes :=
      match (streamBuf l w.im kernel ix stream).bind fun i => (w.im.buf i).map fun b => (i, b) with
      | some (i, b) =>
        if row < b.ext 1 && decide (bytes.length ≤ b.row0 (b.ext 0)) then
          [OutBytes.of (b.elemDa (w.im.baseOf i w.e) 0 row w.d2 w.head) bytes vals]
        else []
      | none => []
    put 0 [BitVec.ofNat 8 x.status] [] ++ put 1 (x.stats.flatMap fun y => leBytes 4 y.toNat) (x.stats.map toV)

/-- R37: vector units convert gradients with one tile number of their own, for every unit gives the same bits (R106). -/
def Dev.vecWriter (l : Launch) (pol : NumPolicy) (d : Dev) : WriteCtx := d.writer pol l.seed Config.vectorTile

/-- One operation on the rows of an execution: reads, then writes, and the counts of R110; none where a read meets a poisoned word.
span is the execution's elements of each row. -/
def Dev.vecStep (l : Launch) (pol : NumPolicy) (w : RowPlace) (kernel : Nat) (k : Kernel) (part : Nat) (span : Nat × Nat) (ix : Nat)
    (o : VecOp) (rows : List Nat) (d : Dev) : Except Nat Dev :=
  match d.mem.struckIn (rows.flatMap (d.vecReads w o 0 w.e.n)) with
  | some a => .error a
  | none =>
    let outs := rows.map fun r => (r, d.vecRow w k o part r)
    let wr := outs.map fun x => d.rowOut (d.vecWriter l pol) w o.dst 0 x.1 (x.1 * x.2.vals.length) x.2.vals
    let st := outs.flatMap fun x => x.2.streams l w kernel ix o x.1
    let d1 := ((d.readOut true (rows.flatMap (d.vecReads w o span.1 span.2))).each wr fun x d => d.putResults true l.id x).storeOut true st
    let all_ := (wr.flatMap (·.1)) ++ st
    .ok (d1.modLaunch l.id fun y => { y with nanResults := y.nanResults + sumNat (all_.map (·.nans)),
                                             infResults := y.infResults + sumNat (all_.map (·.infs)),
                                             clamps := y.clamps + sumNat (outs.map fun x => x.2.clamps) })

/-- The operations of a kernel in order, numbered from ix. -/
def Dev.vecSteps (l : Launch) (pol : NumPolicy) (w : RowPlace) (kernel : Nat) (k : Kernel) (part : Nat) (span : Nat × Nat)
    (rows : List Nat) : Nat → List VecOp → Dev → Except Nat Dev
  | _, [], d => .ok d
  | ix, o :: os, d =>
    match d.vecStep l pol w kernel k part span ix o rows with
    | .ok d1 => Dev.vecSteps l pol w kernel k part span rows (ix + 1) os d1
    | .error a => .error a

/-- An execution that takes part of a row and is not its last reads its elements; the row's results are written by its last part
(R218, log 127). -/
def Dev.vecPart (w : RowPlace) (span : Nat × Nat) (row : Nat) (os : List VecOp) (d : Dev) : Except Nat Dev :=
  let rs := os.flatMap fun o => d.vecReads w o span.1 span.2 row
  match d.mem.struckIn rs with
  | some a => .error a
  | none => .ok (d.readOut true rs)

/-- Change a vector unit: dies 0 to 11 kilns, 12 and 13 wheels. -/
def Dev.modVec (die : Fin 14) (unit : Fin 2) (f : UnitSt → UnitSt) (d : Dev) : Dev :=
  if h : die.val < 12 then d.modKiln ⟨die.val, h⟩ fun (x : Kiln) => { x with vec := vmod x.vec unit f }
  else d.modWheel (Fin.ofNat 2 (die.val - 12)) fun (x : Wheel) => { x with vec := f x.vec }

/-- VECTOR_EXECUTION_END (R110, R199, R204, R218, R504): a group of up to 256 rows, or a part of a long row. regFails counts
uncorrectable register-file errors: the first repeats the execution, a second ends the launch. -/
def Dev.vecEnd (die : Fin 14) (unit : Fin 2) (launch ix regFails : Nat) (d : Dev) : Dev :=
  match d.mayRun launch (.vec die.val unit.val) with
  | none => d
  | some (l, im) =>
    let halted := match d.kilns[die.val]? with | some k => k.halted | none => false
    match (d.workAt l im (.vec die.val unit.val)).head? with
    | none => d
    | some (i, x) =>
      match im.kernelOf x, l.entries[x.entry]?, d.gate l (im.layerOf x) with
      | some k, some e, some dg =>
        if i ≠ ix || halted then d
        else
          let d0 := (dg.takePolicy launch).each (List.range (min 2 regFails)) fun _ d =>
            (d.logUe 0 (dieCode (if die.val < 12 then dieIx die.val else dieIx (die.val + 4))) 8 (decide (2 ≤ regFails))).vecEvent die unit
          if 2 ≤ regFails then d0.stopLaunch launch stUncorrectable
          else
            let pol := l.policy.getD d.num
            let s := im.vecSpan k e.m e.n e.k x.pos
            let rows := (List.range s.2.1).map (· + s.1)
            let w := placeOf im k e x.head
            let span := (s.2.2.1, s.2.2.2)
            let early := decide (x.pos.2.1 + 1 < x.pos.2.2)
            match if early then d0.vecPart w span s.1 (im.opsOf k)
                  else d0.vecSteps l pol w x.kernel k (im.rowPart k e.n e.k) span rows 0 (im.opsOf k) with
            | .error a => d0.launchStruck launch a
            | .ok d1 =>
              let nans := (match d1.launchOf launch with | some y => y.nanResults | none => 0) - l.nanResults
              let d2 := if die.val < 12 then
                  (d1.count (dieIx die.val) 0x11 unit.val nans).count (dieIx die.val) 0x10 unit.val (im.vecExecTime k e.m e.n e.k x.pos)
                else d1
              let last := match (im.opsOf k).getLast?, rows.getLast? with
                | some o, some r => d1.wordRow w o.src0 e.n r
                | _, _ => []
              (d2.modVec die unit fun u => { u with file := fileOf last u.file }).execDone launch { ix := ix } x.kernel
      | _, _, _ => d

def execVectorExecutionEnd (die : Fin 14) (unit : Fin 2) (launch ix regFails : Nat) (s : State) : Out :=
  .next (s.onDev (Dev.vecEnd die unit launch ix regFails))

-- Pixel kernels (R301 to R308)

/-- One output position of a convolution: every output channel. -/
def Dev.pixelRow (d : Dev) (im : Image) (k : Kernel) (e : Entry) (p : PixelRec) (pos : Nat × Nat × Nat) : List Word :=
  match im.buf k.bufA, im.buf k.bufB with
  | some a, some b =>
    let R := termWidth a.fmt b.fmt
    let cg := p.cIn / p.groups
    let og := p.cOut / p.groups
    let base := im.baseOf k.bufA e
    let wbase := im.baseOf k.bufB e
    let val (b : Buf) (da : Nat) : FV := b.fmt.elem.decode (d.mem.readNat da b.fmt.elemBytes)
    let sc := closeScale a.tscale b.tscale
    (List.range p.cOut).map fun co =>
      let g := co / max 1 og
      let passes := (p.passes R).map fun ts => ts.filterMap fun t =>
        match p.t.source p.padMode e.m pos.1 t.1.1, p.h.source p.padMode (a.ext 2) pos.2.1 t.1.2.1, p.w.source p.padMode (a.ext 1) pos.2.2 t.1.2.2 with
        | some ti, some hi, some wi =>
          some (mulV (val a (a.elemDa base (g * cg + t.2) wi hi ti)) (val b (b.elemDa wbase t.2 t.1.2.2 t.1.2.1 (co * p.t.k + t.1.1))))
        | _, _, _ => none
      let bias : Word := match im.buf k.bufAux with
        | some x => ofV (x.fmt.elem.decode (d.mem.readNat (x.elemDa (im.baseOf k.bufAux e) co 0 0 0) x.fmt.elemBytes))
        | none => 0#32
      pixelElement passes sc bias
  | _, _ => []

/-- R307: input rows and frames that positions touch, across the full width: what the line buffers take. -/
def Image.pixelLines (im : Image) (k : Kernel) (e : Entry) (p : PixelRec) (ps : List (Nat × Nat × Nat)) : List (Nat × Nat) :=
  match im.buf k.bufA with
  | some a =>
    let touched (ax : ConvAxis) (i : Nat) (os : List Nat) : List Nat :=
      let xs := os.flatMap fun o => (List.range ax.k).filterMap fun j => ax.source p.padMode i o j
      (List.range i).filter fun x => xs.contains x
    let base := im.baseOf k.bufA e
    (touched p.t e.m (ps.map (·.1))).flatMap fun t => (touched p.h (a.ext 2) (ps.map (·.2.1))).flatMap fun h =>
      (List.range (a.ext 1)).map fun w => (a.elemDa base 0 w h t, a.row0 p.cIn)
  | none => []
/-- What an execution reads: those rows, the weights and the bias. -/
def Image.pixelRanges (im : Image) (k : Kernel) (e : Entry) (p : PixelRec) (ps : List (Nat × Nat × Nat)) : List (Nat × Nat) :=
  let whole (i : Nat) : List (Nat × Nat) := match im.buf i with | some x => x.ranges (im.baseOf i e) x.exts | none => []
  im.pixelLines k e p ps ++ whole k.bufB ++ whole k.bufAux

/-- R307: what the 8 MiB of line buffers hold once an execution has read its rows: of a region that is larger the bytes read last
(DESIGN CHOICE, log 124). -/
def lineBytes (bs : List Byte) : List Byte := bs.drop (bs.length - 0x800000)

/-- PIXEL_EXECUTION_END (R304 to R307): EXEC_POS output positions, or a repeat after a residue failure. -/
def Dev.pixelEnd (w : Fin 2) (launch ix : Nat) (residueFail : Bool) (d : Dev) : Dev :=
  match d.mayRun launch (.engine w.val) with
  | none => d
  | some (l, im) =>
    match (d.workAt l im (.engine w.val)).head? with
    | none => d
    | some (i, x) =>
      match (im.kernelOf x).bind fun k => (im.pixel k).map fun p => (k, p), l.entries[x.entry]?, d.gate l (im.layerOf x) with
      | some (k, p), some e, some dg =>
        if i ≠ ix || !(d.wheel w).engine.ok then d
        else
          let d0 := dg.takePolicy launch
          if residueFail then (d0.modWheel w fun (y : Wheel) => { y with residueSeen := true }).engineEvent w
          else
            let o := im.pixelOut k e.m
            let lo := x.pos.1 * p.execPos
            let hi := min (lo + p.execPos) (o.1 * o.2.1 * o.2.2)
            let ps := (List.range (hi - lo)).map fun q => mapPos o.2.1 o.2.2 (lo + q)
            let rs := im.pixelRanges k e p ps
            match d.mem.struckIn rs with
            | some a => d0.launchStruck launch a
            | none =>
              let pol := l.policy.getD d.num
              let wc := d.vecWriter l pol
              let outs := ps.map fun q => (q, d.pixelRow im k e p q)
              let wr := outs.map fun q =>
                d.rowOut wc { im := im, e := e, layer := k.layer, head := q.1.1, d2 := q.1.2.1 } k.bufOut 0 q.1.2.2 0 q.2
              let d1 := (d0.readOut false rs).each wr fun x d => d.putResults false launch x
              let count (f : OutBytes → Nat) : Nat := sumNat (wr.map fun x => sumNat (x.1.map f))
              let far (b : Option Buf) : Bool := match b with | some y => !(y.level == 3 && y.home == w.val) | none => false
              let cost := match im.buf k.bufA, im.buf k.bufB with | some a, some b => p.costPer (termWidth a.fmt b.fmt) | _, _ => 0
              let d2 := d1.modLaunch launch fun y => { y with nanResults := y.nanResults + count (·.nans), infResults := y.infResults + count (·.infs) }
              let d3 := ((d2.count (wheelDie w) 0x04 0 ((hi - lo) * cost)).count (wheelDie w) 0x05 0
                (im.pixelTime k w.val e.m lo (hi - 1))).count (wheelDie w) 0x06 0
                (if far (im.buf k.bufA) then cdiv (sumNat (rs.map (·.2))) 256 else 0)
              let d4 := d3.count (wheelDie w) 0x07 0
                (if far (im.buf k.bufOut) then cdiv (sumNat (outs.map fun q => match im.buf k.bufOut with | some y => y.row0 q.2.length | none => 0)) 256 else 0)
              let held := lineBytes ((im.pixelLines k e p ps).flatMap fun r => d.mem.readBytes r.1 r.2)
              (d4.modWheel w fun (y : Wheel) => { y with stripSeen := y.stripSeen || (im.pixelReads k e.m lo (hi - 1)).2, lines := held }).execDone
                launch { ix := ix } x.kernel
      | _, _, _ => d

def execPixelExecutionEnd (w : Fin 2) (launch ix : Nat) (residueFail : Bool) (s : State) : Out :=
  .next (s.onDev (Dev.pixelEnd w launch ix residueFail))

-- The debug view (R102 to R104)

/-- A write of KLN_SACC_SEL (R102, R104); outside debug mode it is ignored, and a reserved bit discards it (R3). -/
def Dev.saccWrite (k : Fin 12) (v : Word) : Dev → Dev := Dev.dieWrite fun d =>
  if v &&& 0xFE008080#32 ≠ 0#32 then d.protoError
  else if !d.ctrs.debugMode then d
  else
    let x := v.toNat
    let runs := (d.tile k (Fin.ofNat 16 (field x 3 0))).running.isSome
    d.modKiln k fun (y : Kiln) => { y with sacc :=
      { y.sacc with tile := field x 3 0, group := field x 6 4, row := field x 14 8, column := field x 23 16,
                    pending := y.sacc.pending || bit x 24, mid := (y.sacc.pending || bit x 24) && runs,
                    valid := y.sacc.valid && !bit x 24 } }

/-- SACC_CAPTURE (R102, R104): a write that has CAPTURE set. -/
def execSaccCapture (k : Fin 12) (v : Word) (s : State) : Out := .next (s.onDev (Dev.saccWrite k (v ||| 0x01000000#32)))

end Sys2Proof.Machine
end

