-- ==== Sys2Proof/Machine/Registers.lean ====
section
/-! DEFINITION. BAR0: what every register reads as, what a write does, halves of 8-byte registers, accesses that are no
register's, and QUERY (R2 to R4, R386 to R389, R405, R423, R469, R474, R530). -/
namespace Sys2Proof.Machine

/-- Bits of a word, each as 0 or 1, from bit 0 up. -/
def bitsOf (bs : List Bool) : Nat := sumNat ((indexed bs).map fun p => at_ p.1 (b2n p.2))

-- Where registers live

/-- A register of the hub, which stays up in ember. -/
def Reg.onHub : Reg → Bool
  | .dieStatus _ | .troubleStatus _ | .tileStatus _ _ | .saccSel _ | .saccData _ | .attnStatus _ | .shmemPart _
  | .crkMemStatus | .migCfg | .migStatus | .slipStatus _ | .whlStatus _ | .portStatus _ _ | .portPeer _ _ | .linkCfg _
  | .laserStatus _ | .redStatus _ | .portBw _ _ => false
  | .ctrCycle d | .ctrStatus d | .ctrSel d _ | .ctr d _ | .meshBw d => d == hubDie
  | _ => true

/-- The reserved bits of each register. -/
def Reg.rsv : Reg → Nat
  | .eventStatus | .eventEnable => 0xFFFFFF00
  | .bar2Map => 0xFFFC0000
  | .sqBase _ | .cqBase _ => 0xFFF
  | .sqCfg _ => sqRsv.toNat
  | .cqCfg _ => cqRsv.toNat
  | .sqHead _ => 0xFFFF0000
  | .msixEntry _ w => if w = 0 then 3 else if w = 3 then 0xFFFFFFFE else 0
  | .dieStatus _ => 0xFF00C080
  | .numPolicy => 0xFFFF00E0
  | .troubleLimits => 0xFF000000
  | .troubleStatus _ => 0xFFFF0080
  | .tileStatus _ _ => 0x00E00000
  | .saccSel _ => 0xFE008080
  | .saccData _ => 0x80000000
  | .fnSlotStatus => 0x00800000
  | .attnStatus _ => 0xFFFFC000
  | .poolStatus _ => 0x80000000
  | .progStatus => 0x0000FC00
  | .unifiedCfg => 0xF00000C0
  | .unifiedStatus => 0xFF800000
  | .shmemPart _ => 0xFFFF80E0
  | .prioMap => 0xFFFFFFC0
  | .crkMemStatus | .migStatus | .slipStatus _ | .gradCfg | .collStatus | .redStatus _ => 0xFF000000
  | .migCfg => 0x0000FE0E
  | .whlStatus _ => 0xFFFE0000
  | .mediaStatus => 0xFF80F800
  | .portStatus _ _ => 0xFF800008
  | .portPeer _ _ => 0xFF800000
  | .linkCfg _ => 0xFE000000
  | .laserStatus _ | .fabricStatus => 0xFFF00000
  | .timeCfg => 0x000000F0
  | .timeRate => 0xFC000000
  | .timeNow => 0xFFFF000000000000
  | .timeStatus => 0x0000FF00
  | .schedStatus => 0xFFFFE0C0
  | .pwrStatus => 0x00008000
  | .coolantStatus => 0xF0000000
  | .firingStatus => 0xFC000000
  | .scrubCfg => 0xFFFF0000
  | .repairStatus => 0xFFF80000
  | .ueLog => 0x4000000000000000
  | .ctrStatus _ => 0xFFFFFE00
  | .ctrSel _ _ => 0xFFC00000
  | .ctr _ _ => 0x7FFF000000000000
  | .ctrGrant => 0xFFF00000
  | .bwCfg => 0xFFFF0000
  | .debugStatus => 0xFFFF8000
  | _ => 0

-- What registers hold

/-- HUB_START_STATUS (R479). -/
def Dev.startWord (d : Dev) : Nat :=
  let s := d.start
  at_ 0 s.step + at_ 5 s.state.toNat + at_ 8 s.selfStarts + at_ 12 (b2n s.identityOk) + at_ 13 (b2n (s.alternates != 0#24)) +
  at_ 14 (b2n (s.skips != 0#24)) + at_ 15 (b2n s.fallback) + at_ 16 (s.startNo % 65536)

/-- KLN_TILE_STATUS (R101). -/
def TileSt.word (t : TileSt) : Nat :=
  let groups := bitsOf ((List.range 8).map fun g => t.groups.any fun x => x.num == g)
  at_ 0 (if t.unbound then 0 else t.phys) + at_ 5 (b2n t.unbound) + at_ 8 groups + at_ 24 t.residueFails +
  (match t.running with
   | some r => at_ 6 1 + at_ 7 (b2n r.repeating) + at_ 16 r.fmtCode + at_ 19 r.promote
   | none => 0)

/-- WHL_STATUS (R310). The reserved cores are those that REALTIME sessions hold (log 145). An engine's execution is one step, so
ENGINE_BUSY reads 0 between commands. -/
def Dev.wheelWord (d : Dev) (w : Fin 2) : Nat :=
  let x := d.wheel w
  let held := d.reservedOn w
  bitsOf x.codecOk.toList + at_ 4 (bitsOf ((List.range 4).map held.contains)) +
  at_ 8 (bitsOf ((List.range 4).map (d.coresBusy w).contains)) + at_ 12 (b2n x.engine.ok) +
  at_ 14 (b2n x.stripSeen) + at_ 15 (b2n x.residueSeen) + at_ 16 (b2n x.singleSeen)

/-- HUB_POOLn_STATUS (R193). -/
def PoolSlot.word (p : PoolSlot) : Nat :=
  (match p.pool with
   | some q => q.frames - q.refs.length + at_ 28 1 + at_ 29 (b2n q.pinned)
   | none => 0) + at_ 30 (b2n p.emptySeen)

/-- LTN_PORTnn_STATUS and _PEER (R329, R330). -/
def Port.statusWord (p : Port) : Nat :=
  p.state.toNat + at_ 4 p.engine + at_ 10 p.lanes.toNat + at_ 19 (b2n p.retrainSeen) + at_ 20 (b2n p.spareSeen) +
  at_ 21 (b2n p.authFailSeen) + at_ 22 (b2n p.replaySeen)
def Port.peerWord (p : Port) : Nat :=
  p.peerNode.toNat + at_ 14 (b2n p.peerValid) + at_ 15 p.peerLantern.toNat + at_ 17 p.peerPosition.toNat + at_ 22 (b2n p.peerSeen)

/-- HUB_PWR_STATUS (R458). -/
def Dev.powerWord (d : Dev) : Nat :=
  let p := d.power
  p.state.toNat + at_ 2 (b2n p.shmemRetained) + at_ 3 p.wakeSource.toNat +
  at_ 5 (minNat 33 ((List.finRange 12).map d.kilnClock)) + at_ 11 (b2n (p.cap.toList.any fun c => decide (c < 33))) +
  at_ 12 (b2n p.capUnmetSeen) + at_ 13 (b2n p.fastLimitSeen) + at_ 14 (b2n p.boardMemLost) + at_ 16 p.inputW.toNat

/-- HUB_COOLANT_STATUS (R463). -/
def PowerPart.coolantWord (p : PowerPart) : Nat :=
  p.inlet.toNat + at_ 8 p.outlet.toNat + at_ 16 p.flow.toNat + at_ 24 (b2n p.flowReported) + at_ 25 (b2n p.warnSeen) +
  at_ 26 (b2n p.throttleSeen) + at_ 27 (b2n p.tripLast)

/-- HUB_FIRING_STATUS (R493). A commit is one step, so COMMIT_BUSY reads 0 between commands. -/
def StartPart.firingWord (s : StartPart) : Nat :=
  (match s.active with | some a => a.slot.val | none => 0) + at_ 3 (b2n s.recovery) +
  at_ 4 (match s.selected with | some k => k.val | none => 0) + at_ 7 (bitsOf (s.staged.toList.map (·.isSome))) +
  at_ 16 s.committed.toNat + at_ 24 (b2n s.conflictSeen) + at_ 25 (b2n s.interruptedSeen)

/-- HUB_REPAIR_STATUS (R519). -/
def Dev.repairWord (d : Dev) : Nat :=
  let r := d.repair
  sumNat (d.kilns.toList.map Kiln.sparesLeft) + at_ 5 d.enginesLeft + at_ 9 (b2n (r.lamps.toList.any fun l => l.spare && l.ok)) +
  at_ 10 ((r.lamps.toList.filter fun l => l.ok && !l.spare).length) + at_ 14 (b2n r.quarantineSeen) + at_ 15 (b2n r.spareOutSeen) +
  at_ 16 (b2n r.unitOutSeen) + at_ 17 (b2n r.ledgerFull) + at_ 18 (b2n r.ledgerEmptyStart)

/-- HUB_UE_LOG (R520). -/
def UeLog.word (u : UeLog) : Nat :=
  u.location.toNat + at_ 48 u.unit.toNat + at_ 56 u.where_.toNat + at_ 60 (b2n u.struck) + at_ 61 (b2n u.multiple) + at_ 63 (b2n u.valid)

/-- LTN_RED_STATUS (R384). -/
def Dev.redWord (d : Dev) (l : Fin 4) : Nat :=
  let r := d.coll.red.get l
  (d.coll.slots.filter fun s => s.lantern == l).length + at_ 10 r.peak + at_ 20 (b2n r.ok) + at_ 21 (b2n r.fullSeen) +
  at_ 22 (b2n r.residueSeen) + at_ 23 (b2n r.abortSeen)

/-- KLN_SACC_SEL and KLN_SACC_DATA (R102, R103); the data reads zero outside debug mode. -/
def Sacc.selWord (x : Sacc) : Nat := x.tile + at_ 4 x.group + at_ 8 x.row + at_ 16 x.column
def Sacc.dataWord (x : Sacc) : Nat := x.value + at_ 21 x.residue + at_ 25 x.blocks + at_ 30 (b2n x.valid)

/-- KLN_DIE_STATUS (R24). LANE_SPARES_LEFT counts in units of 8 lanes, rounded down (DESIGN CHOICE, log 146); it is 0 until step S11 has
trained the lanes. -/
def Dev.dieWord (d : Dev) (k : Fin 12) : Nat :=
  let x := d.kiln k
  x.boundTiles.length + at_ 5 x.sparesLeft + at_ 8 k.val + at_ 12 (b2n (x.stackOk.get 0)) + at_ 13 (b2n (x.stackOk.get 1)) +
  at_ 16 (if d.start.step ≤ 11 then 0 else (1024 - (d.repair.spares.filter fun s => s.rep.kind == 8 && s.rep.unit == k.val).length) / 8)

/-- HUB_FN_SLOT_STATUS (R126). -/
def FnPart.word (f : FnPart) : Nat :=
  sumNat ((indexed f.slots.toList).map fun p => at_ (2 * p.1) p.2.state) + at_ 16 (if f.builtinReady then 0x3F else 0) +
  at_ 22 (b2n f.refusedValid) + at_ 24 f.lastRefused.toNat

/-- HUB_SQn_CFG and HUB_CQn_CFG (R394, R395). -/
def Sq.word (q : Sq) : Nat :=
  q.log2.toNat + at_ 5 (b2n q.enable) + at_ 6 (b2n q.cfgErr) + at_ 8 q.cq.toNat + at_ 16 q.weight.toNat + at_ 20 q.classMask.toNat
def Cq.word (q : Cq) : Nat :=
  q.log2.toNat + at_ 5 (b2n q.enable) + at_ 6 (b2n q.cfgErr) + at_ 7 (b2n q.fullSeen) + at_ 8 q.vector.toNat +
  at_ 20 q.coalesceCount.toNat + at_ 28 q.coalesceUs.toNat

/-- The words of an MSI-X entry in PCIe's order. -/
def MsixEntry.word (e : MsixEntry) (w : Fin 4) : Nat :=
  if w = 0 then e.addrLo.toNat else if w = 1 then e.addrHi.toNat else if w = 2 then e.data.toNat else e.control.toNat

/-- What a register holds, whatever the state of the device. -/
def State.regValue (s : State) : Reg → Nat
  | .hostStatus =>
    let l := s.dev.link
    l.cmds.length + at_ 13 (b2n l.tagLimitSeen) + at_ 14 (b2n l.tagBusySeen) + at_ 15 (b2n l.cqFullSeen) + at_ 16 l.protoErrors.toNat
  | .eventStatus => s.dev.link.events.toNat
  | .eventEnable => s.dev.link.eventEnable.toNat
  | .bar2Map => s.dev.link.bar2Base.toNat
  | .sqBase n => (s.sq n).base.toNat
  | .sqCfg n => (s.sq n).word
  | .sqHead n => (s.sq n).head.toNat
  | .cqBase n => (s.cq n).base.toNat
  | .cqCfg n => (s.cq n).word
  | .sqDoorbell _ | .cqDoorbell _ => 0
  | .msixEntry v w => (s.dev.link.msix.entry v.val).word w
  | .msixPending w => bitsOf ((List.range 64).map fun i => s.dev.link.msix.pending.contains (64 * w.val + i))
  | .msixControl => at_ 15 (b2n s.dev.link.msix.enable) + at_ 14 (b2n s.dev.link.msix.functionMask)
  | .dieStatus k => s.dev.dieWord k
  | .numPolicy => s.dev.num.policyWord
  | .troubleLimits => s.dev.num.limitsWord
  | .troubleStatus k => let x := s.dev.kiln k; x.trouble.toNat + at_ 8 x.lastTile + at_ 12 x.lastDet
  | .tileStatus k t => (s.dev.tile k t).word ||| at_ 8 (b2n ((s.dev.kiln k).pipes.any fun q => (s.dev.kiln k).rowsIn t q.1))
  | .saccSel k => (s.dev.kiln k).sacc.selWord
  | .saccData k => if s.dev.ctrs.debugMode then (s.dev.kiln k).sacc.dataWord else 0
  | .fnSlotStatus => s.dev.fn.word
  | .attnStatus k =>
    let x := s.dev.kiln k
    x.pipesFormed + at_ 4 (bitsOf (x.stages.toList.map (·.ok))) + at_ 12 (b2n x.emptyRowSeen) + at_ 13 (b2n x.nanRowSeen)
  | .ctxStatus => let x := s.dev.cx; x.ctxs.length + at_ 15 (b2n x.tableFullSeen) + at_ 16 x.peak + at_ 31 (b2n x.forcedSeen)
  | .poolStatus n => (s.dev.cx.pools.get n).word
  | .progStatus => let p := s.dev.progs; p.programs.length + at_ 9 (b2n p.fullSeen) + at_ 16 p.lastRefusal.toNat
  | .unifiedCfg => s.dev.tier.unifiedCfg.toNat
  | .unifiedStatus => s.dev.tier.units + at_ 22 (b2n s.dev.tier.cfgPending)
  | .shmemPart k =>
    let m := (s.dev.kiln k).shmem
    m.steps + at_ 8 m.inForce + at_ 13 (b2n m.pending) + at_ 14 (b2n m.refused)
  | .prioMap => s.dev.tier.prioMap.toNat
  | .crkMemStatus =>
    let t := s.dev.tier
    t.chOk.toNat + at_ 12 t.dpc + at_ 14 t.speed + at_ 18 t.dimmCap + at_ 22 (b2n t.mrdimm) + at_ 23 (b2n t.fallback)
  | .migCfg => s.dev.tier.migCfg.toNat
  | .migStatus => let t := s.dev.tier; t.pinnedCount + at_ 22 (b2n t.pinLimitSeen) + at_ 23 (b2n !t.moves.isEmpty)
  | .slipStatus k =>
    let x := s.dev.slip k
    sumNat ((indexed x.slots.toList).map fun p => at_ (2 * p.1) p.2.state) + at_ 8 (b2n x.damageSeen) + at_ 9 x.lastCheck +
    at_ 12 x.lastLane + at_ 17 (b2n x.frStallSeen) + at_ 18 x.queue.length
  | .whlStatus w => s.dev.wheelWord w
  | .mediaStatus =>
    let m := s.dev.media
    m.sessions.length + at_ 7 (b2n m.fullSeen) + at_ 8 (b2n m.poolEmptySeen) + at_ 9 (b2n m.streamErrSeen) +
    at_ 10 (b2n m.outSpaceSeen) + at_ 16 m.peak
  | .portStatus l p => (s.dev.port (portOf l p.val)).statusWord
  | .portPeer l p => (s.dev.port (portOf l p.val)).peerWord
  | .linkCfg l => (s.dev.fabric.linkCfg.get l).toNat
  | .laserStatus l =>
    let x := s.dev.fabric.lasers.get l
    (x.aOk &&& ~~~x.aFailed).toNat + at_ 9 (x.bOk &&& ~~~x.bFailed).toNat + at_ 18 (b2n x.lowSeen) + at_ 19 (b2n x.failSeen)
  | .fabricStatus =>
    let f := s.dev.fabric
    f.node.toNat + at_ 14 (b2n f.nodeValid) + at_ 15 f.state.toNat + at_ 17 (b2n f.coordinator) + at_ 18 (b2n f.idConflictSeen) +
    at_ 19 (b2n f.lostPeerSeen)
  | .gradCfg => s.dev.coll.gradCfg.toNat
  | .collStatus => s.dev.coll.groups.length + at_ 11 s.dev.coll.jobs.length + at_ 18 s.dev.coll.seen.toNat
  | .redStatus l => s.dev.redWord l
  | .timeCfg => s.dev.time.cfg.toNat
  | .timeRate => s.dev.time.rate.toNat
  | .timeNow => s.dev.time.phase.toNat
  | .timeStatus =>
    let t := s.dev.time
    t.state.toNat + at_ 2 (b2n t.trefPresent) + at_ 3 (b2n t.pulsePresent) + at_ 4 (b2n t.ptpPresent) + at_ 5 (b2n t.stepSeen) +
    at_ 6 (b2n t.unlockSeen) + at_ 7 (b2n t.rateErr) + at_ 16 t.phaseErr.toNat
  | .candleState => sumNat ((indexed s.dev.candle.streams.toList).map fun p => at_ (2 * p.1) p.2.state.toNat)
  | .schedStatus => s.dev.candle.seen.toNat + at_ 8 s.dev.candle.lastLate.toNat
  | .pwrCap =>
    let p := s.dev.power
    p.hostCap.toNat + at_ 16 p.hostWindow.toNat + at_ 32 p.boardCap.toNat + at_ 48 p.boardWindow.toNat
  | .pwrStatus => s.dev.powerWord
  | .coolantStatus => s.dev.power.coolantWord
  | .startStatus => s.dev.startWord
  | .firingStatus => s.dev.start.firingWord
  | .scrubCfg => s.dev.repair.scrubCfg.toNat
  | .repairStatus => s.dev.repairWord
  | .ueLog => s.dev.repair.ue.word
  | .ledgerVersion => s.dev.repair.ledgerVersion
  | .ctrCycle b => (s.dev.ctrs.blocks.get b).cycle.toNat
  | .ctrStatus b => (s.dev.ctrs.blocks.get b).status
  | .ctrSel b i => ((s.dev.ctrs.blocks.get b).ctrs.get i).sel
  | .ctr b i => ((s.dev.ctrs.blocks.get b).ctrs.get i).word
  | .ctrGrant => s.dev.ctrs.grant.toNat
  | .bwCfg => s.dev.ctrs.bwCfg.toNat
  | .debugStatus =>
    let c := s.dev.ctrs
    b2n c.debugMode + at_ 1 (b2n c.debugEntered) + at_ 2 (bitsOf (s.dev.kilns.toList.map (·.halted))) + at_ 14 (b2n c.deniedSeen)
  | .portBw l p =>
    let m := s.dev.ctrs.portBw.get (portOf l p.val)
    m.latchOut.toNat + at_ 32 m.latchIn.toNat
  | .meshBw b => let m := s.dev.ctrs.meshBw.get b; m.latchOut.toNat + at_ 32 m.latchIn.toNat

/-- What a read of a whole register returns: before ready only HUB_START_STATUS is there (R474, R479), and in ember the
registers of dies read as zero (R469). -/
def State.regRead (s : State) (r : Reg) : Nat :=
  match r with
  | .startStatus => s.regValue r
  | _ => if !s.dev.ready || (!r.onHub && s.dev.power.state != 0#2) then 0 else s.regValue r

/-- R423: what a 4-byte read of an 8-byte register's high half returns: the half that the last low read latched, where one did. -/
def State.highRead (s : State) (r : Reg) : Nat :=
  match s.dev.link.latched.find? fun x => x.1 == r with
  | some x => x.2.toNat
  | none => field (s.regRead r) 63 32

/-- R530: what a read of a block's user page at an offset returns. -/
def State.userRead (s : State) (b : DieIx) (offset : Nat) : Nat :=
  let x := s.dev.ctrs.blocks.get b
  if !s.dev.ready || !s.dev.ctrs.grant.getLsbD b.val || (b != hubDie && s.dev.power.state != 0#2) then 0
  else if offset = 0 then x.cycle.toNat
  else if 0x80 ≤ offset && offset < 0xC0 && offset % 8 = 0 then
    let c := x.ctrs.get (Fin.ofNat 8 ((offset - 0x80) / 8))
    if c.user then c.word else 0
  else 0

-- Writes

/-- A bit that a write clears where it is 1. -/
def keep (b : Bool) (v i : Nat) : Bool := b && !bit v i

/-- R2: what a write with no reserved bit does to a register that no operation of its own serves; a write to RO fields does
nothing. -/
def Dev.regSet (d : Dev) (v : Nat) : Reg → Dev
  | .hostStatus =>
    let l := d.link
    { d with link := { l with tagLimitSeen := keep l.tagLimitSeen v 13, tagBusySeen := keep l.tagBusySeen v 14,
                              cqFullSeen := keep l.cqFullSeen v 15 } }
  | .eventStatus => { d with link := { d.link with events := d.link.events &&& ~~~BitVec.ofNat 8 v } }
  | .eventEnable => { d with link := { d.link with eventEnable := BitVec.ofNat 8 v } }
  | .bar2Map => { d with link := { d.link with bar2Base := BitVec.ofNat 18 v } }
  | .msixEntry n w =>
    let m := d.link.msix
    let e := m.entry n.val
    let x := BitVec.ofNat 32 v
    let e' : MsixEntry := if w = 0 then { e with addrLo := x } else if w = 1 then { e with addrHi := x }
      else if w = 2 then { e with data := x } else { e with control := x }
    let rest := m.entries.filter fun p => p.1 != n.val
    let all_ := if e' = {} then rest else insertBy (fun a b => decide (a.1 ≤ b.1)) (n.val, e') rest
    ({ d with link := { d.link with msix := { m with entries := all_ } } } : Dev).flushPending
  | .numPolicy => { d with num := NumPolicy.ofWords v d.num.limitsWord }
  | .troubleLimits => { d with num := NumPolicy.ofWords d.num.policyWord v }
  | .troubleStatus k => d.modKiln k fun (x : Kiln) => { x with trouble := x.trouble &&& ~~~BitVec.ofNat 7 v }
  | .attnStatus k =>
    d.modKiln k fun (x : Kiln) => { x with emptyRowSeen := keep x.emptyRowSeen v 12, nanRowSeen := keep x.nanRowSeen v 13 }
  | .ctxStatus => { d with cx := { d.cx with tableFullSeen := keep d.cx.tableFullSeen v 15, forcedSeen := keep d.cx.forcedSeen v 31 } }
  | .poolStatus n =>
    { d with cx := { d.cx with pools := vmod d.cx.pools n fun (p : PoolSlot) => { p with emptySeen := keep p.emptySeen v 30 } } }
  | .progStatus => { d with progs := { d.progs with fullSeen := keep d.progs.fullSeen v 9 } }
  | .unifiedCfg =>
    let x := BitVec.ofNat 32 v
    { d with tier := { d.tier with unifiedCfg := x, cfgKept := some x, cfgPending := true } }
  | .prioMap => { d with tier := { d.tier with prioMap := BitVec.ofNat 32 v } }
  | .migCfg => { d with tier := { d.tier with migCfg := BitVec.ofNat 32 v } }
  | .migStatus => { d with tier := { d.tier with pinLimitSeen := keep d.tier.pinLimitSeen v 22 } }
  | .slipStatus k =>
    let x := d.slip k
    d.setSlip k { x with damageSeen := keep x.damageSeen v 8, frStallSeen := keep x.frStallSeen v 17 }
  | .whlStatus w =>
    d.modWheel w fun (x : Wheel) => { x with stripSeen := keep x.stripSeen v 14, residueSeen := keep x.residueSeen v 15,
                                             singleSeen := keep x.singleSeen v 16 }
  | .mediaStatus =>
    let m := d.media
    { d with media := { m with fullSeen := keep m.fullSeen v 7, poolEmptySeen := keep m.poolEmptySeen v 8,
                               streamErrSeen := keep m.streamErrSeen v 9, outSpaceSeen := keep m.outSpaceSeen v 10 } }
  | .portStatus l p =>
    d.modPort (portOf l p.val) fun (x : Port) =>
      { x with retrainSeen := keep x.retrainSeen v 19, spareSeen := keep x.spareSeen v 20, authFailSeen := keep x.authFailSeen v 21,
               replaySeen := keep x.replaySeen v 22 }
  | .linkCfg l => { d with fabric := { d.fabric with linkCfg := d.fabric.linkCfg.set l (BitVec.ofNat 32 v) } }
  | .laserStatus l =>
    { d with fabric := { d.fabric with lasers := vmod d.fabric.lasers l fun (x : Lasers) =>
        { x with lowSeen := keep x.lowSeen v 18, failSeen := keep x.failSeen v 19 } } }
  | .fabricStatus =>
    let f := d.fabric
    { d with fabric := { f with idConflictSeen := keep f.idConflictSeen v 18, lostPeerSeen := keep f.lostPeerSeen v 19 } }
  | .gradCfg => { d with coll := { d.coll with gradCfg := BitVec.ofNat 32 v } }
  | .collStatus => { d with coll := { d.coll with seen := d.coll.seen &&& ~~~BitVec.ofNat 6 (field v 23 18) } }
  | .redStatus l =>
    { d with coll := { d.coll with red := vmod d.coll.red l fun (x : RedUnit) =>
        { x with fullSeen := keep x.fullSeen v 21, residueSeen := keep x.residueSeen v 22, abortSeen := keep x.abortSeen v 23 } } }
  | .timeStatus =>
    d.modTime fun t => { t with stepSeen := keep t.stepSeen v 5, unlockSeen := keep t.unlockSeen v 6, rateErr := keep t.rateErr v 7 }
  | .schedStatus => { d with candle := { d.candle with seen := d.candle.seen &&& ~~~BitVec.ofNat 6 v } }
  | .pwrStatus =>
    d.modPower fun p => { p with capUnmetSeen := keep p.capUnmetSeen v 12, fastLimitSeen := keep p.fastLimitSeen v 13,
                                 boardMemLost := keep p.boardMemLost v 14 }
  | .coolantStatus => d.modPower fun p => { p with warnSeen := keep p.warnSeen v 25, throttleSeen := keep p.throttleSeen v 26 }
  | .firingStatus =>
    d.modStart fun s => { s with conflictSeen := keep s.conflictSeen v 24, interruptedSeen := keep s.interruptedSeen v 25 }
  | .scrubCfg => { d with repair := { d.repair with scrubCfg := BitVec.ofNat 32 v } }
  | .repairStatus =>
    let r := d.repair
    { d with repair := { r with quarantineSeen := keep r.quarantineSeen v 14, spareOutSeen := keep r.spareOutSeen v 15,
                                unitOutSeen := keep r.unitOutSeen v 16, ledgerFull := keep r.ledgerFull v 17 } }
  | .ctrStatus b => d.modBlock b fun x => { x with frozen := keep x.frozen v 8 }
  | .ctr b i =>
    (d.modBlock b (CtrBlock.modCtr i fun c => { c with count := BitVec.ofNat 48 v, ovf := keep c.ovf v 63 })).dropHold (.ctr b i)
  | .ctrGrant => { d with ctrs := { d.ctrs with grant := BitVec.ofNat 20 v } }
  | .bwCfg => { d with ctrs := { d.ctrs with bwCfg := BitVec.ofNat 16 v } }
  | .debugStatus => { d with ctrs := { d.ctrs with deniedSeen := keep d.ctrs.deniedSeen v 14 } }
  | _ => d

/-- MSI-X's Message Control (PRESUMED, log 6): it is in configuration space, so it is there before ready (R474). -/
def Dev.msixControl (v : Nat) (d : Dev) : Dev :=
  if !d.pins.perstN then d
  else ({ d with link := { d.link with msix := { d.link.msix with enable := bit v 15, functionMask := bit v 14 } } } : Dev).flushPending

/-- A write to a whole register (R2, R3, R388). -/
def State.regWrite (r : Reg) (v : Nat) (s : State) : State :=
  let w : Word := BitVec.ofNat 32 v
  match r with
  | .sqBase n => s.ringBase false n (BitVec.ofNat 64 v)
  | .cqBase n => s.ringBase true n (BitVec.ofNat 64 v)
  | .sqCfg n => s.sqWrite n w
  | .cqCfg n => s.cqWrite n w
  | .sqDoorbell n => s.sqBell n w
  | .cqDoorbell n => s.cqBell n w
  | .msixControl => s.onDev (Dev.msixControl v)
  | .shmemPart k => s.onDev (Dev.shmemWrite k w)
  | .saccSel k => s.onDev (Dev.saccWrite k w)
  | .timeCfg => s.onDev (Dev.timeCfg w)
  | .timeRate => s.onDev (Dev.timeRate w)
  | .ueLog => s.onDev (Dev.ueWrite v)
  | .ctrSel b i => s.onDev (Dev.selWrite b i w)
  | r =>
    let go (d : Dev) : Dev := if v &&& r.rsv ≠ 0 then d.protoError else d.regSet v r
    s.onDev (if r.onHub then Dev.hubWrite go else Dev.dieWrite go)

/-- R388: may a half of a register be written now: ring registers from the end of step S01, others from ready (R469, R474). -/
def Dev.halfOpen (d : Dev) (r : Reg) : Bool :=
  match r with
  | .sqBase _ | .cqBase _ => d.ringsOpen
  | r => d.ready && (r.onHub || d.power.state == 0#2)

/-- R388: a lower half is held until the upper half is written. In ember a write to a die's register counts as an error (R469). -/
def State.lowWrite (r : Reg) (v : Word) (s : State) : State :=
  if !r.is64 then s
  else if s.dev.halfOpen r then
    s.onDev fun d => { d with link := { d.link with holds := d.link.holds.filter (fun h => h.1 != r) ++ [(r, v)] } }
  else if s.dev.ready then s.onDev Dev.protoError
  else s

/-- R388: the upper half takes the lower half that is held, or the register's lower 32 bits. -/
def State.highWrite (r : Reg) (v : Word) (s : State) : State :=
  if !r.is64 then s
  else
    let low := match s.dev.link.holds.find? fun h => h.1 == r with
      | some h => h.2.toNat
      | none => s.regValue r % 2 ^ 32
    s.regWrite r (low + at_ 32 v.toNat)

/-- REGISTER_WRITE (R2, R3, R388). A 4-byte register has no halves (log 5). -/
def execRegisterWrite (r : Reg) (p : Part) (v : Long) (s : State) : Out :=
  .next (match p with
    | .whole => s.regWrite r (if r.is64 then v.toNat else v.toNat % 2 ^ 32)
    | .lower => s.lowWrite r (v.setWidth 32)
    | .upper => s.highWrite r (v.setWidth 32))

/-- REG64_LOWER_HALF_WRITE (R388). -/
def execReg64LowerHalfWrite (r : Reg) (v : Word) (s : State) : Out := .next (s.lowWrite r v)

/-- REG64_LOW_HALF_READ (R423): the low half is returned and the high half latched, of one instant. -/
def State.lowRead (r : Reg) (s : State) : State :=
  if !r.is64 then s
  else
    let x := s.regRead r
    let s1 := s.onDev (Dev.emit (.readData (leBytes 4 x) false))
    if s.dev.ready && !r.onHub && s.dev.power.state != 0#2 then s1.onDev Dev.protoError
    else
      s1.onDev fun d => { d with link := { d.link with
        latched := d.link.latched.filter (fun h => h.1 != r) ++ [(r, BitVec.ofNat 32 (x / 2 ^ 32))] } }
def execReg64LowHalfRead (r : Reg) (s : State) : Out := .next (s.lowRead r)

/-- REGISTER_PROTOCOL_ERROR (R388): a read returns zeros, a write is discarded. -/
def Dev.badAccess (read : Bool) (n : Nat) (d : Dev) : Dev :=
  if !d.pins.perstN then d else if read then (d.emit (.readData (List.replicate n 0#8) false)).protoError else d.protoError
def execRegisterProtocolError (read : Bool) (n : Nat) (s : State) : Out := .next (s.onDev (Dev.badAccess read n))

-- QUERY (R405)

/-- The device summary. -/
def Dev.summary (d : Dev) : List Byte :=
  leBytes 4 0x30325743 ++ leBytes 4 d.numerics.toNat ++ leBytes 1 (match d.start.active with | some a => a.slot.val | none => 0) ++
  leBytes 1 d.lampsLeft ++ leBytes 2 (sumNat (d.kilns.toList.map fun k => k.boundTiles.length)) ++ leBytes 3 d.stackMask ++
  leBytes 3 (d.fabric.node.toNat + at_ 14 (b2n d.fabric.nodeValid)) ++ leBytes 4 d.tier.units ++ List.replicate 42 0#8

/-- The header of a function-table slot: the numerics version fixes those of the built-in tables. -/
def Dev.slotHeader (d : Dev) (slot : Nat) : List Byte :=
  if slot < 6 then builtinHeader d.numerics slot
  else if slot < 8 then List.replicate 64 0#8
  else
    match (d.fn.slots.get (Fin.ofNat 8 (slot - 8))).table with
    | some t => t.header
    | none => List.replicate 64 0#8

/-- The bytes of an item; none where ITEM or INDEX is unknown. -/
def Dev.queryBytes (d : Dev) (item ix : Nat) : Option (List Byte) :=
  match item with
  | 1 => if ix = 0 then some d.summary else none
  | 2 => if ix < 16 then some (d.slotHeader ix) else none
  | 3 => if (List.finRange 20).any fun x => dieCode x == ix then some (Config.regDirectory ix) else none
  | _ => none

/-- QUERY (R405). -/
def Dev.queryCmd (c : Cmd) (d : Dev) : Dev :=
  match d.queryBytes (opnd c.pkt.o0 15 0) (opnd c.pkt.o0 31 16) with
  | none => d.refuse c.id stQueryItem
  | some bs =>
    let a := opDa c.pkt.o1
    if opnd c.pkt.o2 31 0 < bs.length then d.refuse c.id stQuerySpace
    else if !d.daOk a bs.length then d.refuse c.id stAddress
    else d.storeBytes c.id a bs fun d => d.okCmd c.id bs.length 0 0
def execQuery (tag : Tag) (s : State) : Out := .next (s.onDev (Dev.onCmd tag 0x03 Dev.queryCmd))

end Sys2Proof.Machine
end

