-- ==== Sys2Proof/Machine/Dispatch.lean ====
section
/-! DEFINITION. One arm per command: each calls its meaning. -/
namespace Sys2Proof.Machine

/-- The effect of a command on everything but the queue. -/
def exec (i : Instr) (s : State) : Host.Outcome State Fault Refusal :=
  match i with
  | .perstNAssert us => Sys2Proof.Machine.execPerstNAssert us s
  | .perstNRelease straps => Sys2Proof.Machine.execPerstNRelease straps s
  | .startStepComplete ok f => Sys2Proof.Machine.execStartStepComplete ok f s
  | .coolantRecheck inlet flow => Sys2Proof.Machine.execCoolantRecheck inlet flow s
  | .selfStart => Sys2Proof.Machine.execSelfStart s
  | .functionLevelReset => Sys2Proof.Machine.execFunctionLevelReset s
  | .linkDown => Sys2Proof.Machine.execLinkDown s
  | .registerWrite r p v => Sys2Proof.Machine.execRegisterWrite r p v s
  | .registerProtocolError read n => Sys2Proof.Machine.execRegisterProtocolError read n s
  | .reg64LowerHalfWrite r v => Sys2Proof.Machine.execReg64LowerHalfWrite r v s
  | .reg64LowHalfRead r => Sys2Proof.Machine.execReg64LowHalfRead r s
  | .ringBaseWrite cq n v => Sys2Proof.Machine.execRingBaseWrite cq n v s
  | .sqEnable n v => Sys2Proof.Machine.execSqEnable n v s
  | .sqDisable n v => Sys2Proof.Machine.execSqDisable n v s
  | .cqEnable n v => Sys2Proof.Machine.execCqEnable n v s
  | .cqDisable n v => Sys2Proof.Machine.execCqDisable n v s
  | .sqDoorbell n v => Sys2Proof.Machine.execSqDoorbell n v s
  | .cqDoorbell n v => Sys2Proof.Machine.execCqDoorbell n v s
  | .packetFetch n entry => Sys2Proof.Machine.execPacketFetch n entry s
  | .sqEntryReadError n => Sys2Proof.Machine.execSqEntryReadError n s
  | .opcodeInvalidPacket => Sys2Proof.Machine.execOpcodeInvalidPacket s
  | .replyWrite cq => Sys2Proof.Machine.execReplyWrite cq s
  | .msixCoalesceTimeout cq => Sys2Proof.Machine.execMsixCoalesceTimeout cq s
  | .msixUnmask v => Sys2Proof.Machine.execMsixUnmask v s
  | .bar2Read off len upsets => Sys2Proof.Machine.execBar2Read off len upsets s
  | .bar2Write off bytes => Sys2Proof.Machine.execBar2Write off bytes s
  | .nop tag => Sys2Proof.Machine.execNop tag s
  | .fence tag => Sys2Proof.Machine.execFence tag s
  | .query tag => Sys2Proof.Machine.execQuery tag s
  | .programLoad tag => Sys2Proof.Machine.execProgramLoad tag s
  | .programUnload tag => Sys2Proof.Machine.execProgramUnload tag s
  | .launch tag => Sys2Proof.Machine.execLaunch tag s
  | .launchList tag => Sys2Proof.Machine.execLaunchList tag s
  | .launchComplete id => Sys2Proof.Machine.execLaunchComplete id s
  | .preempt tag => Sys2Proof.Machine.execPreempt tag s
  | .resume tag => Sys2Proof.Machine.execResume tag s
  | .cancel tag => Sys2Proof.Machine.execCancel tag s
  | .memCopy tag host failRow => Sys2Proof.Machine.execMemCopy tag host failRow s
  | .memFill tag => Sys2Proof.Machine.execMemFill tag s
  | .migrate tag => Sys2Proof.Machine.execMigrate tag s
  | .pin tag => Sys2Proof.Machine.execPin tag s
  | .unpin tag => Sys2Proof.Machine.execUnpin tag s
  | .windowStream tag => Sys2Proof.Machine.execWindowStream tag s
  | .windowClose tag => Sys2Proof.Machine.execWindowClose tag s
  | .ctxCreate tag => Sys2Proof.Machine.execCtxCreate tag s
  | .ctxCreatePool tag => Sys2Proof.Machine.execCtxCreatePool tag s
  | .ctxFork tag => Sys2Proof.Machine.execCtxFork tag s
  | .ctxDestroy tag => Sys2Proof.Machine.execCtxDestroy tag s
  | .ctxDestroyPool tag => Sys2Proof.Machine.execCtxDestroyPool tag s
  | .ctxTrim tag => Sys2Proof.Machine.execCtxTrim tag s
  | .fnTableLoad tag => Sys2Proof.Machine.execFnTableLoad tag s
  | .fnTableCheckComplete slot => Sys2Proof.Machine.execFnTableCheckComplete slot s
  | .fnTableRelease tag => Sys2Proof.Machine.execFnTableRelease tag s
  | .slipTableLoad tag => Sys2Proof.Machine.execSlipTableLoad tag s
  | .slipTableRelease tag => Sys2Proof.Machine.execSlipTableRelease tag s
  | .barrier tag => Sys2Proof.Machine.execBarrier tag s
  | .broadcast tag => Sys2Proof.Machine.execBroadcast tag s
  | .reduce tag => Sys2Proof.Machine.execReduce tag s
  | .allreduce tag => Sys2Proof.Machine.execAllreduce tag s
  | .reduceScatter tag => Sys2Proof.Machine.execReduceScatter tag s
  | .allgather tag => Sys2Proof.Machine.execAllgather tag s
  | .alltoall tag => Sys2Proof.Machine.execAlltoall tag s
  | .send tag => Sys2Proof.Machine.execSend tag s
  | .recv tag => Sys2Proof.Machine.execRecv tag s
  | .gradContribute tag => Sys2Proof.Machine.execGradContribute tag s
  | .groupBind tag => Sys2Proof.Machine.execGroupBind tag s
  | .groupRelease tag => Sys2Proof.Machine.execGroupRelease tag s
  | .gradJobOpen tag => Sys2Proof.Machine.execGradJobOpen tag s
  | .gradJobClose tag => Sys2Proof.Machine.execGradJobClose tag s
  | .mediaOpen tag => Sys2Proof.Machine.execMediaOpen tag s
  | .mediaDecode tag => Sys2Proof.Machine.execMediaDecode tag s
  | .mediaEncode tag => Sys2Proof.Machine.execMediaEncode tag s
  | .mediaClose tag => Sys2Proof.Machine.execMediaClose tag s
  | .codecFrameComplete job frame => Sys2Proof.Machine.execCodecFrameComplete job frame s
  | .slotReleaseEffect session => Sys2Proof.Machine.execSlotReleaseEffect session s
  | .candleLoad tag => Sys2Proof.Machine.execCandleLoad tag s
  | .candleArm tag => Sys2Proof.Machine.execCandleArm tag s
  | .candleDisarm tag => Sys2Proof.Machine.execCandleDisarm tag s
  | .candleStreamFreed k => Sys2Proof.Machine.execCandleStreamFreed k s
  | .candleLaunch k => Sys2Proof.Machine.execCandleLaunch k s
  | .candleMediaDecode k => Sys2Proof.Machine.execCandleMediaDecode k s
  | .candleMediaEncode k => Sys2Proof.Machine.execCandleMediaEncode k s
  | .cutoff k => Sys2Proof.Machine.execCutoff k s
  | .deliver k => Sys2Proof.Machine.execDeliver k s
  | .firingStage tag => Sys2Proof.Machine.execFiringStage tag s
  | .firingCommit tag flashOk => Sys2Proof.Machine.execFiringCommit tag flashOk s
  | .firingRevert tag => Sys2Proof.Machine.execFiringRevert tag s
  | .attest tag => Sys2Proof.Machine.execAttest tag s
  | .powerStateEmber tag => Sys2Proof.Machine.execPowerStateEmber tag s
  | .powerStateRun tag => Sys2Proof.Machine.execPowerStateRun tag s
  | .emberExitComplete => Sys2Proof.Machine.execEmberExitComplete s
  | .powerCap tag => Sys2Proof.Machine.execPowerCap tag s
  | .fabricJoin tag => Sys2Proof.Machine.execFabricJoin tag s
  | .fabricLeave tag => Sys2Proof.Machine.execFabricLeave tag s
  | .leaveDrainTimeout => Sys2Proof.Machine.execLeaveDrainTimeout s
  | .leaveForwardEnd => Sys2Proof.Machine.execLeaveForwardEnd s
  | .routeQuery tag => Sys2Proof.Machine.execRouteQuery tag s
  | .counterProgram tag => Sys2Proof.Machine.execCounterProgram tag s
  | .counterSnapshot tag => Sys2Proof.Machine.execCounterSnapshot tag s
  | .counterStop tag => Sys2Proof.Machine.execCounterStop tag s
  | .counterClear tag => Sys2Proof.Machine.execCounterClear tag s
  | .debugEnter tag => Sys2Proof.Machine.execDebugEnter tag s
  | .debugExit tag => Sys2Proof.Machine.execDebugExit tag s
  | .halt tag => Sys2Proof.Machine.execHalt tag s
  | .continue_ tag => Sys2Proof.Machine.execContinue tag s
  | .dump tag bytes => Sys2Proof.Machine.execDump tag bytes s
  | .healthQuery tag => Sys2Proof.Machine.execHealthQuery tag s
  | .saccCapture k v => Sys2Proof.Machine.execSaccCapture k v s
  | .ueLogClear => Sys2Proof.Machine.execUeLogClear s
  | .countersResume d => Sys2Proof.Machine.execCountersResume d s
  | .ctrSelWrite d ix v => Sys2Proof.Machine.execCtrSelWrite d ix v s
  | .counterOverflow d ix => Sys2Proof.Machine.execCounterOverflow d ix s
  | .bwWindowClose => Sys2Proof.Machine.execBwWindowClose s
  | .shmemPartRequest k v => Sys2Proof.Machine.execShmemPartRequest k v s
  | .shmemPartApply k => Sys2Proof.Machine.execShmemPartApply k s
  | .timeCfgWrite v => Sys2Proof.Machine.execTimeCfgWrite v s
  | .timeRateWrite v => Sys2Proof.Machine.execTimeRateWrite v s
  | .timeLock => Sys2Proof.Machine.execTimeLock s
  | .timeReferenceLoss => Sys2Proof.Machine.execTimeReferenceLoss s
  | .holdoverExpiry => Sys2Proof.Machine.execHoldoverExpiry s
  | .timeReferenceReturn => Sys2Proof.Machine.execTimeReferenceReturn s
  | .tpulseEdge errNs inLimits => Sys2Proof.Machine.execTpulseEdge errNs inLimits s
  | .ptpMessage m => Sys2Proof.Machine.execPtpMessage m s
  | .powerCapTick watts => Sys2Proof.Machine.execPowerCapTick watts s
  | .fastPowerLimit => Sys2Proof.Machine.execFastPowerLimit s
  | .fastLimitRelease => Sys2Proof.Machine.execFastLimitRelease s
  | .inputVoltageLoss => Sys2Proof.Machine.execInputVoltageLoss s
  | .stageOutOfRegulation ix => Sys2Proof.Machine.execStageOutOfRegulation ix s
  | .thermalWarn inlet flow temps => Sys2Proof.Machine.execThermalWarn inlet flow temps s
  | .thermalThrottleTick d temp => Sys2Proof.Machine.execThermalThrottleTick d temp s
  | .thermalTrip => Sys2Proof.Machine.execThermalTrip s
  | .dieComparatorTrip d => Sys2Proof.Machine.execDieComparatorTrip d s
  | .boardPowerCap cap window => Sys2Proof.Machine.execBoardPowerCap cap window s
  | .boardWake => Sys2Proof.Machine.execBoardWake s
  | .wakeNTimeout => Sys2Proof.Machine.execWakeNTimeout s
  | .mctpTelemetryRead => Sys2Proof.Machine.execMctpTelemetryRead s
  | .boardMemoryPowerLoss => Sys2Proof.Machine.execBoardMemoryPowerLoss s
  | .i3cEntdaa => Sys2Proof.Machine.execI3cEntdaa s
  | .jtagInstruction ix => Sys2Proof.Machine.execJtagInstruction ix s
  | .tileExecutionStart k t launch => Sys2Proof.Machine.execTileExecutionStart k t launch s
  | .tileReadyMove k t launch ix side => Sys2Proof.Machine.execTileReadyMove k t launch ix side s
  | .tileExecutionEnd k t residueFail => Sys2Proof.Machine.execTileExecutionEnd k t residueFail s
  | .chainSegmentArrive launch run segment => Sys2Proof.Machine.execChainSegmentArrive launch run segment s
  | .pipelineExecutionEnd k p launch residueFail => Sys2Proof.Machine.execPipelineExecutionEnd k p launch residueFail s
  | .vectorExecutionEnd die unit launch ix regFails => Sys2Proof.Machine.execVectorExecutionEnd die unit launch ix regFails s
  | .pixelExecutionEnd w launch ix residueFail => Sys2Proof.Machine.execPixelExecutionEnd w launch ix residueFail s
  | .atomic r => Sys2Proof.Machine.execAtomic r s
  | .meshRetryExhausted who => Sys2Proof.Machine.execMeshRetryExhausted who s
  | .scrubTick r => Sys2Proof.Machine.execScrubTick r s
  | .laneRepair stack group lane codewords => Sys2Proof.Machine.execLaneRepair stack group lane codewords s
  | .elementFailure e => Sys2Proof.Machine.execElementFailure e s
  | .lamplighterWatchdog c => Sys2Proof.Machine.execLamplighterWatchdog c s
  | .lamplighterTakeover => Sys2Proof.Machine.execLamplighterTakeover s
  | .ledgerRecordWrite => Sys2Proof.Machine.execLedgerRecordWrite s
  | .migrationEpochEnd => Sys2Proof.Machine.execMigrationEpochEnd s
  | .unitMoveComplete ix => Sys2Proof.Machine.execUnitMoveComplete ix s
  | .windowUseFilled w => Sys2Proof.Machine.execWindowUseFilled w s
  | .slipBlockHeaderRead k launch buf unit => Sys2Proof.Machine.execSlipBlockHeaderRead k launch buf unit s
  | .slipBlockDecoded k => Sys2Proof.Machine.execSlipBlockDecoded k s
  | .slipDamageReread k => Sys2Proof.Machine.execSlipDamageReread k s
  | .forerunnerBlockDecoded k launch buf unit => Sys2Proof.Machine.execForerunnerBlockDecoded k launch buf unit s
  | .linkHello p h => Sys2Proof.Machine.execLinkHello p h s
  | .helloIntervalTick => Sys2Proof.Machine.execHelloIntervalTick s
  | .neighbourDead p => Sys2Proof.Machine.execNeighbourDead p s
  | .dataFlitReceive p f corrected bad => Sys2Proof.Machine.execDataFlitReceive p f corrected bad s
  | .idleFlitReceive p f corrected bad => Sys2Proof.Machine.execIdleFlitReceive p f corrected bad s
  | .linkRetry p seq => Sys2Proof.Machine.execLinkRetry p seq s
  | .abortFlit p vc src msgId => Sys2Proof.Machine.execAbortFlit p vc src msgId s
  | .routeFlit p r => Sys2Proof.Machine.execRouteFlit p r s
  | .authFlit p a => Sys2Proof.Machine.execAuthFlit p a s
  | .authRetryTimer p => Sys2Proof.Machine.execAuthRetryTimer p s
  | .laneBerWindowEnd p => Sys2Proof.Machine.execLaneBerWindowEnd p s
  | .spareRequest p lane => Sys2Proof.Machine.execSpareRequest p lane s
  | .spareReady p lane => Sys2Proof.Machine.execSpareReady p lane s
  | .laneLost p w => Sys2Proof.Machine.execLaneLost p w s
  | .retrainComplete p good ok => Sys2Proof.Machine.execRetrainComplete p good ok s
  | .laserFeedFail l feed failed => Sys2Proof.Machine.execLaserFeedFail l feed failed s
  | .messageAckTimeout l msgId => Sys2Proof.Machine.execMessageAckTimeout l msgId s
  | .noRouteTimeout p vc => Sys2Proof.Machine.execNoRouteTimeout p vc s
  | .electionTimeout => Sys2Proof.Machine.execElectionTimeout s
  | .membershipEvent e => Sys2Proof.Machine.execMembershipEvent e s
  | .heldMessageTimeout ix => Sys2Proof.Machine.execHeldMessageTimeout ix s
  | .bindMessage ix => Sys2Proof.Machine.execBindMessage ix s
  | .readyMessage ix => Sys2Proof.Machine.execReadyMessage ix s
  | .collDataMessage ix => Sys2Proof.Machine.execCollDataMessage ix s
  | .chainMessage ix => Sys2Proof.Machine.execChainMessage ix s
  | .contribMessage ix residueFails => Sys2Proof.Machine.execContribMessage ix residueFails s
  | .resultMessage ix => Sys2Proof.Machine.execResultMessage ix s
  | .endpointMessage ix => Sys2Proof.Machine.execEndpointMessage ix s
  | .collAbortMessage ix => Sys2Proof.Machine.execCollAbortMessage ix s
  | .collTimeout id => Sys2Proof.Machine.execCollTimeout id s
  | .stepTimeout job bucket shard => Sys2Proof.Machine.execStepTimeout job bucket shard s
  | .inputPowerApplied => Sys2Proof.Machine.execInputPowerApplied s
  | .laserFeedRestored l feed => Sys2Proof.Machine.execLaserFeedRestored l feed s
  | .spareWavelengthTrained p lane => Sys2Proof.Machine.execSpareWavelengthTrained p lane s

end Sys2Proof.Machine
end

