-- ==== Sys2Proof/Machine/Tick.lean ====
section
/-! DEFINITION. Time: what a microsecond does while no command waits (R417, R421, R451, R522, R528, R531). -/
namespace Sys2Proof.Machine

/-- R522: a die is powered: from the release of PERST_N, and in ember the hub alone (R468). -/
def Dev.dieUp (d : Dev) (x : DieIx) : Bool := d.pins.perstN && d.start.started && (d.power.state == 0#2 || x == hubDie)
/-- Arithmetic cycles of a die in a microsecond. -/
def Dev.acPerUs (d : Dev) (x : DieIx) : Nat := 100 * d.dieClock x

/-- CYCLE of a die that is powered. -/
def Dev.cycled (d : Dev) (x : DieIx) : CtrBlock :=
  let b := d.ctrs.blocks.get x
  if d.dieUp x then { b with cycle := b.cycle + BitVec.ofNat 64 (d.acPerUs x) } else b
def Dev.tickCycles (d : Dev) : Dev := { d with ctrs := { d.ctrs with blocks := Vector.ofFn d.cycled } }

/-- R226: a tile waits for readiness: nothing but an operand keeps its next execution. -/
def Dev.tileWaits (d : Dev) (k : Fin 12) (t : Fin 16) : Bool :=
  (d.tile k t).running.isNone && d.launches.any fun l =>
    match d.nextStart k t l.id with
    | some x => !d.sidesReady k t x
    | none => false

/-- R250: a launch waits at its window's gate. -/
def Dev.gateWaits (d : Dev) (l : Launch) : Bool :=
  l.phase == .running && (match d.imageOf l with
    | some im => (match (d.todo l im).head? with | some p => (d.gate l (im.layerOf p.2)).isNone | none => false)
    | none => false)

/-- R528: the events that count an ac of waiting, over a microsecond. -/
def Dev.tickWaits (d : Dev) : Dev :=
  if !d.running then d
  else
    let d1 := if d.launches.isEmpty then d
      else
        d.each (List.finRange 12) fun k d =>
          let n := (d.launches.filter fun l => l.dies.contains k.val && d.gateWaits l).length
          (d.each (List.finRange 16) fun t d => d.count (kilnDie k) 0x0A t.val (if d.tileWaits k t then d.acPerUs (kilnDie k) else 0)).count
            (kilnDie k) 0x28 0 (n * d.acPerUs (kilnDie k))
    if 4096 ≤ d1.link.cmds.length then d1.count hubDie 0x03 0 (d1.acPerUs hubDie) else d1

/-- R475: the time unit runs once step S18 has started it. -/
def Dev.timeRuns (d : Dev) : Bool := d.start.started && (d.ready || decide (18 < d.start.step))

/-- A microsecond of device time. -/
def Dev.tick (d : Dev) : Dev :=
  let d1 : Dev := { d with nowUs := d.nowUs + 1 }
  let d2 := d1.tickCycles.tickWaits
  let d3 := if d2.timeRuns then d2.modTime TimePart.tick else d2
  { d3 with ctrs := { d3.ctrs with bwLeft := d3.ctrs.bwLeft - 1 } }

def State.tick (s : State) : State := s.onDev Dev.tick

end Sys2Proof.Machine
end

