-- ==== Sys2Proof/Safety.lean ====
section
/-! DEFINITION. What counts as a safe run, and the terms the statements use: a command that may be carried out, the reply it
leaves, the parts of a state that a command keeps. -/
namespace Sys2Proof.Machine

/-- A step goes on. -/
def State.Steps (s : State) : Prop := ∃ t, step s = .next t

/-- The command c waits under a tag with an opcode, may be admitted, and is the command its number finds (R409, R411). -/
def Dev.Takes (d : Dev) (tag : Tag) (op : Byte) (c : Cmd) : Prop := d.taken tag op = some c ∧ d.cmd c.id = some c

/-- A command that is not of the bounded class: no DEADLINE bears on its status (R430). -/
def Cmd.Unbounded (c : Cmd) : Prop := c.pkt.cls ≠ 2#2

/-- A command's reply waits to be written with a status and a body; nothing else of the device has changed (R400). -/
def Dev.replied (id : Nat) (status : Half) (body : List Byte) (d : Dev) : Dev :=
  { d with link := { d.link with
      cmds := updFirst (fun c => c.id == id) (fun c => { c with phase := .done, reply := { status := status, body := body } }) d.link.cmds,
      replies := d.link.replies ++ [id] } }

/-- A job's step, carried by no launch, has ended early with ST_STEP_REPEAT and a REASON (R378): its slots and marks are gone, its
commands ended, the step number as before, and its messages are discarded from then on. Only what a step touches has changed. -/
def State.StepEndsEarly (s t : State) (j : GradJob) (reason : Nat) : Prop :=
  t = { s with dev := { s.dev with
    out := t.dev.out, link := t.dev.link, mem := t.dev.mem, ctrs := t.dev.ctrs, candle := t.dev.candle, fabric := t.dev.fabric,
    coll := { s.dev.coll with slots := t.dev.coll.slots, marks := t.dev.coll.marks, red := t.dev.coll.red, seen := t.dev.coll.seen,
                              jobs := t.dev.coll.jobs } } } ∧
  (∃ j' : GradJob, t.dev.job j.id = some j' ∧ j'.aborted = true ∧ j'.reason = some reason ∧ j'.step = j.step ∧ j'.cmds = [] ∧
    j'.ready = [] ∧ j'.inFlight = [] ∧ j'.todo = []) ∧
  (∀ y ∈ t.dev.coll.slots, ¬ (y.key.job = j.id ∧ y.key.step = j.step)) ∧
  (∀ y ∈ t.dev.coll.marks, ¬ (y.2.job = j.id ∧ y.2.step = j.step)) ∧
  (∀ c : Cmd, j.cmds = [c.id] → s.dev.cmd c.id = some c → c.phase ≠ .done → c.Unbounded →
    ∃ body, t.dev.link = (s.dev.replied c.id stStepRepeat body).link) ∧
  t.dev.coll.seen.getLsbD 0 = true

/-- A device address lies in no program's reservation in the scratchpads of a set of kilns (R203), where groups are saved (R91). -/
def Dev.Unreserved (m : Fin 12 → Bool) (d : Dev) (a : Nat) : Prop :=
  ∀ (k : Fin 12) p r, m k = true → p ∈ d.progs.programs → d.reservation p k.val = some r → ¬ (r.1 ≤ a ∧ a < r.1 + r.2)

/-- The kilns of a mask have halted (R533): of their tiles, those that run nothing have saved their groups, and every pipeline its rows.
Other kilns and other tiles are as they were, and so is memory outside the reservations the saved groups lie in. -/
def Dev.Halts (m : Fin 12 → Bool) (d e : Dev) : Prop :=
  (∀ k : Fin 12,
    (m k = false → e.kilns.get k = d.kilns.get k) ∧
    (m k = true → e.kilns.get k = { d.kilns.get k with
        halted := true, tiles := (e.kilns.get k).tiles, pipes := (d.kilns.get k).pipes.map fun q => (q.1, { q.2 with saved := true }) } ∧
      ∀ i : Fin 16,
        let x := (d.kilns.get k).tiles.get i
        (e.kilns.get k).tiles.get i = if x.running.isSome then x else { x with groups := x.groups.map fun g => { g with saved := true } })) ∧
  ∀ a, d.Unreserved m a → e.mem.read a = d.mem.read a

/-- From d to e the device has sent flits (R317, R320, R322): what changes is what was sent out, the counters, and the sender's side of
the ports. -/
def Dev.Sends (d e : Dev) : Prop :=
  e = { d with out := e.out, ctrs := { d.ctrs with blocks := e.ctrs.blocks, portBw := e.ctrs.portBw },
               fabric := { d.fabric with ports := e.fabric.ports } } ∧
  (∃ l, e.out = l ++ d.out) ∧
  ∀ q, e.port q = { d.port q with
    queue := (e.port q).queue, retry := (e.port q).retry, txSeq := (e.port q).txSeq, credits := (e.port q).credits, owed := (e.port q).owed,
    opens := (e.port q).opens, turn := (e.port q).turn }

/-- A flit of a type with a content has been sent by a port since d, or waits there for credit or room (R320, R322). -/
def Dev.Offers (p : Fin 128) (type : Nat) (b : FlitBody) (d e : Dev) : Prop :=
  (∃ g ∈ (e.port p).queue, g.body = b ∧ g.head.type = type) ∨
  ∃ l g, e.out = l ++ d.out ∧ Output.flit p g ∈ l ∧ g.body = b ∧ g.head.type = type

/-- A port after its lane moved (R326): from the lane's wavelength to the good wavelength in no use, the lowest; the old one is out of
service. -/
def Port.Moved (lane : Nat) (old : Fin 9) (x y : Port) : Prop :=
  ∃ new : Fin 9, ((List.finRange 9).filter fun w : Fin 9 => x.lanes.getLsbD w.val)[lane]? = some old ∧
    x.good.getLsbD old.val = true ∧ x.good.getLsbD new.val = true ∧ x.lanes.getLsbD new.val = false ∧
    (∀ w : Fin 9, w < new → (x.good.getLsbD w.val && !x.lanes.getLsbD w.val) = false) ∧
    y = { x with swap := none, spareSeen := true, lanes := y.lanes, good := y.good } ∧
    ∀ w : Fin 9, y.lanes.getLsbD w.val = (decide (w = new) || x.lanes.getLsbD w.val && decide (w ≠ old)) ∧
      y.good.getLsbD w.val = (x.good.getLsbD w.val && decide (w ≠ old))

/-- No collective waits: no operation, job or bind is in flight and the device does not leave its fabric. -/
def Dev.CollIdle (d : Dev) : Prop := d.coll.ops = [] ∧ d.coll.jobs = [] ∧ d.coll.binds = [] ∧ d.fabric.leave = none

/-- From d to e the device has told its links to the fabric, where it is a member: a new version of its entry in the database, flooded on
every port that carries DATA, and routes from it (R341). Otherwise nothing changes. -/
def Dev.Announces (d e : Dev) : Prop :=
  let f := d.fabric
  if f.nodeValid = true ∧ f.state = 2#2 then
    Dev.Sends { d with freeCtr := e.freeCtr, fabric := { f with
      lsVersion := f.lsVersion + 1, routes := e.fabric.routes,
      lsdb := f.lsdb.filter (fun n => n.node != f.node) ++ [{ node := f.node, version := f.lsVersion + 1, links := d.ownLinks }] } } e ∧
    ∀ q, (d.port q).carries = true → d.Offers q 4 (.route (.linkState f.node (f.lsVersion + 1) d.ownLinks)) e
  else e = d

/-- From d to e port p has gone down to a state (R323, R333, R341): what it held is lost, messages that came or went by it are aborted on
their other hop, and where it carried DATA the loss is announced. -/
def Dev.LinkDown (p : Fin 128) (st : BitVec 3) (d e : Dev) : Prop :=
  let f := d.fabric
  ∃ d1 : Dev,
    Dev.Sends { d with fabric := { f with
        ports := f.ports.set p { d.port p with
          state := st, peerSeen := false, replays := 0, swap := none, auth := {}, rxSeq := 0, retraining := false },
        partials := f.partials.filter (fun m => m.port != p),
        transits := f.transits.filter fun t => t.port != p && t.out != some p } } d1 ∧
    (d1.port p).retry = [] ∧ (d1.port p).queue = [] ∧ (d1.port p).txSeq = 0 ∧
    (∀ t ∈ f.transits, t.out = some p → t.port ≠ p → d.Offers t.port 5 .none d1) ∧
    (∀ t ∈ f.transits, ∀ o, t.port = p → t.out = some o → o ≠ p → d.Offers o 5 .none d1) ∧
    (if (d.port p).carries then d1.Announces e else e = d1)

/-- From d to e a membership event, new to the device, has been applied (R349, R350): it counts once, the member it names leaves the
database, the epoch of every group that has that member advances, and what was bound to the earlier epoch ends with ST_GROUP_CHANGED. -/
def Dev.EventTaken (ev : MemberEvent) (d e : Dev) : Prop :=
  let f := d.fabric
  let touched (h : Nat) : Prop := ∃ g ∈ d.coll.groups, g.members.contains ev.node = true ∧ g.handle = h
  e.fabric.applied = (ev.origin, ev.seq) :: f.applied ∧ e.fabric.memberSeq = max f.memberSeq ev.seq ∧
  e.fabric.lostPeerSeen = (f.lostPeerSeen || ev.loss) ∧ e.fabric.lsdb = f.lsdb.filter (fun n => n.node != ev.node || n.node == f.node) ∧
  e.link.events.getLsbD evFabric = true ∧
  ((d.coll.groups.map (·.handle)).Nodup → e.coll.groups = d.coll.groups.map fun g =>
    if g.members.contains ev.node then (if g.events < 0xFFFF then { g with events := g.events + 1 } else { g with stale := true }) else g) ∧
  (∀ b ∈ e.coll.binds, b.members.contains ev.node = false) ∧ (∀ o ∈ e.coll.ops, ¬ touched o.d.group) ∧
  ((∀ j ∈ d.coll.jobs, ¬ touched j.group) →
    e = { d with out := e.out, freeCtr := e.freeCtr, ctrs := { d.ctrs with blocks := e.ctrs.blocks, portBw := e.ctrs.portBw },
                 link := { d.link with cmds := e.link.cmds, replies := e.link.replies, events := e.link.events, msix := e.link.msix },
                 launches := e.launches, candle := { d.candle with seen := e.candle.seen },
                 fabric := { e.fabric with
                   linkCfg := f.linkCfg, lasers := f.lasers, role := f.role, node := f.node, nodeValid := f.nodeValid, state := f.state,
                   coordinator := f.coordinator, idConflictSeen := f.idConflictSeen, lsVersion := f.lsVersion,
                   fingerprints := (f.forgetId ev.node).fingerprints, assigned := (f.forgetId ev.node).assigned, nextMsg := f.nextMsg, partials := f.partials, recent := f.recent, inbox := f.inbox, join := f.join,
                   electAt := f.electAt, leave := f.leave, keptPort := f.keptPort, engineOut := f.engineOut },
                 coll := { d.coll with groups := e.coll.groups, binds := e.coll.binds, ops := e.coll.ops, ready := e.coll.ready } } ∧
    ∀ o ∈ d.coll.ops, touched o.d.group → ∀ c : Cmd, d.cmd o.id = some c → c.phase ≠ .done → c.Unbounded →
      ∃ c' : Cmd, e.cmd o.id = some c' ∧ c'.phase = .done ∧ c'.reply.status = stGroupChanged ∧ o.id ∈ e.link.replies)

/-- What every enabled ring keeps: a size of 6 to 16, indices below it, and for a submission ring an enabled completion ring (R394 to
R398). -/
def State.RingsOk (s : State) : Prop :=
  (∀ n : Fin 64, (s.sq n).enable = true →
    6 ≤ (s.sq n).log2.toNat ∧ (s.sq n).log2.toNat ≤ 16 ∧ (s.sq n).head.toNat < 2 ^ (s.sq n).log2.toNat ∧
    (s.sq n).tail.toNat < 2 ^ (s.sq n).log2.toNat ∧ (s.cq (Fin.ofNat 64 (s.sq n).cq.toNat)).enable = true) ∧
  (∀ n : Fin 64, (s.cq n).enable = true →
    6 ≤ (s.cq n).log2.toNat ∧ (s.cq n).log2.toNat ≤ 16 ∧ (s.cq n).head.toNat < 2 ^ (s.cq n).log2.toNat ∧
    (s.cq n).tail.toNat < 2 ^ (s.cq n).log2.toNat)

/-- The value of a polynomial of degree below 17 over GF(2) at an element of GF(2)[x] modulo x^7 + x + 1, where 2 is α (R499). -/
def gfAt (p b : Nat) : Nat :=
  ((List.range 17).map fun i => b2n (p.testBit i)).foldr (fun c acc => gfMod minPoly1 7 7 (gfMul 7 acc b) ^^^ c) 0

/-- Bits in which two codewords differ (R499). -/
def bitsApart (x y : Nat) : List Nat := (List.range 80).filter fun i => x.testBit i != y.testBit i

end Sys2Proof.Machine
end

