-- ==== Sys2Proof/Certificates/Slice0/Obligations.lean ====
section
/-! DEFINITION. The statements for the provers. -/

open Sys2Proof Sys2Proof.Machine

-- The queue and the state after reset

/-- One step carries out the command at the front of the queue on the state with the rest of the queue. -/
def Obligations.StepRunsFrontCommand : Prop :=
  ∀ (c : Instr) (rest : List Instr) (s : State), s.pending = c :: rest → step s = exec c { s with pending := rest }

/-- What reset leaves in the registers to which the spec gives a reset value (R389, R394, R395 and the tables of the other
registers), read as the host reads them; nothing waits and no byte of memory is listed. -/
def Obligations.ResetLeavesRegistersAtTheirResetValues : Prop :=
  (∀ n : Fin 64, State.reset.regValue (.sqBase n) = 0 ∧ State.reset.regValue (.sqCfg n) = 0x00710000 ∧
    State.reset.regValue (.sqHead n) = 0 ∧ State.reset.regValue (.cqBase n) = 0 ∧ State.reset.regValue (.cqCfg n) = 0x00100000) ∧
  State.reset.regValue .bar2Map = 0x4000 ∧ State.reset.regValue .eventStatus = 0 ∧ State.reset.regValue .eventEnable = 0 ∧
  State.reset.pending = [] ∧ State.reset.dev.mem.cells = []

-- Rings (R392 to R398)

/-- R397, clause by clause: a base is taken whole by a ring that is not enabled, and discarded whole by an enabled one; setting ENABLE
takes effect only where LOG2_ENTRIES is 6 to 16 and, for a submission ring, the completion ring it names is enabled, with the indices at
0 and the reply phase at 1; a write to an enabled ring's configuration leaves LOG2_ENTRIES and CQ, and takes the rest; clearing ENABLE
stops fetching and leaves the commands in flight as they were; a completion ring that an enabled submission ring names, or to which a
command in flight will reply, stays enabled. Every refused write sets CFG_ERR and counts a register-protocol error. R3: a write that
sets a reserved bit is discarded whole and counted. Nothing else changes, but for a held lower half of a base that is taken. -/
def Obligations.RingsAreConfigured : Prop :=
  (∀ (n : Fin 64) (v : Long) (s : State), s.dev.ringsOpen = true → v.toNat % 4096 = 0 →
     ((s.sq n).enable = false → exec (.ringBaseWrite false n v) s =
       .next ((s.setSq n { s.sq n with base := v }).onDev (Dev.dropHold (.sqBase n)))) ∧
     ((s.sq n).enable = true → exec (.ringBaseWrite false n v) s =
       .next ((s.setSq n { s.sq n with cfgErr := true }).onDev Dev.protoError)) ∧
     ((s.cq n).enable = false → exec (.ringBaseWrite true n v) s =
       .next ((s.setCq n { s.cq n with base := v }).onDev (Dev.dropHold (.cqBase n)))) ∧
     ((s.cq n).enable = true → exec (.ringBaseWrite true n v) s =
       .next ((s.setCq n { s.cq n with cfgErr := true }).onDev Dev.protoError))) ∧
  (∀ (n : Fin 64) (v : Word) (s : State), s.dev.ringsOpen = true → v &&& 0xFF80C080#32 = 0#32 → v.getLsbD 5 = true →
     (s.sq n).enable = false →
     (6 ≤ (v.extractLsb' 0 5).toNat ∧ (v.extractLsb' 0 5).toNat ≤ 16 ∧
         (s.cq (Fin.ofNat 64 (v.extractLsb' 8 6).toNat)).enable = true →
       exec (.sqEnable n v) s = .next (s.setSq n
         { base := (s.sq n).base, log2 := v.extractLsb' 0 5, enable := true, cfgErr := (s.sq n).cfgErr && !v.getLsbD 6,
           cq := v.extractLsb' 8 6, weight := v.extractLsb' 16 4, classMask := v.extractLsb' 20 3, head := 0, tail := 0 })) ∧
     ((v.extractLsb' 0 5).toNat < 6 ∨ 16 < (v.extractLsb' 0 5).toNat ∨
         (s.cq (Fin.ofNat 64 (v.extractLsb' 8 6).toNat)).enable = false →
       exec (.sqEnable n v) s = .next ((s.setSq n
         { s.sq n with log2 := v.extractLsb' 0 5, cfgErr := true, cq := v.extractLsb' 8 6, weight := v.extractLsb' 16 4,
                       classMask := v.extractLsb' 20 3 }).onDev Dev.protoError))) ∧
  (∀ (n : Fin 64) (v : Word) (s : State), s.dev.ringsOpen = true → v &&& 0x00080000#32 = 0#32 → v.getLsbD 5 = true →
     (s.cq n).enable = false →
     (6 ≤ (v.extractLsb' 0 5).toNat ∧ (v.extractLsb' 0 5).toNat ≤ 16 →
       ∃ q : Cq, exec (.cqEnable n v) s = .next (s.setCq n q) ∧ q.enable = true ∧ q.base = (s.cq n).base ∧ q.log2 = v.extractLsb' 0 5 ∧
         q.vector = v.extractLsb' 8 11 ∧ q.coalesceCount = v.extractLsb' 20 8 ∧ q.coalesceUs = v.extractLsb' 28 4 ∧
         q.cfgErr = ((s.cq n).cfgErr && !v.getLsbD 6) ∧ q.fullSeen = ((s.cq n).fullSeen && !v.getLsbD 7) ∧
         q.head = 0 ∧ q.tail = 0 ∧ q.phase = true) ∧
     ((v.extractLsb' 0 5).toNat < 6 ∨ 16 < (v.extractLsb' 0 5).toNat →
       ∃ q : Cq, exec (.cqEnable n v) s = .next ((s.setCq n q).onDev Dev.protoError) ∧ q.enable = false ∧ q.base = (s.cq n).base ∧
         q.cfgErr = true)) ∧
  (∀ (n : Fin 64) (v : Word) (s : State), s.dev.ringsOpen = true → v.getLsbD 5 = true →
     (v &&& 0xFF80C080#32 = 0#32 → (s.sq n).enable = true →
       (v.extractLsb' 0 5 = (s.sq n).log2 → v.extractLsb' 8 6 = (s.sq n).cq →
         exec (.sqEnable n v) s = .next (s.setSq n
           { s.sq n with cfgErr := (s.sq n).cfgErr && !v.getLsbD 6, weight := v.extractLsb' 16 4, classMask := v.extractLsb' 20 3 })) ∧
       (v.extractLsb' 0 5 ≠ (s.sq n).log2 ∨ v.extractLsb' 8 6 ≠ (s.sq n).cq →
         exec (.sqEnable n v) s = .next ((s.setSq n
           { s.sq n with cfgErr := true, weight := v.extractLsb' 16 4, classMask := v.extractLsb' 20 3 }).onDev Dev.protoError))) ∧
     (v &&& 0x00080000#32 = 0#32 → (s.cq n).enable = true →
       (v.extractLsb' 0 5 = (s.cq n).log2 → exec (.cqEnable n v) s = .next (s.setCq n
         { s.cq n with cfgErr := (s.cq n).cfgErr && !v.getLsbD 6, fullSeen := (s.cq n).fullSeen && !v.getLsbD 7,
                       vector := v.extractLsb' 8 11, coalesceCount := v.extractLsb' 20 8, coalesceUs := v.extractLsb' 28 4 })) ∧
       (v.extractLsb' 0 5 ≠ (s.cq n).log2 → exec (.cqEnable n v) s = .next ((s.setCq n
         { s.cq n with cfgErr := true, fullSeen := (s.cq n).fullSeen && !v.getLsbD 7, vector := v.extractLsb' 8 11,
                       coalesceCount := v.extractLsb' 20 8, coalesceUs := v.extractLsb' 28 4 }).onDev Dev.protoError)))) ∧
  (∀ (n : Fin 64) (v : Word) (s : State), s.dev.ringsOpen = true → v.getLsbD 5 = false →
     (v &&& 0xFF80C080#32 = 0#32 → (s.sq n).enable = true →
       v.extractLsb' 0 5 = (s.sq n).log2 → v.extractLsb' 8 6 = (s.sq n).cq →
       exec (.sqDisable n v) s = .next (s.setSq n
         { s.sq n with enable := false, cfgErr := (s.sq n).cfgErr && !v.getLsbD 6, weight := v.extractLsb' 16 4,
                       classMask := v.extractLsb' 20 3 })) ∧
     (v &&& 0xFF80C080#32 = 0#32 → (s.sq n).enable = true →
       (v.extractLsb' 0 5 ≠ (s.sq n).log2 ∨ v.extractLsb' 8 6 ≠ (s.sq n).cq) →
       exec (.sqDisable n v) s = .next ((s.setSq n
         { s.sq n with enable := false, cfgErr := true, weight := v.extractLsb' 16 4,
                       classMask := v.extractLsb' 20 3 }).onDev Dev.protoError)) ∧
     (v &&& 0x00080000#32 = 0#32 → (s.cq n).enable = true → v.extractLsb' 0 5 = (s.cq n).log2 →
       (∀ m : Fin 64, (s.sq m).enable = true → (s.sq m).cq.toNat ≠ n.val) → (∀ c ∈ s.dev.link.cmds, c.cq ≠ n) →
       exec (.cqDisable n v) s = .next (s.setCq n
         { s.cq n with enable := false, cfgErr := (s.cq n).cfgErr && !v.getLsbD 6, fullSeen := (s.cq n).fullSeen && !v.getLsbD 7,
                       vector := v.extractLsb' 8 11, coalesceCount := v.extractLsb' 20 8, coalesceUs := v.extractLsb' 28 4 })) ∧
     (v &&& 0x00080000#32 = 0#32 → (s.cq n).enable = true →
       (∃ m : Fin 64, (s.sq m).enable = true ∧ (s.sq m).cq.toNat = n.val) ∨ (∃ c ∈ s.dev.link.cmds, c.cq = n) →
       exec (.cqDisable n v) s = .next ((s.setCq n
         { s.cq n with enable := true, cfgErr := true, fullSeen := (s.cq n).fullSeen && !v.getLsbD 7,
                       vector := v.extractLsb' 8 11, coalesceCount := v.extractLsb' 20 8,
                       coalesceUs := v.extractLsb' 28 4 }).onDev Dev.protoError)) ∧
     (v &&& 0x00080000#32 = 0#32 → (s.cq n).enable = true → v.extractLsb' 0 5 ≠ (s.cq n).log2 →
       (∀ m : Fin 64, (s.sq m).enable = true → (s.sq m).cq.toNat ≠ n.val) → (∀ c ∈ s.dev.link.cmds, c.cq ≠ n) →
       exec (.cqDisable n v) s = .next ((s.setCq n
         { s.cq n with enable := false, cfgErr := true, fullSeen := (s.cq n).fullSeen && !v.getLsbD 7,
                       vector := v.extractLsb' 8 11, coalesceCount := v.extractLsb' 20 8,
                       coalesceUs := v.extractLsb' 28 4 }).onDev Dev.protoError))) ∧
  (∀ (n : Fin 64) (e : BitVec 512) (s : State), (s.sq n).enable = false → exec (.packetFetch n e) s = .next s) ∧
  (∀ (n : Fin 64) (v : Word) (s : State), s.dev.ringsOpen = true → v.getLsbD 5 = false →
    (v &&& 0xFF80C080#32 = 0#32 → (s.sq n).enable = false →
      exec (.sqDisable n v) s = .next (s.setSq n
        { s.sq n with log2 := v.extractLsb' 0 5, cq := v.extractLsb' 8 6, cfgErr := (s.sq n).cfgErr && !v.getLsbD 6,
                      weight := v.extractLsb' 16 4, classMask := v.extractLsb' 20 3 })) ∧
    (v &&& 0x00080000#32 = 0#32 → (s.cq n).enable = false →
      exec (.cqDisable n v) s = .next (s.setCq n
        { s.cq n with log2 := v.extractLsb' 0 5, cfgErr := (s.cq n).cfgErr && !v.getLsbD 6,
                      fullSeen := (s.cq n).fullSeen && !v.getLsbD 7, vector := v.extractLsb' 8 11,
                      coalesceCount := v.extractLsb' 20 8, coalesceUs := v.extractLsb' 28 4 }))) ∧
  (∀ (n : Fin 64) (b : Long) (v : Word) (s : State), s.dev.ringsOpen = true →
    (b.toNat % 4096 ≠ 0 → ∀ isCq : Bool, exec (.ringBaseWrite isCq n b) s = .next (s.onDev Dev.protoError)) ∧
    (v &&& 0xFF80C080#32 ≠ 0#32 → exec (.sqEnable n v) s = .next (s.onDev Dev.protoError) ∧
      exec (.sqDisable n v) s = .next (s.onDev Dev.protoError)) ∧
    (v &&& 0x00080000#32 ≠ 0#32 → exec (.cqEnable n v) s = .next (s.onDev Dev.protoError) ∧
      exec (.cqDisable n v) s = .next (s.onDev Dev.protoError)))

/-- R398: a doorbell of an enabled ring whose value is below the ring's size moves the submission ring's tail, or the completion
ring's head; any other value, or a ring that is not enabled, sets CFG_ERR of the ring and counts a register-protocol
error. -/
def Obligations.DoorbellsMoveTheRing : Prop :=
  ∀ (n : Fin 64) (v : Word) (s : State), s.dev.ringsOpen = true →
    ((s.sq n).enable = true → v.toNat < 2 ^ (s.sq n).log2.toNat →
      exec (.sqDoorbell n v) s = .next (s.setSq n { s.sq n with tail := BitVec.ofNat 16 v.toNat })) ∧
    ((s.sq n).enable = false ∨ 2 ^ (s.sq n).log2.toNat ≤ v.toNat →
      exec (.sqDoorbell n v) s = .next ((s.setSq n { s.sq n with cfgErr := true }).onDev Dev.protoError)) ∧
    ((s.cq n).enable = true → v.toNat < 2 ^ (s.cq n).log2.toNat →
      exec (.cqDoorbell n v) s = .next (s.setCq n { s.cq n with head := BitVec.ofNat 16 v.toNat })) ∧
    ((s.cq n).enable = false ∨ 2 ^ (s.cq n).log2.toNat ≤ v.toNat →
      exec (.cqDoorbell n v) s = .next ((s.setCq n { s.cq n with cfgErr := true }).onDev Dev.protoError))

-- Packets and replies (R399 to R403, R410, R411, R556)

/-- R403: the checks of a fetched packet in their order, each with its status; a packet that passes them all waits with ST_OK. The tag is
held by a packet that got past the check of tags. R556: a host error on the read of a ring's entry disables the ring, sets CFG_ERR and
logs an AER event. R403: the oldest packet that failed its checks completes with its status and a body of zeros. -/
def Obligations.PacketsAreCheckedInOrder : Prop :=
  (∀ (q : Sq) (e : BitVec 512) (d : Dev), d.ember = false → d.start.recovery = false →
     (opClasses (parsePacket e).opcode = none → checkPacket q e d = (stOpcodeInvalid, false)) ∧
     (∀ cs : BitVec 3, opClasses (parsePacket e).opcode = some cs →
       let p := parsePacket e
       let formatBad := headerClean e = false ∨ (p.cls ≠ 2#2 ∧ p.deadline ≠ 0#48)
       let classBad := p.cls = 3#2 ∨ (cs &&& q.classMask).getLsbD p.cls.toNat = false
       let tagBusy := ∃ c ∈ d.link.cmds, c.holdsTag = true ∧ c.pkt.tag = p.tag
       (formatBad → checkPacket q e d = (stPacketFormat, false)) ∧
       (¬formatBad → classBad → checkPacket q e d = (stClassInvalid, false)) ∧
       (¬formatBad → ¬classBad → tagBusy → checkPacket q e d = (stTagBusy, false)) ∧
       (¬formatBad → ¬classBad → ¬tagBusy → operandsOk p = false → checkPacket q e d = (stPacketFormat, true)) ∧
       (¬formatBad → ¬classBad → ¬tagBusy → operandsOk p = true → checkPacket q e d = (stOk, true)))) ∧
  ((∀ (n : Fin 64) (s : State), s.dev.fetching = true → (s.sq n).enable = true → (s.sq n).head ≠ (s.sq n).tail →
     exec (.sqEntryReadError n) s =
       .next ((s.setSq n { s.sq n with enable := false, cfgErr := true }).onDev (Dev.emit (.aer .ringEntry)))) ∧
   (∀ (s : State) (c : Cmd), s.dev.link.cmds.find? (fun x => x.phase == .refused) = some c → s.dev.cmd c.id = some c →
     exec .opcodeInvalidPacket s = .next (s.onDev (Dev.replied c.id c.reply.status (vals 0 0 0)))))

/-- R399, R402, R410: the entry at HEAD becomes the newest command in flight, with the status of its checks, HEAD moves on by
one modulo the ring's size, and the round robin counts the packet. With 4,096 commands in flight nothing is fetched, and
TAG_LIMIT_SEEN is set. -/
def Obligations.PacketFetchAdmitsTheEntryAtHead : Prop :=
  ∀ (n : Fin 64) (e : BitVec 512) (s : State), s.dev.ready = true → (s.dev.power.state = 0#2 ∨ s.dev.power.state = 2#2) →
    (∃ i : Fin 9, (s.dev.repair.lamps.get i).ok = true) →
    (s.dev.link.cmds.length < 4096 → (s.sq n).enable = true → (s.sq n).head ≠ (s.sq n).tail →
      ((parsePacket e).opcode ∈ [0x14#8, 0x15#8, 0x16#8] ∨ s.dev.ringHeld n = false) →
      (∀ m ∈ s.rrOrder.takeWhile (· != n), (s.sq m).enable = false ∨ (s.sq m).head = (s.sq m).tail ∨ s.dev.ringHeld m = true) →
      let turn := if s.dev.link.rrRing = n ∧ s.dev.link.rrTaken < max 1 (s.sq n).weight.toNat then s.dev.link.rrTaken + 1 else 1
      ∃ (core_ : Nat) (t : State), exec (.packetFetch n e) s = .next t ∧ (∃ i : Fin 9, core_ = i.val ∧ (s.dev.repair.lamps.get i).ok = true) ∧
        t.pending = s.pending ∧
        t.rings = (s.setSq n { s.sq n with head := BitVec.ofNat 16 (((s.sq n).head.toNat + 1) % 2 ^ (s.sq n).log2.toNat) }).rings ∧
        t.dev = { s.dev.count hubDie 0x01 n.val 1 with
          freeCtr := s.dev.freeCtr + 1,
          link := { s.dev.link with
            cmds := s.dev.link.cmds ++ [
              { id := s.dev.link.nextId, sq := n, cq := Fin.ofNat 64 (s.sq n).cq.toNat, core := core_,
                holdsTag := (checkPacket (s.sq n) e s.dev).2, pkt := parsePacket e,
                phase := if (checkPacket (s.sq n) e s.dev).1 = stOk then .waiting else .refused,
                reply := { status := (checkPacket (s.sq n) e s.dev).1, body := [] } }],
            nextId := s.dev.link.nextId + 1, rrRing := n, rrTaken := turn,
            tagBusySeen := s.dev.link.tagBusySeen || (checkPacket (s.sq n) e s.dev).1 == stTagBusy } }) ∧
    (4096 ≤ s.dev.link.cmds.length → (s.sq n).enable = true → (s.sq n).head ≠ (s.sq n).tail →
      exec (.packetFetch n e) s = .next (s.onDev fun d => { d with link := { d.link with tagLimitSeen := true } }))

/-- R400, R406: the oldest reply that waits for an enabled completion ring with room is written whole at its tail with the
ring's phase, its command is in flight no more, the tail moves on and the phase inverts where the tail wraps to entry 0. Where the ring
is full the reply waits and FULL_SEEN is set. -/
def Obligations.RepliesGoToTheTail : Prop :=
  ∀ (n : Fin 64) (s : State) (c : Cmd), s.dev.link.replies.find? (fun id => s.dev.link.cmds.any fun x => x.id == id && x.cq == n) = some c.id →
    s.dev.cmd c.id = some c → (s.cq n).enable = true →
    (BitVec.ofNat 16 (((s.cq n).tail.toNat + 1) % 2 ^ (s.cq n).log2.toNat) ≠ (s.cq n).head →
      ∃ t : State, exec (.replyWrite n) s = .next t ∧ t.pending = s.pending ∧ t.rings = (s.setCq n (t.cq n)).rings ∧
        t.dev = { s.dev with out := t.dev.out, link := t.dev.link, ctrs := t.dev.ctrs, candle := t.dev.candle, power := t.dev.power,
                             pins := t.dev.pins } ∧
        Output.ringWrite n ((s.cq n).base.toNat + 32 * (s.cq n).tail.toNat)
          (leBytes 2 c.reply.status.toNat ++ leBytes 2 (c.pkt.tag.toNat + b2n (s.cq n).phase * 2 ^ 15) ++ [c.pkt.opcode] ++
           leBytes 1 c.sq.val ++ leBytes 2 (s.sq c.sq).head.toNat ++ (c.reply.body ++ List.replicate 24 0#8).take 24) ∈ t.dev.out ∧
        (t.cq n).tail = BitVec.ofNat 16 (((s.cq n).tail.toNat + 1) % 2 ^ (s.cq n).log2.toNat) ∧
        (t.cq n).phase = ((s.cq n).phase ^^ ((t.cq n).tail == 0#16)) ∧
        (∀ x ∈ t.dev.link.cmds, x.id ≠ c.id) ∧ c.id ∉ t.dev.link.replies) ∧
    (BitVec.ofNat 16 (((s.cq n).tail.toNat + 1) % 2 ^ (s.cq n).log2.toNat) = (s.cq n).head →
      exec (.replyWrite n) s = .next ((s.setCq n { s.cq n with fullSeen := true }).onDev fun d =>
        { d with link := { d.link with cqFullSeen := true } }))

/-- R401: COALESCE_US after the first reply not yet covered, the ring's vector sends its message; where Function Mask or the vector's Mask
bit is 1 its pending bit is set instead, and where MSI-X Enable is 0 nothing is sent. R401: when a mask clears, every vector whose pending
bit is set and which no mask holds any more sends its message and loses its pending bit; only the messages sent and the MSI-X part of the
state change. -/
def Obligations.MessagesFollowTheirMasks : Prop :=
  (∀ (n : Fin 64) (s : State), 0 < (s.cq n).uncovered → (s.cq n).vector ≠ 0#11 → (s.cq n).coverAt ≤ s.dev.nowUs →
     let v := (s.cq n).vector.toNat
     let e := s.dev.link.msix.entry v
     let s' := s.setCq n { s.cq n with uncovered := 0 }
     (s.dev.link.msix.enable = true → s.dev.link.msix.functionMask = false → e.control.getLsbD 0 = false →
       exec (.msixCoalesceTimeout n) s =
         .next (s'.onDev (Dev.emit (.msix v (BitVec.ofNat 64 (e.addrLo.toNat + e.addrHi.toNat * 2 ^ 32)) e.data)))) ∧
     (s.dev.link.msix.enable = true → (s.dev.link.msix.functionMask = true ∨ e.control.getLsbD 0 = true) →
       exec (.msixCoalesceTimeout n) s = .next (s'.onDev fun d => { d with link := { d.link with msix :=
         { d.link.msix with pending := insertNat v d.link.msix.pending } } })) ∧
     (s.dev.link.msix.enable = false → exec (.msixCoalesceTimeout n) s = .next s')) ∧
  (∀ (v : Option (Fin 2048)) (s : State), s.dev.link.msix.enable = true →
     ∃ t : State, exec (.msixUnmask v) s = .next t ∧
       t = { s with dev := { s.dev with out := t.dev.out, link := { s.dev.link with msix := t.dev.link.msix } } } ∧
       (∀ k : Fin 2048, v = some k → (t.dev.link.msix.entry k.val).control = (s.dev.link.msix.entry k.val).control &&& ~~~1#32) ∧
       (v = none → t.dev.link.msix.functionMask = false) ∧
       (t.dev.link.msix.functionMask = false → ∀ w ∈ s.dev.link.msix.pending, (t.dev.link.msix.entry w).control.getLsbD 0 = false →
         w ∉ t.dev.link.msix.pending ∧
         Output.msix w (BitVec.ofNat 64 ((t.dev.link.msix.entry w).addrLo.toNat + (t.dev.link.msix.entry w).addrHi.toNat * 2 ^ 32))
           (t.dev.link.msix.entry w).data ∈ t.dev.out))

/-- R411: a FENCE completes with ST_OK once no command fetched earlier is in flight: on its ring, or on any ring where ALL_RINGS is
set. While one is, it holds its ring's later packets. R404: NOP completes with ST_OK and does nothing else. -/
def Obligations.NopAndFenceComplete : Prop :=
  (∀ (tag : Tag) (s : State) (c : Cmd), s.dev.Takes tag 0x01#8 c → c.Unbounded →
    exec (.nop tag) s = .next (s.onDev (Dev.replied c.id stOk (vals 0 0 0)))) ∧
  (∀ (tag : Tag) (s : State) (c : Cmd), s.dev.Takes tag 0x02#8 c → c.Unbounded →
    (∀ e ∈ s.dev.link.cmds, e.id = c.id → e = c) →
    ∃ t : State, exec (.fence tag) s = .next t ∧
      t = { s with dev := { s.dev with link := { s.dev.link with cmds := t.dev.link.cmds, replies := t.dev.link.replies },
                                       candle := t.dev.candle } } ∧
      ((∀ e ∈ s.dev.link.cmds, e.id < c.id → e.sq ≠ c.sq ∧ c.pkt.o0.getLsbD 0 = false) →
        t.dev.cmd c.id = some { c with phase := .done, reply := { status := stOk, body := vals 0 0 0 } } ∧ c.id ∈ t.dev.link.replies) ∧
      ((∃ e ∈ s.dev.link.cmds, e.id < c.id ∧ (e.sq = c.sq ∨ c.pkt.o0.getLsbD 0 = true)) →
        t.dev.cmd c.id = some { c with phase := .fence } ∧ t.dev.ringHeld c.sq = true))

/-- The number of a fetched command is new: fetching a packet and writing a reply keep the numbers of the commands in flight
distinct and below the next one. -/
def Obligations.CommandNumbersStayDistinct : Prop :=
  ∀ (s : State), (s.dev.link.cmds.map (·.id)).Nodup → (∀ c ∈ s.dev.link.cmds, c.id < s.dev.link.nextId) →
    ∀ (i : Instr) (t : State), ((∃ n e, i = .packetFetch n e) ∨ (∃ n, i = .replyWrite n) ∨ (∃ n, i = .sqEntryReadError n) ∨
        i = .opcodeInvalidPacket ∨ (∃ tag, i = .nop tag) ∨ (∃ tag, i = .fence tag)) →
      exec i s = .next t → (t.dev.link.cmds.map (·.id)).Nodup ∧ (∀ c ∈ t.dev.link.cmds, c.id < t.dev.link.nextId)

-- Registers and BAR2 (R2 to R4, R386 to R389, R405, R415, R423)

/-- R2, R3: a register write whose reserved bits are zero is read back in the fields that are RW, clears the RW1C bits it writes 1 to, and
leaves RO registers as they were. The device is ready and its dies are up. Rings, memory, programs, launches and the queue stay. R3, R415:
a write that has a reserved bit set is discarded whole and counts one register-protocol error, whatever register it names; R102: another
write to KLN_SACC_SEL outside debug mode is ignored. -/
def Obligations.RegisterWritesTakeTheirFields : Prop :=
  (∀ (r : Reg) (v : Long) (s : State), s.dev.ready = true → s.dev.power.state = 0#2 → v.toNat < 2 ^ 32 → v.toNat &&& r.rsv = 0 →
     (r ∈ [Reg.eventEnable, .bar2Map, .prioMap, .gradCfg, .scrubCfg, .ctrGrant, .bwCfg, .migCfg, .unifiedCfg] ∨
         (∃ l, r = .linkCfg l) →
       ∃ t : State, exec (.registerWrite r .whole v) s = .next t ∧ t.regValue r = v.toNat ∧
         t = { s with dev := { s.dev with link := t.dev.link, tier := t.dev.tier, coll := t.dev.coll, repair := t.dev.repair,
                                          ctrs := t.dev.ctrs, fabric := t.dev.fabric } }) ∧
     (r = .eventStatus → ∃ t : State, exec (.registerWrite r .whole v) s = .next t ∧
         t.dev.link.events = s.dev.link.events &&& ~~~BitVec.ofNat 8 v.toNat ∧
         t = { s with dev := { s.dev with link := { s.dev.link with events := t.dev.link.events } } }) ∧
     (r ∈ [Reg.fnSlotStatus, .unifiedStatus, .crkMemStatus, .timeNow, .candleState, .pwrCap, .startStatus, .ledgerVersion] ∨
         (∃ n, r = .sqHead n) ∨ (∃ k, r = .dieStatus k) ∨ (∃ k, r = .saccData k) ∨ (∃ l p, r = .portPeer l p) →
       exec (.registerWrite r .whole v) s = .next s)) ∧
  (∀ (r : Reg) (v : Long) (s : State), s.dev.ready = true → s.dev.power.state = 0#2 → (r.is64 = true ∨ v.toNat < 2 ^ 32) →
     (v.toNat &&& r.rsv ≠ 0 → exec (.registerWrite r .whole v) s = .next (s.onDev Dev.protoError)) ∧
     (v.toNat &&& r.rsv = 0 → ∀ k, r = .saccSel k → s.dev.ctrs.debugMode = false → exec (.registerWrite r .whole v) s = .next s))

/-- R388: a lower half alone changes nothing that a read returns; the upper half then writes the register as one 8-byte write of the two
halves does. Without a lower half held, the upper half combines with the register's lower 32 bits. R423: a read of the low half of an
8-byte register returns bits [31:0] and latches bits [63:32] of the same instant, which the high half then returns. R388, R415: an access
that is no register's is an error: a read returns zeros, a write is discarded, and the count of register-protocol errors rises by one,
held at 0xFFFF. -/
def Obligations.WideRegistersMoveInHalves : Prop :=
  ((∀ (r : Reg) (lo hi : Word) (s : State), r.is64 = true → s.dev.halfOpen r = true →
      (exec (.reg64LowerHalfWrite r lo) s = .next (s.onDev fun d => { d with link := { d.link with
        holds := d.link.holds.filter (fun h => h.1 != r) ++ [(r, lo)] } })) ∧
      (exec (.registerWrite r .lower (lo.setWidth 64)) s = exec (.reg64LowerHalfWrite r lo) s) ∧
      (∀ t : State, exec (.reg64LowerHalfWrite r lo) s = .next t →
        (∀ r' : Reg, t.regRead r' = s.regRead r') ∧
        exec (.registerWrite r .upper (hi.setWidth 64)) t =
          exec (.registerWrite r .whole (BitVec.ofNat 64 (lo.toNat + 2 ^ 32 * hi.toNat))) t) ∧
      (s.dev.link.holds.find? (fun h => h.1 == r) = none →
        exec (.registerWrite r .upper (hi.setWidth 64)) s =
          exec (.registerWrite r .whole (BitVec.ofNat 64 (s.regValue r % 2 ^ 32 + 2 ^ 32 * hi.toNat))) s)) ∧
   (∀ (r : Reg) (s : State), r.is64 = true → s.dev.ready = true → (r.onHub = true ∨ s.dev.power.state = 0#2) →
      ∃ t : State, exec (.reg64LowHalfRead r) s = .next t ∧
        t = { s with dev := { s.dev with out := .readData (leBytes 4 (s.regRead r)) false :: s.dev.out,
                                         link := { s.dev.link with latched := t.dev.link.latched } } } ∧
        t.highRead r = s.regRead r / 2 ^ 32 % 2 ^ 32)) ∧
  (∀ (n : Nat) (s : State), s.dev.pins.perstN = true →
     let counted (d : Dev) : Dev := { d.count hubDie 0x09 0 1 with
       link := { d.link with protoErrors := BitVec.ofNat 16 (min 0xFFFF (d.link.protoErrors.toNat + 1)) } }
     exec (.registerProtocolError true n) s =
       .next (s.onDev fun d => counted { d with out := .readData (List.replicate n 0#8) false :: d.out }) ∧
     exec (.registerProtocolError false n) s = .next (s.onDev counted))

/-- R389: BAR2 offset o reaches the base, rounded down to the BAR2 size, plus o. A read in range, of words that read without error,
returns the bytes there; a write in range, outside every context pool, that covers every poisoned word whole, puts its bytes there and
changes no other byte. R223, R469: a BAR2 access outside every range of memory, or in ember, is a register-protocol error: a read returns
zeros and a write is discarded. -/
def Obligations.Bar2ReachesDeviceMemory : Prop :=
  (∀ (off : Nat) (s : State), s.dev.ready = true → s.dev.power.state = 0#2 → Memory.wf s.dev.mem = true →
     let size := 2 ^ s.dev.link.bar2Size * 0x40000000
     let a := (s.dev.link.bar2Base.toNat * 0x40000000 / size * size + off) % 2 ^ 48
     (∀ len : Nat, s.dev.daOk a len = true → (∀ w ∈ wordsOf a len, s.dev.mem.poisoned w = false) →
       ∃ t : State, exec (.bar2Read off len []) s = .next t ∧
         t = { s with dev := { s.dev with out := .readData ((List.range len).map fun i => s.dev.mem.read (a + i)) false :: s.dev.out,
                                          tier := t.dev.tier, ctrs := t.dev.ctrs, caches := t.dev.caches } }) ∧
     (∀ bs : List Byte, s.dev.daOk a bs.length = true → s.dev.inPools a bs.length = false →
       (∀ w ∈ wordsOf a bs.length, (s.dev.mem.unpoisonWhole a bs.length).poisoned w = false) →
       ∃ t : State, exec (.bar2Write off bs) s = .next t ∧
         t = { s with dev := { s.dev with mem := t.dev.mem, tier := t.dev.tier, ctrs := t.dev.ctrs, caches := t.dev.caches } } ∧
         (∀ (i : Nat) (h : i < bs.length), t.dev.mem.read (a + i) = bs[i]) ∧
         (∀ x, x < a ∨ a + bs.length ≤ x → t.dev.mem.read x = s.dev.mem.read x))) ∧
  (∀ (off : Nat) (s : State), s.dev.ready = true →
     (∀ (len : Nat) (ups : List (Nat × BitVec 80)), s.dev.power.state ≠ 0#2 ∨ s.dev.daOk (s.dev.link.bar2Da off) len = false →
       exec (.bar2Read off len ups) s = .next (s.onDev fun d => d.protoError.emit (.readData (List.replicate len 0#8) false))) ∧
     (∀ bs : List Byte, s.dev.power.state ≠ 0#2 ∨ s.dev.daOk (s.dev.link.bar2Da off) bs.length = false ∨
         s.dev.inPools (s.dev.link.bar2Da off) bs.length = true →
       exec (.bar2Write off bs) s = .next (s.onDev Dev.protoError)))

/-- R405: QUERY of a known item whose bytes fit writes them at the address and completes with their length; an item that is not
known is refused with ST_QUERY_ITEM, a space that is too small with ST_QUERY_SPACE, and a range that faults with
ST_ADDRESS. -/
def Obligations.QueryWritesItsItem : Prop :=
  ∀ (tag : Tag) (s : State) (c : Cmd), s.dev.Takes tag 0x03#8 c → c.Unbounded →
    let a := opDa c.pkt.o1
    (s.dev.queryBytes (opnd c.pkt.o0 15 0) (opnd c.pkt.o0 31 16) = none →
      exec (.query tag) s = .next (s.onDev (Dev.replied c.id stQueryItem (vals 0 0 0)))) ∧
    (∀ bs : List Byte, s.dev.queryBytes (opnd c.pkt.o0 15 0) (opnd c.pkt.o0 31 16) = some bs →
      (opnd c.pkt.o2 31 0 < bs.length → exec (.query tag) s = .next (s.onDev (Dev.replied c.id stQuerySpace (vals 0 0 0)))) ∧
      (bs.length ≤ opnd c.pkt.o2 31 0 → s.dev.daOk a bs.length = false →
        exec (.query tag) s = .next (s.onDev (Dev.replied c.id stAddress (vals 0 0 0)))) ∧
      (bs.length ≤ opnd c.pkt.o2 31 0 → s.dev.daOk a bs.length = true → s.dev.mem.storeStruck a bs.length = false →
        exec (.query tag) s = .next (s.onDev fun d => (d.write a bs).replied c.id stOk (vals bs.length 0 0))))

-- Programs and launches (R206 to R216, R405, R412 to R414)

/-- R206: an image that passes every check takes a handle below 256 that no program holds, and enters the program table as it was read;
PROGRAM_LOAD completes with the handle. The read counts towards the heat of window units. R206, R209: a PROGRAM_LOAD that a check refuses
loads nothing: a full table, a range that faults, a header, a digest, a numerics version or a planned image that fails, each with its
status, which HUB_PROG_STATUS keeps. R208: PROGRAM_UNLOAD completes with ST_OK; the program leaves the table unless a launch of it has not
ended, and otherwise retires. A handle without a live program is refused with ST_PROGRAM_INVALID, one that something holds with
ST_PROGRAM_BUSY. -/
def Obligations.ProgramsAreLoadedAndUnloaded : Prop :=
  (∀ (tag : Tag) (s : State) (c : Cmd) (im : Image), s.dev.Takes tag 0x10#8 c → c.Unbounded →
     let a := opDa c.pkt.o0
     let n := opnd c.pkt.o1 39 0
     let bs := s.dev.mem.readBytes a n
     s.dev.progs.programs.length < 256 → s.dev.daOk a n = true → s.dev.mem.firstPoison a n = none →
     headerOk bs n = true → digestOk bs = true → BitVec.ofNat 32 (bytesAt bs 19 16) = s.dev.numerics →
     parseImage bs = some im → s.dev.imageStatus im = none →
     ∃ h : Nat, h < 256 ∧ (∀ p ∈ s.dev.progs.programs, p.handle ≠ h) ∧
       exec (.programLoad tag) s = .next (s.onDev fun d => ({ d.heat a n with
         freeCtr := d.freeCtr + 1,
         progs := { d.progs with programs := d.progs.programs ++ [{ handle := h, image := im, retiring := false, scratch := im.scratchOf }] } } : Dev).replied
           c.id stOk (vals h 0 0))) ∧
  (∀ (tag : Tag) (s : State) (c : Cmd), s.dev.Takes tag 0x10#8 c →
     let a := opDa c.pkt.o0
     let n := opnd c.pkt.o1 39 0
     let bs := s.dev.mem.readBytes a n
     let refused (st : Half) : Host.Outcome State Fault Refusal := .next (s.onDev fun d =>
       ({ d with progs := { d.progs with lastRefusal := st } } : Dev).replied c.id st (vals 0 0 0))
     (256 ≤ s.dev.progs.programs.length → exec (.programLoad tag) s = .next (s.onDev fun d =>
       ({ d with progs := { d.progs with fullSeen := true, lastRefusal := stProgramTableFull } } : Dev).replied c.id stProgramTableFull
         (vals 0 0 0))) ∧
     (s.dev.progs.programs.length < 256 →
       (s.dev.daOk a n = false → exec (.programLoad tag) s = refused stAddress) ∧
       (s.dev.daOk a n = true → s.dev.mem.firstPoison a n = none →
         (headerOk bs n = false → exec (.programLoad tag) s = refused stImageFormat) ∧
         (headerOk bs n = true → digestOk bs = false → exec (.programLoad tag) s = refused stImageDigest) ∧
         (headerOk bs n = true → digestOk bs = true → BitVec.ofNat 32 (bytesAt bs 19 16) ≠ s.dev.numerics →
           exec (.programLoad tag) s = refused stNumericsVersion) ∧
         (headerOk bs n = true → digestOk bs = true → BitVec.ofNat 32 (bytesAt bs 19 16) = s.dev.numerics → parseImage bs = none →
           exec (.programLoad tag) s = refused stImageFormat) ∧
         (∀ (im : Image) (st : Half), headerOk bs n = true → digestOk bs = true → BitVec.ofNat 32 (bytesAt bs 19 16) = s.dev.numerics →
           parseImage bs = some im → s.dev.imageStatus im = some st → st ≠ stDeadline → st ≠ stDebugDenied →
           exec (.programLoad tag) s = refused st)))) ∧
  (∀ (tag : Tag) (s : State) (c : Cmd), s.dev.Takes tag 0x11#8 c → c.Unbounded →
     let h := opnd c.pkt.o0 7 0
     (∀ p : Program, s.dev.progs.programs.find? (fun p => p.handle == h && !p.retiring) = some p → s.dev.programHeld h = false →
       let kept := (s.dev.progs.programs.map fun (p : Program) => if p.handle = h then { p with retiring := true } else p).filter fun p =>
         !p.retiring || s.dev.launches.any fun l => l.handle == p.handle && l.phase != .ended
       exec (.programUnload tag) s = .next (s.onDev fun d =>
         ({ d with progs := { d.progs with programs := kept } } : Dev).replied c.id stOk (vals 0 0 0))) ∧
     (∀ p : Program, s.dev.progs.programs.find? (fun p => p.handle == h && !p.retiring) = some p → s.dev.programHeld h = true →
       exec (.programUnload tag) s = .next (s.onDev (Dev.replied c.id stProgramBusy (vals 0 0 0)))) ∧
     (s.dev.progs.programs.find? (fun p => p.handle == h && !p.retiring) = none →
       exec (.programUnload tag) s = .next (s.onDev (Dev.replied c.id stProgramInvalid (vals 0 0 0)))))

/-- R213, R405: a LAUNCH that admission accepts, whose entries name no context and whose program no gradient job waits for, is admitted
with the next number: its command is in progress, the launch runs (or ends at once where R513 leaves a part it needs failed), and then
whatever waits for the arbiter goes on. A refused one completes with its status and entry. R405: a LAUNCH_LIST whose records can be read
is in progress with its first record next, and the arbiter then admits what it can; a range that faults ends it with ST_ADDRESS. -/
def Obligations.LaunchesAndListsAreAdmitted : Prop :=
  (∀ (tag : Tag) (s : State) (c : Cmd), s.dev.Takes tag 0x12#8 c → s.dev.splitPending (opnd c.pkt.o0 7 0) = false →
     let r : LaunchReq := { owner := .cmd c.id, cls := c.cls, handle := opnd c.pkt.o0 7 0, mode := opnd c.pkt.o0 9 8, da := opDa c.pkt.o1,
                            seed := c.pkt.o2, deadline := c.pkt.deadline.toNat }
     (∀ (l : Launch) (im : Image), s.dev.judge r = .ok l → s.dev.imageOf l = some im → (∀ e ∈ l.entries, e.reads = false ∧ e.writes = false) →
       (∀ j ∈ s.dev.coll.jobs, j.trigger ≠ 0 ∨ j.program ≠ r.handle ∨ j.closing ≠ none) →
       ∃ d' : Dev, exec (.launch tag) s = .next ((s.onDev fun _ => d'.settle).flushReports) ∧
         d' = { s.dev with link := d'.link, launches := s.dev.launches ++ [{ l with phase := s.dev.firstPhase im l.entries }],
                           nextLaunch := s.dev.nextLaunch + 1, fn := d'.fn } ∧
         d'.link = { s.dev.link with cmds := updFirst (fun x => x.id == c.id) (fun x => { x with phase := .running }) s.dev.link.cmds } ∧
         l.id = s.dev.nextLaunch ∧ l.owner = .cmd c.id ∧ l.handle = r.handle) ∧
     (∀ (st : Half) (e : Nat), s.dev.judge r = .error (st, e) → st ≠ stUncorrectable → st ≠ stDeadline →
       st ≠ stDebugDenied → exec (.launch tag) s =
         .next ((s.onDev fun d => (d.replied c.id st (leBytes 4 e ++ List.replicate 20 0#8)).settle).flushReports))) ∧
  (∀ (tag : Tag) (s : State) (c : Cmd), s.dev.Takes tag 0x13#8 c →
     let n := opnd c.pkt.o0 8 0
     let a := opDa c.pkt.o1
     (s.dev.daOk a (32 * n) = true → s.dev.mem.firstPoison a (32 * n) = none →
       exec (.launchList tag) s = .next ((s.onDev fun d => ({ d.heat a (32 * n) with
         link := { d.link with cmds := updFirst (fun x => x.id == c.id) (fun x => { x with phase := .running }) d.link.cmds },
         progs := { d.progs with lists := d.progs.lists ++ [{ cmd := c.id, base := a, count := n, next := 0, refused := none }] } } : Dev).settle).flushReports)) ∧
     (s.dev.daOk a (32 * n) = false →
       exec (.launchList tag) s = .next ((s.onDev (Dev.replied c.id stAddress (vals 0 0 0))).flushReports)))

/-- R64, R181, R406: a launch of a LAUNCH command with nothing left to run, outside the bounded class and with no gradient step,
completes with its status and the launch body of its counts. It leaves the launches, and the contexts it wrote are at least as
long as it wrote them. Memory, rings and everything but launches, contexts, function slots, window uses, tiles and the program
table stay; then what its end lets go on goes on. -/
def Obligations.LaunchCompletes : Prop :=
  ∀ (id : Nat) (s : State) (l : Launch) (im : Image) (c : Cmd), s.dev.launchOf id = some l → s.dev.imageOf l = some im →
    l.phase = .running → l.step = none → s.dev.launchOver l im = true → l.owner = .cmd c.id → s.dev.cmd c.id = some c → c.phase ≠ .done →
    l.cls ≠ 2 →
    let st := s.dev.launchStatus l im
    (st = stOk ∨ st = stWidened ∨ st = stNumericNan) ∧
    ∃ d' : Dev, exec (.launchComplete id) s = .next (s.act fun _ => d') ∧
      d' = { s.dev with link := (s.dev.replied c.id st (bodyOf [({ l with ended := st }, s.dev.escalatedOf l)] 0 st)).link,
                        launches := d'.launches, cx := d'.cx, fn := d'.fn, tier := d'.tier, kilns := d'.kilns, progs := d'.progs } ∧
      (∀ x ∈ d'.launches, x.id ≠ id) ∧
      (s.dev.prepared id = true → ∀ e ∈ l.entries, e.writes = true → ∀ x, d'.cx.find e.ctx = some x → e.w1 ≤ x.length)

/-- R412: PREEMPT of a command whose launches all run stops each at its next boundary: none of them runs on. It completes with ST_OK once they
have stopped, at once where no tile runs them; a tag that is idle is refused with ST_TAG_IDLE, and a command that is no LAUNCH or LAUNCH_LIST with ST_PREEMPT_STATE. R412:
RESUME of a command that has preempted launches lets every one of them run again and completes with ST_OK; without one it is refused with
ST_PREEMPT_STATE. -/
def Obligations.LaunchesArePreemptedAndResumed : Prop :=
  (∀ (tag : Tag) (s : State) (c : Cmd), s.dev.Takes tag 0x14#8 c →
     (∀ t : Cmd, s.dev.tagHolder (c.pkt.o0.extractLsb' 0 12) = some t → t.pkt.opcode = 0x12#8 → t.phase = .running →
       s.dev.preemptible t.id = true →
       ∃ u : State, exec (.preempt tag) s = .next u ∧
         u = { s with dev := { s.dev with freeCtr := u.dev.freeCtr, link := u.dev.link, launches := u.dev.launches, kilns := u.dev.kilns, mem := u.dev.mem,
                                          ctrs := u.dev.ctrs } } ∧
         (∀ a, s.dev.Unreserved (fun _ => true) a → u.dev.mem.read a = s.dev.mem.read a) ∧
         ((∀ l ∈ s.dev.launchesOf t.id, s.dev.launchOf l.id = some l ∧ s.dev.tileRuns l.id = false) →
           (∃ l ∈ s.dev.launchesOf t.id, ((s.dev.imageOf l).bind (s.dev.front l)).isSome = true) →
           u.dev.cmd c.id = some { c with phase := .done, reply := { status := stOk, body := vals 0 0 0 } }) ∧
         ((∃ l ∈ s.dev.launchesOf t.id, s.dev.launchOf l.id = some l ∧ s.dev.tileRuns l.id = true) →
           u.dev.cmd c.id = some { c with phase := .after t.id, reply := { status := stTagIdle } }) ∧
         (∀ l ∈ s.dev.launchesOf t.id, s.dev.launchOf l.id = some l →
           (s.dev.tileRuns l.id = true → u.dev.launchOf l.id = some { l with phase := .preempting }) ∧
           (s.dev.tileRuns l.id = false → ((s.dev.imageOf l).bind (s.dev.front l)).isSome = true →
             u.dev.launchOf l.id = some { l with phase := .preempted }) ∧
           (s.dev.tileRuns l.id = false → ((s.dev.imageOf l).bind (s.dev.front l)).isSome = false → u.dev.launchOf l.id = some l)) ∧
         (∀ id, (∀ l ∈ s.dev.launches, l.id = id → l.phase ≠ .preempting ∧ l.cmdOf ≠ some t.id) →
           u.dev.launchOf id = s.dev.launchOf id)) ∧
     (s.dev.tagHolder (c.pkt.o0.extractLsb' 0 12) = none →
       exec (.preempt tag) s = .next (s.onDev (Dev.replied c.id stTagIdle (vals 0 0 0)))) ∧
     (∀ t : Cmd, s.dev.tagHolder (c.pkt.o0.extractLsb' 0 12) = some t → t.pkt.opcode ≠ 0x12#8 → t.pkt.opcode ≠ 0x13#8 →
       exec (.preempt tag) s = .next (s.onDev (Dev.replied c.id stPreemptState (vals 0 0 0))))) ∧
  (∀ (tag : Tag) (s : State) (c t : Cmd), s.dev.Takes tag 0x15#8 c → c.Unbounded →
     s.dev.tagHolder (c.pkt.o0.extractLsb' 0 12) = some t →
     ((∃ l ∈ s.dev.launchesOf t.id, l.phase = .preempted) →
       ∃ u : State, exec (.resume tag) s = .next u ∧
         u = { s with dev := { s.dev with link := (s.dev.replied c.id stOk (vals 0 0 0)).link, launches := u.dev.launches } } ∧
         (∀ l ∈ s.dev.launchesOf t.id, s.dev.launchOf l.id = some l → l.phase = .preempted →
           u.dev.launchOf l.id = some { l with phase := .running }) ∧
         (∀ id, (∀ l ∈ s.dev.launchesOf t.id, l.id = id → l.phase ≠ .preempted) → u.dev.launchOf id = s.dev.launchOf id)) ∧
     ((∀ l ∈ s.dev.launchesOf t.id, l.phase ≠ .preempted) →
       exec (.resume tag) s = .next (s.onDev (Dev.replied c.id stPreemptState (vals 0 0 0)))))

/-- R413: CANCEL of a tag that is idle is refused with ST_TAG_IDLE. A cancellable command that still waits ends with ST_CANCELLED and
nothing of it done, and the CANCEL completes with ST_OK after it. A running LAUNCH, outside a gradient job, stops at its next
boundaries with ST_CANCELLED to come. -/
def Obligations.CancelEndsItsTarget : Prop :=
  ∀ (tag : Tag) (s : State) (c : Cmd), s.dev.Takes tag 0x16#8 c →
    let after (t : Nat) : Dev → Dev := Dev.modCmd c.id fun x => { x with phase := .after t, reply := { status := stOk, body := [] } }
    let mark (t : Nat) : Dev → Dev := Dev.modCmd t fun x => { x with cancelling := true }
    (s.dev.tagHolder (c.pkt.o0.extractLsb' 0 12) = none →
      exec (.cancel tag) s = .next (s.act (Dev.replied c.id stTagIdle (vals 0 0 0)))) ∧
    (∀ t : Cmd, s.dev.tagHolder (c.pkt.o0.extractLsb' 0 12) = some t → s.dev.cmd t.id = some t → t.cancelling = false → t.phase = .waiting →
      t.pkt.opcode.toNat ∈ [0x02, 0x12, 0x13, 0x20, 0x21, 0x22, 0x23, 0x50, 0x61, 0x62] →
      exec (.cancel tag) s = .next (s.act fun d => after t.id ((mark t.id d).replied t.id stCancelled (vals 0 0 0)))) ∧
    (∀ (t : Cmd) (l : Launch), s.dev.tagHolder (c.pkt.o0.extractLsb' 0 12) = some t → t.cancelling = false → t.phase = .running →
      t.pkt.opcode = 0x12#8 → s.dev.launchesOf t.id = [l] → l.phase = .running → l.job = none → s.dev.listRun t.id = none →
      s.dev.launchOf l.id = some l →
      exec (.cancel tag) s = .next (s.act fun d => after t.id
        (((mark t.id d).modLaunch l.id fun x => { x with phase := .ending stCancelled }).freeGroups l.id)))

-- Memory commands, tiers, windows, atomics (R228 to R251, R391, R503)

/-- R247: MEM_FILL of a range of whole words outside pools and open windows writes its pattern over the range and nothing else, and
completes with the length. R247, R391: MEM_COPY of rows that pass its checks, with no poisoned word in them and no two destination rows
that overlap, copies every row and completes with the bytes copied: between device addresses, from host memory (host holds the bytes read,
row after row), or to host memory. No other byte changes. R247: a MEM_COPY that fails its checks, a fault or an overlap, copies nothing;
R391: a host read that fails ends a copy to host memory with an AER event and ST_HOST_ACCESS. -/
def Obligations.MemoryIsFilledAndCopied : Prop :=
  (∀ (tag : Tag) (s : State) (c : Cmd), s.dev.Takes tag 0x21#8 c → c.Unbounded → Memory.wf s.dev.mem = true →
     let a := opDa c.pkt.o0
     let n := opnd c.pkt.o1 39 0
     let refused (st : Half) : Host.Outcome State Fault Refusal := .next (s.onDev (Dev.replied c.id st (vals 0 0 0)))
     (n = 0 ∨ (s.dev.daOk a n = true ∧ s.dev.inPools a n = false ∧ s.dev.inWindowDst a n = false) →
       n % 8 = 0 → a % 8 = 0 → (∀ i < n, s.dev.mem.deadAt (a + i) = false) →
       ∃ t : State, exec (.memFill tag) s = .next t ∧
         t = { s with dev := { s.dev with link := (s.dev.replied c.id stOk (vals n 0 0)).link, mem := t.dev.mem, tier := t.dev.tier,
                                          ctrs := t.dev.ctrs, caches := t.dev.caches } } ∧
         (∀ i < n, t.dev.mem.read (a + i) = BitVec.ofNat 8 (c.pkt.o2.toNat / 256 ^ (i % 8))) ∧
         (∀ x, x < a ∨ a + n ≤ x → t.dev.mem.read x = s.dev.mem.read x)) ∧
     (n ≠ 0 → (s.dev.daOk a n = false ∨ s.dev.inPools a n = true ∨ s.dev.inWindowDst a n = true) →
       exec (.memFill tag) s = refused stAddress) ∧
     ((n = 0 ∨ (s.dev.daOk a n = true ∧ s.dev.inPools a n = false ∧ s.dev.inWindowDst a n = false)) → (n % 8 ≠ 0 ∨ a % 8 ≠ 0) →
       exec (.memFill tag) s = refused stAlignment)) ∧
  (∀ (tag : Tag) (host : List Byte) (s : State) (c : Cmd), s.dev.Takes tag 0x20#8 c → c.Unbounded → Memory.wf s.dev.mem = true →
     let q := copyReq c.pkt
     s.dev.copyCheck q = stOk → q.len ≠ 0 →
     (q.hostSrc = false → ∀ r < q.rows, s.dev.mem.firstPoison (q.srcRow r) q.len = none) →
     (q.hostDst = false → ∀ r < q.rows, s.dev.mem.firstPoison (q.dstRow r) q.len = none) →
     (q.hostDst = false → ∀ r < q.rows, ∀ r' < q.rows, r ≠ r' → overlaps (q.dstRow r) q.len (q.dstRow r') q.len = false) →
     ∃ t : State, exec (.memCopy tag host none) s = .next t ∧
       t = { s with dev := { s.dev with out := t.dev.out, link := (s.dev.replied c.id stOk (vals (q.len * q.rows) 0 0)).link,
                                        mem := t.dev.mem, tier := t.dev.tier, ctrs := t.dev.ctrs, caches := t.dev.caches } } ∧
       (q.hostDst = true → t.dev.mem = s.dev.mem ∧ ∀ r < q.rows,
         Output.hostWrite (q.dstRow r) (if q.hostSrc then (host.drop (r * q.len)).take q.len else s.dev.mem.readBytes (q.srcRow r) q.len) ∈
           t.dev.out) ∧
       (q.hostDst = false → t.dev.out = s.dev.out ∧
         (q.hostSrc = false → ∀ r < q.rows, ∀ i < q.len, t.dev.mem.read (q.dstRow r + i) = s.dev.mem.read (q.srcRow r + i)) ∧
         (q.hostSrc = true → q.len * q.rows ≤ host.length → ∀ r < q.rows, ∀ i < q.len,
           t.dev.mem.read (q.dstRow r + i) = host.getD (r * q.len + i) 0#8) ∧
         (∀ x, (∀ r < q.rows, x < q.dstRow r ∨ q.dstRow r + q.len ≤ x) → t.dev.mem.read x = s.dev.mem.read x))) ∧
  (∀ (tag : Tag) (host : List Byte) (s : State) (c : Cmd), s.dev.Takes tag 0x20#8 c → c.Unbounded →
     let q := copyReq c.pkt
     (∀ failRow : Option Nat, s.dev.copyCheck q = stAddress ∨ s.dev.copyCheck q = stMemOverlap →
       exec (.memCopy tag host failRow) s = .next (s.onDev (Dev.replied c.id (s.dev.copyCheck q) (vals 0 0 0)))) ∧
     (∀ failRow : Option Nat, q.len = 0 → exec (.memCopy tag host failRow) s = .next (s.onDev (Dev.replied c.id stOk (vals 0 0 0)))) ∧
     (s.dev.copyCheck q = stOk → q.len ≠ 0 → q.hostSrc = true → q.hostDst = true → 0 < q.rows →
       exec (.memCopy tag host (some 0)) s =
         .next (s.onDev fun d => ({ d with out := .aer .hostRead :: d.out } : Dev).replied c.id stHostAccess (vals 0 0 0))))

/-- R231 to R234: an atomic on an aligned line of a stack whose kiln has a shared cache, and that reads without error, returns the old value
and writes the new one; the operations on whole numbers work modulo 2 to the width. Off that tier it answers ST_ATOMIC_TIER, and
misaligned ST_ALIGNMENT, with no effect. -/
def Obligations.AtomicsReadAndWriteOnce : Prop :=
  ∀ (r : AtomicReq) (s : State), Memory.wf s.dev.mem = true →
    (s.dev.atomicTier r.da = true → r.da % r.bytes = 0 → s.dev.mem.firstPoison r.da r.bytes = none →
      ∃ t : State, exec (.atomic r) s = .next t ∧
        (r.op ≠ .lineFadd → t.dev.out = .atomicResult stOk (some (s.dev.mem.readNat r.da r.bytes)) :: s.dev.out) ∧
        t = { s with dev := { s.dev with out := t.dev.out, mem := t.dev.mem, tier := t.dev.tier, ctrs := t.dev.ctrs, caches := t.dev.caches } } ∧
        t.dev.mem.readBytes r.da r.bytes = r.result s.dev.mem ∧
        (∀ x, x < r.da ∨ r.da + r.bytes ≤ x → t.dev.mem.read x = s.dev.mem.read x) ∧
        (let w := 8 * r.bytes
         let old := s.dev.mem.readNat r.da r.bytes
         let v := r.operand.toNat % 2 ^ w
         (r.op = .add → t.dev.mem.readNat r.da r.bytes = (old + v) % 2 ^ w) ∧
         (r.op = .sub → t.dev.mem.readNat r.da r.bytes = (old + 2 ^ w - v) % 2 ^ w) ∧
         (r.op = .umax → t.dev.mem.readNat r.da r.bytes = max old v) ∧
         (r.op = .swap → t.dev.mem.readNat r.da r.bytes = v) ∧
         (r.op = .cas → t.dev.mem.readNat r.da r.bytes = if old = r.compare.toNat % 2 ^ w then v else old))) ∧
    (s.dev.atomicTier r.da = false → exec (.atomic r) s = .next (s.onDev (Dev.emit (.atomicResult stAtomicTier none)))) ∧
    (s.dev.atomicTier r.da = true → r.da % r.bytes ≠ 0 → exec (.atomic r) s = .next (s.onDev (Dev.emit (.atomicResult stAlignment none))))

/-- R245: MIGRATE of whole window units begins moves of named units that are not yet where they should go and do not move already: down to
the crock tier, every one; up to a stack, as empty slots and unpinned units to swap with are found. It waits for all of them, and with
none to move completes at once. Nothing but the tier, the command and free choices changes. R246: PIN within the limit marks every named
unit that lies in a stack, gives up the moves that would take it away, and completes with the number of units that it marks where none
has to be promoted first; UNPIN clears the marks and completes with their number. R242, R243: when a unit's move completes the unit lies
where the move takes it, in the slot of the unit it swaps with, which takes its own; a pinned unit does not leave its stack; every byte of
the window reads as before. R243: at an epoch's end every
unit's heat is halved and the traffic of the epoch counted in 64 KiB steps, at most 128 of them. -/
def Obligations.UnitsAreMovedAndPinned : Prop :=
  (∀ (tag : Tag) (s : State) (c : Cmd), s.dev.Takes tag 0x22#8 c → c.Unbounded →
     let a := opDa c.pkt.o0
     let n := opnd c.pkt.o1 39 0
     let us := (unitsOf a n).map s.dev.tier.unit
     let named (go : List UUnit) (up : Bool) : MigCmd :=
       { cmd := c.id, left := go.map (·.ix), up := up, kiln := opnd c.pkt.o2 15 8, first := unitOf a, named := us.length, count := go.length }
     a % 0x200000 = 0 → n % 0x200000 = 0 → (n = 0 ∨ s.dev.inWindow a n = true) →
     (c.pkt.o2.getLsbD 0 = true → (∀ u ∈ us, u.pinned = false) →
       ((∀ u ∈ us, u.place = none) → exec (.migrate tag) s = .next (s.onDev (Dev.replied c.id stOk (vals 0 0 0)))) ∧
       ((∃ u ∈ us, u.place ≠ none) →
         ∃ t : State, exec (.migrate tag) s = .next t ∧
           t = { s with dev := { s.dev with link := (s.dev.setPhase c.id .running).link, tier := { s.dev.tier with
             moves := t.dev.tier.moves, migCmds := s.dev.tier.migCmds ++ [named (us.filter fun u => u.place.isSome) false] } } } ∧
           t.dev.tier.moves = s.dev.tier.moves ++
             ((us.filter fun u => u.place.isSome && !s.dev.tier.moving u.ix).map fun u => { ix := u.ix, dest := none }))) ∧
     (c.pkt.o2.getLsbD 0 = false → us.length + s.dev.tier.pinnedCount ≤ s.dev.tier.stackUnits →
       ((∀ u ∈ us, u.place ≠ none) → exec (.migrate tag) s = .next (s.onDev (Dev.replied c.id stOk (vals 0 0 0)))) ∧
       ((∃ u ∈ us, u.place = none) →
         ∃ t : State, exec (.migrate tag) s = .next t ∧
           t = { s with dev := { s.dev with freeCtr := t.dev.freeCtr, link := (s.dev.setPhase c.id .running).link, tier := { s.dev.tier with
             moves := t.dev.tier.moves, migCmds := s.dev.tier.migCmds ++ [named (us.filter fun u => u.place.isNone) true] } } } ∧
           ∃ ms : List UMove, t.dev.tier.moves = s.dev.tier.moves ++ ms ∧
             (ms.map (·.ix)).Sublist ((us.filter fun u => u.place.isNone && !s.dev.tier.moving u.ix).map (·.ix)) ∧
             ∀ m ∈ ms, m.dest.isSome = true ∧ ∀ v, m.victim = some v → (s.dev.tier.unit v).pinned = false ∧
               (s.dev.tier.unit v).place = m.dest ∧ (s.dev.tier.unit v).slot = m.slot)) ∧
     (c.pkt.o2.getLsbD 0 = true → (∃ u ∈ us, u.pinned = true) →
       exec (.migrate tag) s = .next (s.onDev (Dev.replied c.id stPinned (vals 0 0 0))))) ∧
  (∀ (tag : Tag) (s : State) (c : Cmd), s.dev.Takes tag 0x23#8 c → c.Unbounded →
     let a := opDa c.pkt.o0
     let n := opnd c.pkt.o1 39 0
     let us := (unitsOf a n).map s.dev.tier.unit
     a % 0x200000 = 0 → n % 0x200000 = 0 → (n = 0 ∨ s.dev.inWindow a n = true) →
     (c.pkt.o2.getLsbD 0 = false → s.dev.tier.pinnedWith (us.map (·.ix)) ≤ s.dev.tier.pinLimit →
       (∀ u ∈ us, u.place ≠ none) →
       ∃ t : State, exec (.pin tag) s = .next t ∧
         t = { s with dev := { s.dev with tier := { s.dev.tier with
                                            placed := t.dev.tier.placed, moves := s.dev.tier.moves.filter fun m =>
                                              !((m.dest.isNone && us.any fun u => u.ix == m.ix) || m.victim.any fun v => us.any fun u => u.ix == v) },
                                          link := (s.dev.replied c.id stOk (vals (us.filter fun u => !u.hostPin).length 0 0)).link } } ∧
         (∀ u ∈ us, (t.dev.tier.unit u.ix).hostPin = true) ∧
         (∀ ix, (∀ u ∈ us, u.ix ≠ ix) → t.dev.tier.unit ix = s.dev.tier.unit ix)) ∧
     (c.pkt.o2.getLsbD 0 = false → s.dev.tier.pinLimit < s.dev.tier.pinnedWith (us.map (·.ix)) →
       exec (.pin tag) s = .next (s.onDev fun d =>
         ({ d with tier := { d.tier with pinLimitSeen := true } } : Dev).replied c.id stPinLimit (vals 0 0 0))) ∧
     (c.pkt.o2.getLsbD 0 = true →
       ∃ t : State, exec (.unpin tag) s = .next t ∧
         t = { s with dev := { s.dev with tier := { s.dev.tier with placed := t.dev.tier.placed },
                                          link := (s.dev.replied c.id stOk (vals (us.filter fun u => u.hostPin).length 0 0)).link } } ∧
         (∀ u ∈ us, (t.dev.tier.unit u.ix).hostPin = false) ∧
         (∀ ix, (∀ u ∈ us, u.ix ≠ ix) → t.dev.tier.unit ix = s.dev.tier.unit ix))) ∧
  ((∀ (ix : Nat) (s : State) (m : UMove), s.dev.tier.moves.find? (fun x => x.ix == ix) = some m → m.victim ≠ some ix →
     let u := s.dev.tier.unit ix
     ∃ t : State, exec (.unitMoveComplete ix) s = .next t ∧
       t = { s with dev := { s.dev with out := t.dev.out, tier := t.dev.tier, link := t.dev.link, repair := t.dev.repair, ctrs := t.dev.ctrs,
                                        candle := t.dev.candle, caches := t.dev.caches, freeCtr := t.dev.freeCtr,
                                        mem := { s.dev.mem with deadWin := t.dev.mem.deadWin } } } ∧
       (m.dest = none → u.pinned = true → (t.dev.tier.unit ix).place = u.place ∧ (t.dev.tier.unit ix).slot = u.slot) ∧
       (m.dest = none → u.pinned = false → s.dev.tier.emptyCrock ≠ [] → (t.dev.tier.unit ix).place = none) ∧
       (m.dest ≠ none → m.victim = none → (t.dev.tier.unit ix).place = m.dest ∧ (t.dev.tier.unit ix).slot = m.slot) ∧
       (∀ v, m.dest ≠ none → m.victim = some v →
         let w := s.dev.tier.unit v
         (w.pinned = false → (t.dev.tier.unit ix).place = w.place ∧ (t.dev.tier.unit ix).slot = w.slot ∧
           (t.dev.tier.unit v).place = none ∧ (t.dev.tier.unit v).slot = u.slot) ∧
         (w.pinned = true → (t.dev.tier.unit ix).place = u.place ∧ (t.dev.tier.unit v).place = w.place))) ∧
   (∀ s : State, s.dev.running = true →
     ∃ t : State, exec .migrationEpochEnd s = .next t ∧
       t = { s with dev := { s.dev with tier := t.dev.tier, freeCtr := t.dev.freeCtr } } ∧
       t.dev.tier.epochNo = s.dev.tier.epochNo + 1 ∧
       t.dev.tier.placed = s.dev.tier.placed.map fun u => { u with heat := u.heat / 2 + min 128 (u.traffic / 0x10000), traffic := 0 }))

/-- R248, R249: a WINDOW_STREAM whose table passes its checks opens the window, empty, and completes. R251: a WINDOW_STREAM with CLOSE
takes away a window that no launch waits for; else it is refused with ST_WINDOW_BUSY. R250: filling a window's next use copies its layer's
segments from the crock tier in order, poison with them (R503), and counts the use as filled. -/
def Obligations.WindowsAreOpenedFilledAndClosed : Prop :=
  (∀ (tag : Tag) (s : State) (c : Cmd), s.dev.Takes tag 0x24#8 c → c.Unbounded →
     let num := opnd c.pkt.o0 7 0
     let handle := opnd c.pkt.o0 15 8
     let depth := opnd c.pkt.o0 23 16
     let passes := opnd c.pkt.o2 15 0
     let a := opDa c.pkt.o1
     (∀ (p : Program) (ls : List (List WinSeg)), c.pkt.o0.getLsbD 24 = false → s.dev.tier.windows.length < 8 → num < 8 →
       (∀ w ∈ s.dev.tier.windows, w.num.val ≠ num ∧ w.program ≠ handle) → s.dev.liveProgram handle = some p →
       let hdr := s.dev.mem.readBytes a 64
       let len := 64 + roundUp (4 * p.image.layerCount) 64 + 16 * bytesAt hdr 7 4
       1 ≤ depth → depth ≤ 16 → bytesAt hdr 7 4 ≤ 65536 → bytesAt hdr 3 2 = p.image.layerCount → s.dev.daOk a len = true →
       s.dev.mem.firstPoison a len = none → s.dev.mem.firstPoison a 64 = none → s.dev.daOk a 64 = true →
       parseStream (s.dev.mem.readBytes a len) p.image.layerCount = some ls → s.dev.streamCheck p.image ls depth passes = stOk →
       exec (.windowStream tag) s = .next (s.onDev fun d =>
         let e := (d.heat a 64).heat a len
         ({ e with tier := { e.tier with windows := e.tier.windows ++
             [{ num := Fin.ofNat 8 num, program := handle, depth := depth, passes := passes, layers := ls, filled := 0, released := [] }] } } : Dev).replied
           c.id stOk (vals 0 0 0))) ∧
     (∀ w : Window, c.pkt.o0.getLsbD 24 = true → s.dev.tier.windows.find? (fun w => w.num.val == num) = some w →
       (s.dev.windowAwaited w.program = false →
         exec (.windowClose tag) s = .next (s.onDev fun d =>
           ({ d with tier := { d.tier with windows := d.tier.windows.filter fun x => x.num.val != num } } : Dev).replied c.id stOk (vals 0 0 0))) ∧
       (s.dev.windowAwaited w.program = true →
         exec (.windowClose tag) s = .next (s.onDev (Dev.replied c.id stWindowBusy (vals 0 0 0)))))) ∧
  (∀ (n : Fin 8) (s : State) (w : Window), s.dev.running = true → s.dev.tier.windows.find? (fun x => x.num == n) = some w →
     (w.passes = 0 ∨ w.filled < w.passes * w.layers.length) → (∀ u, u + w.depth ≤ w.filled → u ∈ w.released) →
     ∃ t : State, exec (.windowUseFilled n) s = .next t ∧
       t = { s with dev := { s.dev with out := t.dev.out, mem := t.dev.mem, link := t.dev.link, repair := t.dev.repair, ctrs := t.dev.ctrs, caches := t.dev.caches,
                                        tier := { s.dev.tier with windows := t.dev.tier.windows } } } ∧
       t.dev.tier.windows = updFirst (fun x => x.num == n) (fun x => { x with filled := x.filled + 1 }) s.dev.tier.windows ∧
       t.dev.mem = (w.layers.getD (w.filled % max 1 w.layers.length) []).foldl (fun m g => m.move g.src g.dst g.len) s.dev.mem)

/-- R228, R229: a write to KLN_SHMEM_PART asks for a split that the loaded programs' scratchpads allow, and sets PENDING where it differs from
the one in force; one they do not allow, or of more than 16 steps, sets REFUSED and changes nothing else. A pending split comes into force
once nothing uses the kiln: the kiln's shared cache is empty, and the scratchpad bytes between the two splits read as zero, without poison. -/
def Obligations.SharedMemoryIsSplit : Prop :=
  ∀ (k : Fin 12) (s : State),
    (∀ v : Word, s.dev.ready = true → s.dev.power.state = 0#2 → v &&& 0xFFFF80E0#32 = 0#32 →
      let steps := v.toNat % 32
      let need := maxNat (s.dev.progs.programs.map fun p => p.scratch.getD k.val 0)
      (steps ≤ 16 → need ≤ steps * 0x800000 →
        exec (.shmemPartRequest k v) s = .next (s.onDev (Dev.modKiln k fun x => { x with shmem :=
          { steps := steps, inForce := x.shmem.inForce, pending := steps != x.shmem.inForce, refused := x.shmem.refused && !v.getLsbD 14 } }))) ∧
      (16 < steps ∨ steps * 0x800000 < need →
        exec (.shmemPartRequest k v) s = .next (s.onDev (Dev.modKiln k fun x => { x with shmem :=
          { steps := x.shmem.inForce, inForce := x.shmem.inForce, pending := false, refused := true } })))) ∧
    (let m := (s.dev.kiln k).shmem
     m.pending = true → s.dev.kilnUsed k = false →
      ∃ d' : Dev, exec (.shmemPartApply k) s = .next (s.act fun _ => d') ∧
        d' = { s.dev with mem := d'.mem, ctrs := d'.ctrs, caches := s.dev.caches.set k [], kilns := vmod s.dev.kilns k fun x =>
          { x with shmem := { steps := m.steps, inForce := m.steps, pending := false, refused := x.shmem.refused } } } ∧
        (∀ x, scratchBase k.val + min m.steps m.inForce * 0x800000 ≤ x → x < scratchBase k.val + max m.steps m.inForce * 0x800000 →
          d'.mem.read x = 0#8) ∧
        (∀ x, x < scratchBase k.val + min m.steps m.inForce * 0x800000 ∨ scratchBase k.val + max m.steps m.inForce * 0x800000 ≤ x →
          d'.mem.read x = s.dev.mem.read x))

-- Pools and contexts (R170 to R175, R183 to R188, R246)

/-- R174: a CTX_CREATE that passes its checks makes a context under a number that no context has, with no page mapped and length 0,
and completes with the number; its page table stands as zeros in the pool's table region (R176), beyond which no byte changes. One that fails makes none: HUB_CTX_STATUS and the pool's status keep a full table and an empty
pool (R192, R193). R170 to R172, R246: a pool that passes its checks and whose units lie in stacks is defined with every frame free, its
units pinned and its tables' bytes undefined; while units of it lie in the crock tier the command waits for their promotion. A
pool no context is in is taken away, its units no longer pinned. -/
def Obligations.ContextsAndPoolsAreMade : Prop :=
  ∀ (tag : Tag) (s : State) (c : Cmd),
    (s.dev.Takes tag 0x30#8 c → c.Unbounded → c.pkt.o0.getLsbD 0 = false →
      let n := Fin.ofNat 16 (opnd c.pkt.o1 3 0)
      let st := ctxCreateCheck s.dev.cx n (opnd c.pkt.o1 24 16) (opnd c.pkt.o1 38 32) (opnd c.pkt.o1 42 40) (opnd c.pkt.o1 51 48) (opnd c.pkt.o2 17 0)
      (st = stOk → ∃ (num : Nat) (m : Mem), num < 16384 ∧ s.dev.cx.find num = none ∧
        let x : Ctx := { num := num, pool := n, layers := opnd c.pkt.o1 24 16, groups := opnd c.pkt.o1 38 32,
                         hdCode := opnd c.pkt.o1 42 40, fmtCode := opnd c.pkt.o1 51 48, capacity := opnd c.pkt.o2 17 0, length := 0,
                         table := [], lastUnit := none }
        exec (.ctxCreate tag) s = .next (s.onDev fun d => ({ d with cx := d.cx.add x, freeCtr := d.freeCtr + 1, mem := m } : Dev).replied
          c.id stOk (vals num 0 0)) ∧
        ∀ p : Pool, s.dev.cx.poolOf n = some p →
          let a := p.tabBase + (s.dev.cx.add x).tableOff p x
          p.tabBase + poolMeta p.frames ≤ a ∧ (∀ i < tableBytes x.layers x.groups x.capacity, m.read (a + i) = 0#8) ∧
          ∀ y, y < p.tabBase ∨ p.tabBase + p.tabLen ≤ y → m.read y = s.dev.mem.read y) ∧
      (st = stPoolInvalid ∨ st = stCtxFormat → exec (.ctxCreate tag) s = .next (s.onDev (Dev.replied c.id st (vals 0 0 0)))) ∧
      (st = stTableFull → exec (.ctxCreate tag) s = .next (s.onDev fun d =>
        ({ d with cx := { d.cx with tableFullSeen := true } } : Dev).replied c.id st (vals 0 0 0))) ∧
      (st = stPoolEmpty → exec (.ctxCreate tag) s = .next (s.onDev fun d => ({ d with cx :=
        { d.cx with pools := vmod d.cx.pools n fun p => { p with emptySeen := true } } } : Dev).replied c.id st (vals 0 0 0)))) ∧
    (s.dev.Takes tag 0x30#8 c → c.Unbounded → c.pkt.o0.getLsbD 0 = true →
      let n := Fin.ofNat 16 (opnd c.pkt.o1 3 0)
      let p : Pool := { frameKiB := opnd c.pkt.o1 15 8, frameBase := opDa c.pkt.o2, frameLen := opDa c.pkt.o3, tabBase := opDa c.pkt.o4,
                        tabLen := opDa c.pkt.o5, pinned := c.pkt.o1.getLsbD 16, refs := [] }
      (s.dev.poolCheck n p = stOk →
        ∃ t : State, exec (.ctxCreatePool tag) s = .next t ∧
          t = { s with dev := { s.dev with tier := t.dev.tier, link := t.dev.link, freeCtr := t.dev.freeCtr, mem := t.dev.mem,
                                           cx := s.dev.cx.setPool n (some p) } } ∧
          (∀ u ∈ p.pinUnits, (t.dev.tier.unit u).pinned = true) ∧
          (∀ u, u ∉ p.pinUnits → t.dev.tier.unit u = s.dev.tier.unit u) ∧
          (∀ x, x < p.tabBase ∨ p.tabBase + p.tabLen ≤ x → t.dev.mem.read x = s.dev.mem.read x) ∧
          ((∀ u ∈ p.pinUnits, (s.dev.tier.unit u).place ≠ none) → t.dev.link = (s.dev.replied c.id stOk (vals 0 0 0)).link ∧
            t.dev.tier.moves = (s.dev.tier.hold p.pinUnits).moves) ∧
          ((∃ u ∈ p.pinUnits, (s.dev.tier.unit u).place = none) → t.dev.link = (s.dev.setPhase c.id .running).link ∧
            ∃ ms : List UMove, t.dev.tier.moves = (s.dev.tier.hold p.pinUnits).moves ++ ms ∧
              (ms.map (·.ix)).Sublist (p.pinUnits.filter fun u => (s.dev.tier.unit u).place.isNone) ∧ ∀ m ∈ ms, m.dest.isSome = true)) ∧
      (s.dev.poolCheck n p = stPoolInvalid ∨ s.dev.poolCheck n p = stPoolBusy →
        exec (.ctxCreatePool tag) s = .next (s.onDev (Dev.replied c.id (s.dev.poolCheck n p) (vals 0 0 0))))) ∧
    (s.dev.Takes tag 0x32#8 c → c.Unbounded → c.pkt.o0.getLsbD 0 = true →
      let n := Fin.ofNat 16 (opnd c.pkt.o1 3 0)
      (∀ p : Pool, s.dev.cx.poolOf n = some p → (∀ x ∈ s.dev.cx.ctxs, x.pool ≠ n) →
        ∃ t : State, exec (.ctxDestroyPool tag) s = .next t ∧
          t = { s with dev := { s.dev with cx := s.dev.cx.setPool n none, tier := { s.dev.tier with placed := t.dev.tier.placed },
                                           link := (s.dev.replied c.id stOk (vals 0 0 0)).link } } ∧
          (∀ u ∈ p.pinUnits, (t.dev.tier.unit u).poolPin = false) ∧
          (∀ u, u ∉ p.pinUnits → t.dev.tier.unit u = s.dev.tier.unit u)) ∧
      (∀ p : Pool, s.dev.cx.poolOf n = some p → (∃ x ∈ s.dev.cx.ctxs, x.pool = n) →
        exec (.ctxDestroyPool tag) s = .next (s.onDev (Dev.replied c.id stPoolBusy (vals 0 0 0)))) ∧
      (s.dev.cx.poolOf n = none → exec (.ctxDestroyPool tag) s = .next (s.onDev (Dev.replied c.id stPoolInvalid (vals 0 0 0)))))

/-- R183 to R188: with nothing else at the arbiter, CTX_FORK makes a child that maps the parent's pages up to its length, each frame
counted once more; CTX_TRIM takes the context's length down, unmaps the pages beyond and clears the rows it drops in frames that
it alone maps; CTX_DESTROY takes the context away and gives its references back. Each completes, and then what it lets go on
goes on. A context that is not there is refused with ST_CTX_INVALID. -/
def Obligations.ContextCommandsChangeTheirContext : Prop :=
  ∀ (tag : Tag) (s : State) (c : Cmd) (x : Ctx) (p : Pool), c.Unbounded → s.dev.cx.arb = [] → s.dev.progs.lists = [] →
    s.dev.cx.poolOf x.pool = some p → (x.table.map (·.1)).Nodup → (p.refs.Pairwise fun a b => a.1 < b.1) →
    (s.dev.Takes tag 0x31#8 c →
      let f := opnd c.pkt.o1 31 0
      s.dev.ctxLive (opnd c.pkt.o0 13 0) = true → s.dev.cx.find (opnd c.pkt.o0 13 0) = some x →
      ctxForkCheck s.dev.cx x.num f (opnd c.pkt.o2 17 0) = (stOk, 0) →
      ∃ (num : Nat) (d' : Dev), exec (.ctxFork tag) s = .next (s.act fun _ => d') ∧ num < 16384 ∧ s.dev.cx.find num = none ∧
        d' = { s.dev with cx := d'.cx, freeCtr := s.dev.freeCtr + 1, link := (s.dev.replied c.id stOk (vals num 0 0)).link, mem := d'.mem } ∧
        (∀ a, a < p.tabBase ∨ p.tabBase + p.tabLen ≤ a → d'.mem.read a = s.dev.mem.read a) ∧
        (∃ y : Ctx, d'.cx.find num = some y ∧ y = { x with num := num, capacity := opnd c.pkt.o2 17 0, length := f, table := y.table,
                                                             lastUnit := none } ∧
          ∀ h ∈ x.heads, ∀ pg, y.frameAt h.1 h.2 pg = if pg < cdiv f 128 then x.frameAt h.1 h.2 pg else none) ∧
        (∀ m, m ≠ num → d'.cx.find m = s.dev.cx.find m) ∧ (∀ m, m ≠ x.pool → d'.cx.poolOf m = s.dev.cx.poolOf m) ∧
        (∃ p' : Pool, d'.cx.poolOf x.pool = some p' ∧ ∀ fr, p'.count fr = p.count fr +
          ((forkPages p x f).filter fun e => e.2.1 == fr).length)) ∧
    (s.dev.Takes tag 0x33#8 c →
      let n := opnd c.pkt.o1 31 0
      s.dev.ctxLive (opnd c.pkt.o0 13 0) = true → s.dev.cx.find (opnd c.pkt.o0 13 0) = some x →
      (n ≤ x.length →
        ∃ d' : Dev, exec (.ctxTrim tag) s = .next (s.act fun _ => d') ∧
          d' = { s.dev with cx := d'.cx, mem := d'.mem, link := (s.dev.replied c.id stOk (vals 0 0 0)).link } ∧
          d'.cx.find x.num = some { x with length := n, table := x.table.filter fun e => decide (e.1.2.2 < cdiv n 128) } ∧
          (∀ m, m ≠ x.num → d'.cx.find m = s.dev.cx.find m) ∧
          ∃ p' : Pool, d'.cx.poolOf x.pool = some p' ∧
            (∀ fr, p'.count fr = p.count fr - ((x.table.filter fun e => e.2 == fr && decide (cdiv n 128 ≤ e.1.2.2)).length)) ∧
            (n % 128 = 0 → ∀ a, a < p.tabBase ∨ p.tabBase + p.tabLen ≤ a → d'.mem.read a = s.dev.mem.read a) ∧
            (∀ a, a < p.tabBase ∨ p.tabBase + p.tabLen ≤ a → (∀ h ∈ x.heads, ∀ fr, x.frameAt h.1 h.2 (n / 128) = some fr → p'.count fr = 1 →
                ∀ w ∈ x.streams, a < p.da fr + w.1 + n % 128 * w.2 ∨ p.da fr + w.1 + 128 * w.2 ≤ a) → d'.mem.read a = s.dev.mem.read a) ∧
            (n % 128 ≠ 0 → ∀ h ∈ x.heads, ∀ fr, x.frameAt h.1 h.2 (n / 128) = some fr → p'.count fr = 1 →
              ∀ w ∈ x.streams, ∀ a, a < p.tabBase ∨ p.tabBase + p.tabLen ≤ a → p.da fr + w.1 + n % 128 * w.2 ≤ a →
                a < p.da fr + w.1 + 128 * w.2 → d'.mem.read a = 0#8)) ∧
      (x.length < n → exec (.ctxTrim tag) s = .next (s.act (Dev.replied c.id stCtxRange (vals 0 0 0))))) ∧
    (s.dev.Takes tag 0x32#8 c → c.pkt.o0.getLsbD 0 = false →
      s.dev.ctxLive (opnd c.pkt.o1 13 0) = true → s.dev.cx.find (opnd c.pkt.o1 13 0) = some x →
      ∃ d' : Dev, exec (.ctxDestroy tag) s = .next (s.act fun _ => d') ∧
        d' = { s.dev with cx := d'.cx, link := (s.dev.replied c.id stOk (vals 0 0 0)).link, mem := d'.mem } ∧
        (∀ a, a < p.tabBase ∨ p.tabBase + p.tabLen ≤ a → d'.mem.read a = s.dev.mem.read a) ∧
        d'.cx.find x.num = none ∧ (∀ m, m ≠ x.num → d'.cx.find m = s.dev.cx.find m) ∧
        (∃ p' : Pool, d'.cx.poolOf x.pool = some p' ∧ ∀ fr, p'.count fr = p.count fr - (x.table.filter fun e => e.2 == fr).length)) ∧
    (s.dev.Takes tag 0x33#8 c → s.dev.ctxLive (opnd c.pkt.o0 13 0) = false →
      exec (.ctxTrim tag) s = .next ((s.onDev (Dev.replied c.id stCtxInvalid (vals 0 0 0))).flushReports))

-- Function tables and slip tables (R121 to R125, R262, R263)

/-- R121 to R123: a FN_TABLE_LOAD whose table reads, is well formed and keeps its bounds and seams puts its slot in CHECKING; when the
checks end the slot is LOADED and the command completes, or the slot is FREE again and the command refused. R124: RELEASE frees a LOADED
slot, or retires it while a launch holds it. R126: a refusal's slot field is kept. R262: a SLIP_TABLE_LOAD that reads a well-formed table
loads it in the slot of every kiln its mask names, where that slot is FREE. R263: RELEASE retires the slot of every kiln named, and frees
it where no queued block is bound to it. Only those slots, and slots that were RETIRING, change. -/
def Obligations.FunctionAndSlipTablesComeAndGo : Prop :=
  (∀ (tag : Tag) (s : State) (c : Cmd), c.Unbounded →
     let slot := opnd c.pkt.o2 7 0
     let k : Fin 8 := Fin.ofNat 8 slot
     let a := opDa c.pkt.o0
     let n := opnd c.pkt.o1 31 0
     let set (x : FnSlot) (d : Dev) : Dev := { d with fn := { d.fn with slots := d.fn.slots.set k x } }
     let refused (id sl : Nat) (st : Half) (d : Dev) : Dev :=
       ({ d with fn := { d.fn with refusedValid := true, lastRefused := BitVec.ofNat 8 sl } } : Dev).replied id st (vals 0 0 0)
     (s.dev.Takes tag 0x40#8 c → c.pkt.o2.getLsbD 16 = false →
       (8 ≤ slot → slot ≤ 15 → (s.dev.fn.slots.get k).state = 0 → s.dev.daOk a n = true → s.dev.mem.firstPoison a n = none →
         (∀ t : SegTable, parseSegTable (s.dev.mem.readBytes a n) = some t → segBoundsOk t = true → segSeamsOk t = true →
           exec (.fnTableLoad tag) s = .next (s.onDev fun d => (set { state := 1, table := some t, cmd := c.id, holders := [] } d).setPhase c.id .running)) ∧
         (parseSegTable (s.dev.mem.readBytes a n) = none →
           exec (.fnTableLoad tag) s = .next (s.onDev (refused c.id slot stFnTableFormat))) ∧
         (∀ t : SegTable, parseSegTable (s.dev.mem.readBytes a n) = some t → segBoundsOk t = false →
           exec (.fnTableLoad tag) s = .next (s.onDev (refused c.id slot stFnTableBounds))) ∧
         (∀ t : SegTable, parseSegTable (s.dev.mem.readBytes a n) = some t → segBoundsOk t = true → segSeamsOk t = false →
           exec (.fnTableLoad tag) s = .next (s.onDev (refused c.id slot stFnTableSeam)))) ∧
       (slot < 8 ∨ 15 < slot → exec (.fnTableLoad tag) s = .next (s.onDev (refused c.id slot stFnSlotInvalid))) ∧
       (8 ≤ slot → slot ≤ 15 → (s.dev.fn.slots.get k).state ≠ 0 →
         exec (.fnTableLoad tag) s = .next (s.onDev (refused c.id slot stFnSlotBusy)))) ∧
     (∀ t : SegTable, slot = 8 + k.val → (s.dev.fn.slots.get k).state = 1 → (s.dev.fn.slots.get k).table = some t →
       (s.dev.fn.slots.get k).cmd = c.id → s.dev.cmd c.id = some c → c.phase ≠ .done →
       (segRangeOk t = true → segMonoOk t = true → exec (.fnTableCheckComplete k) s =
         .next (s.onDev fun d => (set { s.dev.fn.slots.get k with state := 2 } d).replied c.id stOk (vals 0 0 0))) ∧
       (segRangeOk t = false → exec (.fnTableCheckComplete k) s =
         .next (s.onDev fun d => refused c.id slot stFnTableRange (set {} d))) ∧
       (segRangeOk t = true → segMonoOk t = false → exec (.fnTableCheckComplete k) s =
         .next (s.onDev fun d => refused c.id slot stFnNotMonotone (set {} d)))) ∧
     (s.dev.Takes tag 0x40#8 c → c.pkt.o2.getLsbD 16 = true → 8 ≤ slot → slot ≤ 15 →
       ((s.dev.fn.slots.get k).state = 2 → (s.dev.fn.slots.get k).holders = [] →
         exec (.fnTableRelease tag) s = .next (s.onDev fun d => (set {} d).replied c.id stOk (vals 0 0 0))) ∧
       ((s.dev.fn.slots.get k).state = 2 → (s.dev.fn.slots.get k).holders ≠ [] → exec (.fnTableRelease tag) s =
         .next (s.onDev fun d => (set { s.dev.fn.slots.get k with state := 3 } d).replied c.id stOk (vals 0 0 0))) ∧
       ((s.dev.fn.slots.get k).state = 1 → exec (.fnTableRelease tag) s = .next (s.onDev (refused c.id slot stFnSlotBusy))) ∧
       ((s.dev.fn.slots.get k).state ≠ 1 → (s.dev.fn.slots.get k).state ≠ 2 →
         exec (.fnTableRelease tag) s = .next (s.onDev (refused c.id slot stFnSlotState))))) ∧
  (∀ (tag : Tag) (s : State) (c : Cmd), s.dev.Takes tag 0x41#8 c → c.Unbounded →
     let slot := opnd c.pkt.o2 7 0
     let mask := opnd c.pkt.o2 31 16
     let i : Fin 4 := Fin.ofNat 4 slot
     let a := opDa c.pkt.o0
     let n := opnd c.pkt.o1 31 0
     let named (k : Fin 12) : Prop := mask = 0 ∨ mask.testBit k.val = true
     let at_ (d : Dev) (k : Fin 12) (j : Fin 4) : SlipSlot := (d.kilns.get k).slip.slots.get j
     (c.pkt.o2.getLsbD 32 = false →
       (∀ t : SlipTable, slot ≤ 3 → mask ≤ 4095 → (∀ k, named k → (at_ s.dev k i).state = 0) → s.dev.daOk a n = true →
         s.dev.mem.firstPoison a n = none → parseSlipTable (s.dev.mem.readBytes a n) = some t →
         ∃ u : State, exec (.slipTableLoad tag) s = .next u ∧
           u = { s with dev := { s.dev with tier := (s.dev.heat a n).tier, link := (s.dev.replied c.id stOk (vals 0 0 0)).link,
                                            kilns := u.dev.kilns } } ∧
           (∀ k, named k → u.dev.kilns.get k = { s.dev.kilns.get k with slip := { (s.dev.kilns.get k).slip with
             slots := (s.dev.kilns.get k).slip.slots.set i { state := 1, table := some t } } }) ∧
           (∀ k, ¬ named k → u.dev.kilns.get k = s.dev.kilns.get k)) ∧
       (3 < slot ∨ 4095 < mask → exec (.slipTableLoad tag) s = .next (s.onDev (Dev.replied c.id stSlipSlotInvalid (vals 0 0 0)))) ∧
       (slot ≤ 3 → mask ≤ 4095 → (∃ k, named k ∧ (at_ s.dev k i).state ≠ 0) →
         exec (.slipTableLoad tag) s = .next (s.onDev (Dev.replied c.id stSlipSlotBusy (vals 0 0 0))))) ∧
     (c.pkt.o2.getLsbD 32 = true → slot ≤ 3 → mask ≤ 4095 →
       ((∀ k, named k → (at_ s.dev k i).state = 1) →
         ∃ u : State, exec (.slipTableRelease tag) s = .next u ∧
           u = { s with dev := { s.dev with link := (s.dev.replied c.id stOk (vals 0 0 0)).link, kilns := u.dev.kilns } } ∧
           (∀ k, named k → ((s.dev.kilns.get k).slip.queue.any fun q => q.head.slot == slot && q.table.isSome) = false → at_ u.dev k i = {}) ∧
           (∀ k, named k → ((s.dev.kilns.get k).slip.queue.any fun q => q.head.slot == slot && q.table.isSome) = true →
             at_ u.dev k i = { at_ s.dev k i with state := 2 }) ∧
           (∀ k j, j ≠ i → (at_ s.dev k j).state ≠ 2 → at_ u.dev k j = at_ s.dev k j) ∧
           (∀ k, u.dev.kilns.get k = { s.dev.kilns.get k with slip := { (s.dev.kilns.get k).slip with slots := (u.dev.kilns.get k).slip.slots } }) ∧
           (∀ k, ¬ named k → u.dev.kilns.get k = s.dev.kilns.get k)) ∧
       ((∃ k, named k ∧ (at_ s.dev k i).state ≠ 1) →
         exec (.slipTableRelease tag) s = .next (s.onDev (Dev.replied c.id stSlipSlotState (vals 0 0 0))))))

-- Slip blocks (R254 to R272)

/-- R264, R265, R267, R269, R270, R271: on an open stream, a block header that passes its checks puts its block at the end of the kiln's queue,
a slip block bound to its table; a full queue waits. The queue's first block, where it is a slip block, is decoded and leaves the queue, and its
bytes are ready for the tile; a forerunner block whose turn has come is decoded likewise while its smoothing queue has room. A
check that fails marks the stream damaged. A second read of a damaged place goes on where it finds none; where the damage is confirmed the stream
and its blocks go, KLN_SLIP_STATUS keeps the check, and the launch stops with ST_SLIP_DAMAGE. -/
def Obligations.SlipBlocksAreReadAndDecoded : Prop :=
  ∀ (k : Fin 12) (s : State) (st : SlipStream),
    let slip (d : Dev) : SlipPart := (d.kilns.get k).slip
    let with_ (x : SlipPart) (d : Dev) : Dev := { d with kilns := vmod d.kilns k fun y => { y with slip := x } }
    let put (t : SlipStream) (l : List SlipStream) : List SlipStream := l.map fun x => if t.sameAs x then t else x
    let hurt (d : Dev) (kind da : Nat) : SlipPart :=
      { slip d with streams := put { st with damage := some { kind := kind, lane := 0 }, damageDa := da } (slip d).streams }
    let queued (d : Dev) (h : SlipHead) (tb : Option SlipTable) : SlipPart :=
      { slip d with
        queue := (slip d).queue ++ [{ launch := st.launch, kernel := st.kernel, buf := st.buf, unit := st.unit, da := st.nextDa, head := h,
                                      table := tb, fore := st.fore }],
        streams := put { st with nextDa := st.nextDa + h.blockLen, index := st.index + 1, expanded := st.expanded + h.origLen,
                                 stored := st.stored + h.blockLen } (slip d).streams }
    (∀ (u : SlipUse) (d1 : Dev), s.dev.slipUse k st.launch st.buf st.unit = some (u, st, d1) →
      (∀ w, st.struck = some w → exec (.slipBlockHeaderRead k st.launch st.buf st.unit) s = .next (s.onDev fun _ => d1.launchStruck st.launch w)) ∧
      (st.struck = none → st.damage = none → st.expanded < st.entry.expanded →
        (48 ≤ (slip d1).queue.length → ∃ t : State, exec (.slipBlockHeaderRead k st.launch st.buf st.unit) s = .next t ∧
          t = { s with dev := { d1 with ctrs := t.dev.ctrs } }) ∧
        ((slip d1).queue.length < 48 → st.entry.kind = 0 → st.fore = none → d1.mem.firstPoison st.nextDa 64 = none →
          let h := parseSlipHead (d1.mem.readBytes st.nextDa 64)
          (∀ tb : Option SlipTable, d1.slipBind k st h = .ok tb →
            ∃ t : State, exec (.slipBlockHeaderRead k st.launch st.buf st.unit) s = .next t ∧
              t = { s with dev := with_ (queued d1 h tb) { d1 with tier := t.dev.tier, ctrs := t.dev.ctrs, caches := t.dev.caches } }) ∧
          (∀ e : Nat, d1.slipBind k st h = .error e →
            ∃ t : State, exec (.slipBlockHeaderRead k st.launch st.buf st.unit) s = .next t ∧
              t = { s with dev := with_ (hurt d1 e st.nextDa) { d1 with tier := t.dev.tier, ctrs := t.dev.ctrs, caches := t.dev.caches } })) ∧
        (∀ h : ForeHead, (slip d1).queue.length < 48 → st.entry.kind = 1 → st.fore = some h → d1.mem.firstPoison st.nextDa 16 = none →
          (∀ x : SlipHead, st.foreHead h (d1.mem.readBytes st.nextDa 16) = some x →
            ∃ t : State, exec (.slipBlockHeaderRead k st.launch st.buf st.unit) s = .next t ∧
              t = { s with dev := with_ (queued d1 x none) { d1 with tier := t.dev.tier, ctrs := t.dev.ctrs, caches := t.dev.caches } }) ∧
          (st.foreHead h (d1.mem.readBytes st.nextDa 16) = none →
            ∃ t : State, exec (.slipBlockHeaderRead k st.launch st.buf st.unit) s = .next t ∧
              t = { s with dev := with_ (hurt d1 7 st.nextDa) { d1 with tier := t.dev.tier, ctrs := t.dev.ctrs, caches := t.dev.caches } }))) ∧
      (foreTurn (slip d1).queue st = none → exec (.forerunnerBlockDecoded k st.launch st.buf st.unit) s = .next (s.onDev fun _ => d1)) ∧
      (∀ (q : QueuedBlock) (h : ForeHead), foreTurn (slip d1).queue st = some q → q.fore = some h → st.damage = none →
        (max st.pos st.need + 16384 < st.out + q.head.origLen →
          exec (.forerunnerBlockDecoded k st.launch st.buf st.unit) s = .next (s.onDev fun _ => d1)) ∧
        (st.out + q.head.origLen ≤ max st.pos st.need + 16384 → d1.mem.firstPoison q.da q.head.blockLen = none →
          (∀ (n : Nat) (bs : List Byte), decodeForeBlock h (d1.mem.readBytes q.da q.head.blockLen) = some (n, bs) →
            ∃ t : State, exec (.forerunnerBlockDecoded k st.launch st.buf st.unit) s = .next t ∧
              let x : SlipPart := { slip d1 with queue := (slip d1).queue.erase q, slots := (slip t.dev).slots, streams := put (st.push bs) (slip d1).streams }
              t = { s with dev := with_ x { d1 with tier := t.dev.tier, ctrs := t.dev.ctrs, caches := t.dev.caches } }) ∧
          (decodeForeBlock h (d1.mem.readBytes q.da q.head.blockLen) = none →
            ∃ t : State, exec (.forerunnerBlockDecoded k st.launch st.buf st.unit) s = .next t ∧
              t = { s with dev := with_ (hurt d1 7 q.da) { d1 with tier := t.dev.tier, ctrs := t.dev.ctrs, caches := t.dev.caches } })))) ∧
    (∀ (q : QueuedBlock) (rest : List QueuedBlock), (slip s.dev).queue = q :: rest → q.fore = none →
      s.dev.findStream k q.launch q.kernel q.buf q.unit = some st →
      st.damage = none → s.dev.mem.firstPoison q.da q.head.blockLen = none →
      (∀ bs : List Byte, s.dev.slipDecode q = .ok bs →
        ∃ t : State, exec (.slipBlockDecoded k) s = .next t ∧
          t = { s with dev := (with_ { slip s.dev with queue := rest, slots := (slip t.dev).slots, streams := put (st.push bs) (slip s.dev).streams }
            { s.dev with tier := t.dev.tier, ctrs := t.dev.ctrs, caches := t.dev.caches }) } ∧
          (st.pos = st.out → (st.push bs).ready = st.ready ++ bs) ∧
          (∀ j : Fin 4, ((slip s.dev).slots.get j).state ≠ 2 → (slip t.dev).slots.get j = (slip s.dev).slots.get j)) ∧
      (∀ e : SlipDamage, s.dev.slipDecode q = .error e →
        ∃ t : State, exec (.slipBlockDecoded k) s = .next t ∧
          t = { s with dev := (with_ { slip s.dev with streams := put { st with damage := some e, damageDa := q.da } (slip s.dev).streams }
            { s.dev with tier := t.dev.tier, ctrs := t.dev.ctrs, caches := t.dev.caches }) })) ∧
    (∀ (dm : SlipDamage) (u : SlipUse), (slip s.dev).streams.find? (fun x => x.damage.isSome) = some st → st.damage = some dm →
      s.dev.useOf st = some u → s.dev.mem.firstPoison (s.dev.slipRange k u st dm).1 (s.dev.slipRange k u st dm).2 = none →
      (∀ s1 : SlipStream, s.dev.slipAgain k u st dm = .ok s1 →
        (∃ t : State, exec (.slipDamageReread k) s = .next t ∧
          t = { s with dev := with_ { slip s.dev with streams := put s1 (slip s.dev).streams } { s.dev with tier := t.dev.tier, ctrs := t.dev.ctrs, caches := t.dev.caches } }) ∧ s1.damage = none) ∧
      (∀ (e : SlipDamage) (l : Launch), s.dev.slipAgain k u st dm = .error e → e.kind = dm.kind → s.dev.launchOf st.launch = some l →
        l.phase = .running →
        ∃ t : State, exec (.slipDamageReread k) s = .next t ∧
          t = { s with dev := (with_ { slip s.dev with
              damageSeen := true, lastCheck := e.kind, lastLane := if e.kind = 3 ∨ e.kind = 4 then e.lane else 0,
              streams := (slip s.dev).streams.filter fun x => !st.sameAs x,
              queue := (slip t.dev).queue, slots := (slip t.dev).slots }
            { s.dev with tier := t.dev.tier, ctrs := t.dev.ctrs, caches := t.dev.caches, launches := t.dev.launches }) } ∧
          (∀ q ∈ (slip t.dev).queue, q.isOf st = false) ∧
          t.dev.launchOf st.launch = some { l with phase := .ending stSlipDamage, slipDa := st.damageDa, slipKind := e.kind }))

-- Collectives (R353 to R365)

/-- R357 to R360, R364: a COLL_START that passes its checks, in a group of more than one member that the device has routes to and
from which no READY has come, begins: its operation takes the group's next number, READY goes to every rank that data come from,
and the member's own share of a BROADCAST, ALLGATHER or ALLTOALL is in place; no other byte changes but the staging area's, whose
contents are the device's own. A BARRIER alone in its group is over at once. A check that fails refuses the command. -/
def Obligations.CollectivesBegin : Prop :=
  ∀ (tag : Tag) (s : State) (c : Cmd) (ds : CollDesc) (i : Instr), s.dev.Takes tag 0x50#8 c → c.Unbounded →
    let a := opDa c.pkt.o0
    s.dev.daOk a 64 = true → s.dev.mem.firstPoison a 64 = none → parseColl (s.dev.mem.readBytes a 64) = some ds →
    (ds.op, i) ∈ [(1, Instr.barrier tag), (2, .broadcast tag), (3, .reduce tag), (4, .allreduce tag), (5, .reduceScatter tag),
                  (6, .allgather tag), (7, .alltoall tag), (8, .send tag), (9, .recv tag)] →
    (∀ st : Half, s.dev.collCheck ds = some st → exec i s = .next (s.onDev fun d => (d.heat a 64).replied c.id st (vals 0 0 0))) ∧
    (∀ g : Group, s.dev.collCheck ds = none → s.dev.group ds.group = some g → s.dev.coll.ready = [] → s.dev.stagePending ds.stage = false →
      (∀ o ∈ s.dev.coll.ops, o.id ≠ c.id) → (∀ m ∈ s.dev.fabric.unacked ++ s.dev.fabric.waiting, m.owner ≠ .op c.id) →
      s.dev.fabric.node ∈ g.members → g.members.Nodup →
      let r := s.dev.rankIn g
      let n := ds.count * dtypeBytes ds.dtype
      (2 ≤ g.size → (pointToPoint ds.op = true → ds.root ≠ r) →
        (∀ x ∈ g.members, x ≠ s.dev.fabric.node → s.dev.fabric.entry (s.dev.lanternTo x) x.toNat ≠ 0#64) →
        s.dev.mem.firstPoison ds.src (ds.srcLen g.size r) = none → s.dev.mem.firstPoison ds.dst (ds.dstLen g.size r) = none →
        Memory.wf s.dev.mem = true →
        ∃ (t : State) (o : CollOp), exec i s = .next t ∧
          t = { s with dev := { s.dev with
            out := t.dev.out, link := (s.dev.setPhase c.id .running).link, mem := t.dev.mem, tier := t.dev.tier, ctrs := t.dev.ctrs,
            fabric := { s.dev.fabric with ports := t.dev.fabric.ports, nextMsg := t.dev.fabric.nextMsg, unacked := t.dev.fabric.unacked,
                                          waiting := t.dev.fabric.waiting },
            coll := { s.dev.coll with groups := t.dev.coll.groups, ops := s.dev.coll.ops ++ [o] } } } ∧
          o.id = c.id ∧ o.d = ds ∧ o.rank = r ∧ o.epoch = g.epoch ∧ o.seq = (g.number ds r).1 ∧ o.sentTo = [] ∧ o.got = [] ∧
          t.dev.group ds.group = some (g.number ds r).2 ∧
          (∀ q ∈ ds.froms g.size r, ∀ x, g.members[q]? = some x →
            ∃ m ∈ t.dev.fabric.unacked ++ t.dev.fabric.waiting, m.owner = .op c.id ∧ m.dest = x ∧ m.payload = (o.msg mReady).bytes) ∧
          (ds.op = 2 → r = ds.root → ∀ j < n, t.dev.mem.read (ds.dst + j) = s.dev.mem.read (ds.src + j)) ∧
          (ds.op = 6 → ∀ j < n, t.dev.mem.read (ds.dst + r * n + j) = s.dev.mem.read (ds.src + j)) ∧
          (ds.op = 7 → ∀ j < n, t.dev.mem.read (ds.dst + r * n + j) = s.dev.mem.read (ds.src + r * n + j)) ∧
          (∀ x, (x < ds.dst ∨ ds.dst + ds.dstLen g.size r ≤ x) → (reduces ds.op = true → x < ds.stage ∨ ds.stage + 4 * 2 ^ ds.chunk ≤ x) →
            t.dev.mem.read x = s.dev.mem.read x)) ∧
      (ds.op = 1 → g.size = 1 →
        ∃ t : State, exec (.barrier tag) s = .next t ∧
          t = { s with dev := { s.dev with link := (s.dev.replied c.id stOk (vals 0 0 0)).link, tier := t.dev.tier,
                                           coll := { s.dev.coll with groups := t.dev.coll.groups } } } ∧
          t.dev.group ds.group = some { g with opSeq := (g.opSeq + 1) % 2 ^ 32 }))

-- Groups and jobs (R353 to R356, R366 to R370, R381)

/-- R354, R355: a GROUP_BIND whose list is well formed and holds this device binds its handle at once where the device is alone in it, and
otherwise sends BIND to every other member and waits; the BIND that was the last missing one completes it, the group's count of
events 0. R356: GROUP_RELEASE of a group that nothing uses frees its handle. R368: a GRAD_JOB_OPEN that passes its checks opens the
job. R381: GRAD_JOB_CLOSE of a job with no step in flight takes it away. -/
def Obligations.GroupsAndJobsComeAndGo : Prop :=
  ∀ (tag : Tag) (s : State) (c : Cmd), c.Unbounded →
    let a := opDa c.pkt.o0
    let done (d : Dev) : Dev := d.replied c.id stOk (vals 0 0 0)
    (∀ ds : CollDesc, s.dev.Takes tag 0x50#8 c → s.dev.daOk a 64 = true → s.dev.mem.firstPoison a 64 = none →
      parseColl (s.dev.mem.readBytes a 64) = some ds →
      (ds.op = 0x10 →
        let bs := s.dev.mem.readBytes ds.src (2 * ds.count)
        let xs := elems 2 bs
        let ids : List NodeId := xs.map fun x => BitVec.ofNat 14 x
        ds.group ≤ 1023 → 0 < ds.count → ds.count ≤ 16384 → ds.dtype = 0 → ds.redop = 0 → ds.path = 0 → ds.root = 0 → ds.job = 0 → ds.bucket = 0 →
        s.dev.daOk ds.src (2 * ds.count) = true → s.dev.mem.firstPoison ds.src (2 * ds.count) = none →
        (∀ x ∈ xs, x < 16384) → s.dev.fabric.node ∈ ids → ids.Nodup → s.dev.coll.groups.length + s.dev.coll.binds.length < 1024 →
        (∀ g ∈ s.dev.coll.groups, g.handle ≠ ds.group) → (∀ b ∈ s.dev.coll.binds, b.handle ≠ ds.group) →
        (∀ e ∈ s.dev.coll.earlyBinds, e.handle ≠ ds.group) →
        (∀ m ∈ s.dev.fabric.unacked ++ s.dev.fabric.waiting, m.owner ≠ .bind ds.group) →
        (ds.count = 1 → ∃ t : State, exec (.groupBind tag) s = .next t ∧
          t = { s with dev := { s.dev with
            link := (done s.dev).link, tier := t.dev.tier,
            coll := { s.dev.coll with groups := s.dev.coll.groups ++ [{ handle := ds.group, members := ids, generation := ds.generation, events := 0,
                                                                         stale := false, opSeq := 0, pairSeq := [] }] } } }) ∧
        (1 < ds.count → s.dev.isMember = true →
          (∀ x ∈ ids, x ≠ s.dev.fabric.node → s.dev.fabric.entry (s.dev.lanternTo x) x.toNat ≠ 0#64) →
          ∃ (t : State) (b : Bind), exec (.groupBind tag) s = .next t ∧
            t = { s with dev := { s.dev with
              out := t.dev.out, link := (s.dev.setPhase c.id .running).link, tier := t.dev.tier, ctrs := t.dev.ctrs,
              fabric := { s.dev.fabric with ports := t.dev.fabric.ports, nextMsg := t.dev.fabric.nextMsg, unacked := t.dev.fabric.unacked,
                                            waiting := t.dev.fabric.waiting },
              coll := { s.dev.coll with binds := s.dev.coll.binds ++ [b] } } } ∧
            b.cmd = c.id ∧ b.handle = ds.group ∧ b.members = ids ∧ b.generation = ds.generation ∧ b.digest = listDigest bs ∧ b.got = [] ∧
            (∀ x ∈ ids, x ≠ s.dev.fabric.node → ∃ m ∈ t.dev.fabric.unacked ++ t.dev.fabric.waiting, m.owner = .bind ds.group ∧ m.dest = x))) ∧
      (ds.op = 0x11 → ∀ g : Group, s.dev.group ds.group = some g → (∀ o ∈ s.dev.coll.ops, o.d.group ≠ ds.group) →
        (∀ j ∈ s.dev.coll.jobs, j.group ≠ ds.group) →
        exec (.groupRelease tag) s = .next (s.onDev fun d => done { d.heat a 64 with coll := { d.coll with
          groups := d.coll.groups.filter (fun g => g.handle != ds.group),
          ready := d.coll.ready.filter fun r => r.handle != ds.group } }))) ∧
    (∀ (i : Nat) (x : InMsg) (b : Bind), s.dev.fabric.inbox[i]? = some x → (parseMsg x.payload).kind = 8 →
      s.dev.coll.binds.find? (fun b => b.handle == (parseMsg x.payload).group) = some b → b.generation = (parseMsg x.payload).epoch / 2 ^ 16 →
      b.digest = (parseMsg x.payload).data.take 8 → (∀ n ∈ b.members, n = s.dev.fabric.node ∨ n = x.src ∨ n ∈ b.got) → b.cmd = c.id →
      s.dev.cmd c.id = some c → c.phase ≠ .done → (∀ m ∈ s.dev.fabric.unacked ++ s.dev.fabric.waiting, m.owner ≠ .bind b.handle) →
      exec (.bindMessage i) s = .next (s.onDev fun d => done { d with
        fabric := { d.fabric with inbox := d.fabric.inbox.eraseIdx i },
        coll := { d.coll with
          binds := d.coll.binds.filter (fun y => y.handle != b.handle),
          groups := d.coll.groups ++ [{ handle := b.handle, members := b.members, generation := b.generation, events := 0, stale := false,
                                        opSeq := 0, pairSeq := [] }] } })) ∧
    (s.dev.Takes tag 0x51#8 c → s.dev.daOk a 64 = true → s.dev.mem.firstPoison a 64 = none →
      let h := s.dev.mem.readBytes a 64
      let n := bytesAt h 5 4
      let recs := (chunks 32 n (s.dev.mem.readBytes (a + 64) (32 * n))).map parseBucket
      let j := parseJob h (recs.filterMap id)
      s.dev.daOk (a + 64) (32 * n) = true → s.dev.mem.firstPoison (a + 64) (32 * n) = none →
      (s.dev.jobCheck j (bytesAt h 6 6) (zeroAt h 63 37 && recs.all (·.isSome)) = none → s.dev.stagePending j.stage = false →
        ∃ t : State, exec (.gradJobOpen tag) s = .next t ∧
          t = { s with dev := { s.dev with link := (done s.dev).link, mem := t.dev.mem, tier := t.dev.tier,
                                           coll := { s.dev.coll with jobs := s.dev.coll.jobs ++ [j] } } } ∧
          (j.thinN ≤ 1 → t.dev.mem = s.dev.mem) ∧
          (1 < j.thinN → ∀ x, j.acc ≤ x → x < j.acc + 4 * j.values → t.dev.mem.read x = 0#8) ∧
          (∀ x, x < j.acc ∨ j.acc + 4 * j.values ≤ x → t.dev.mem.read x = s.dev.mem.read x)) ∧
      (∀ st : Half, s.dev.jobCheck j (bytesAt h 6 6) (zeroAt h 63 37 && recs.all (·.isSome)) = some st →
        ∃ t : State, exec (.gradJobOpen tag) s = .next t ∧
          t = { s with dev := { s.dev with link := (s.dev.replied c.id st (vals 0 0 0)).link, tier := t.dev.tier } })) ∧
    (∀ j : GradJob, s.dev.Takes tag 0x52#8 c → s.dev.job (opnd c.pkt.o0 15 0) = some j → j.closing = none →
      (j.active = false → j.queued = [] →
        exec (.gradJobClose tag) s = .next (s.onDev fun d => done { d with coll := { d.coll with
          jobs := d.coll.jobs.filter (fun x => x.id != j.id), slots := d.coll.slots.filter (fun x => x.key.job != j.id),
          marks := d.coll.marks.filter fun m => m.2.job != j.id } })) ∧
      (j.active = true → ∃ t : State, exec (.gradJobClose tag) s = .next t ∧
        t = { s with dev := { s.dev with link := (s.dev.setPhase c.id .running).link, coll := { s.dev.coll with jobs := t.dev.coll.jobs } } } ∧
        t.dev.job j.id = some { j with closing := some c.id } ∧ ∀ k, k ≠ j.id → t.dev.job k = s.dev.job k))

/-- R369, R370: a GRAD_CONTRIBUTE that passes its checks, of a job with no step in flight, no thinning and no chain order, begins the job's
next step in the group's epoch with its bucket ready: the bucket's shards are in flight up to WINDOW, and the rest wait. -/
def Obligations.GradContributeBeginsAStep : Prop :=
  ∀ (tag : Tag) (s : State) (c : Cmd) (ds : CollDesc) (g : Group) (j : GradJob) (b : GradBucket), s.dev.Takes tag 0x50#8 c →
    let a := opDa c.pkt.o0
    s.dev.daOk a 64 = true → s.dev.mem.firstPoison a 64 = none → parseColl (s.dev.mem.readBytes a 64) = some ds → ds.op = 0x0A →
    s.dev.collCheck ds = none → s.dev.group ds.group = some g → s.dev.job ds.job = some j → j.trigger = 1 → j.group = ds.group → j.closing = none →
    s.dev.stagePending j.stage = false → j.active = false → j.thinN ≤ 1 → j.ordered = false → j.endpoints = [] → j.held = [] → j.buckets[ds.bucket]? = some b → 0 < b.count →
    s.dev.mem.firstPoison b.src b.count = none → s.dev.mem.firstPoison b.srcScale (b.count / 32) = none →
    s.dev.fabric.node ∈ g.members →
    (∀ x ∈ g.members, x ≠ s.dev.fabric.node → s.dev.fabric.entry (s.dev.lanternTo x) x.toNat ≠ 0#64) →
    (∀ m ∈ s.dev.fabric.unacked ++ s.dev.fabric.waiting, m.owner ≠ .job j.id) →
    let shards := (List.range b.shards).map fun k => (ds.bucket, k)
    ∃ (t : State) (j' : GradJob), exec (.gradContribute tag) s = .next t ∧
      t = { s with dev := { s.dev with
        out := t.dev.out, freeCtr := s.dev.freeCtr + 1, link := (s.dev.setPhase c.id .running).link, tier := t.dev.tier, ctrs := t.dev.ctrs,
        fabric := { s.dev.fabric with ports := t.dev.fabric.ports, nextMsg := t.dev.fabric.nextMsg, unacked := t.dev.fabric.unacked,
                                      waiting := t.dev.fabric.waiting, inbox := t.dev.fabric.inbox },
        coll := { s.dev.coll with jobs := t.dev.coll.jobs } } } ∧
      t.dev.job j.id = some j' ∧ (∀ k, k ≠ j.id → t.dev.job k = s.dev.job k) ∧
      j' = { j with cmds := [c.id], epoch := g.epoch, ready := [ds.bucket], inFlight := shards.take j.window, todo := shards.drop j.window,
                    done := [], gotBytes := [], nonFinite := false, reason := none, aborted := false, launch := none, waits := [],
                    seed := j'.seed }

-- Messages that arrive (R351, R360 to R363, R372 to R378)

/-- R351, R360 to R363: a message of a group's present epoch leaves the inbox. READY is kept for the operation it belongs to; the last
READY of a BARRIER completes it; one that differs from the device's own operation ends it with ST_COLL_MISMATCH, and so does an ABORT.
DATA is written at its offset in the destination and nowhere else. A running sum gets this rank's input added and waits for the next rank.
A message of a later epoch is held, one of an earlier epoch discarded. R371 to R378: a whole contribution to a shard this member reduces
claims a slot, takes the tally of its values and is added to the slot's sums. A result's bytes go to their place in DST and nowhere else,
and a shard whose result is whole is no longer in flight. An ENDPOINT takes the shard out of flight for the chain. A chain sum waits for
this member's bucket. An ABORT of the job's present step ends it with ST_STEP_REPEAT: its slots are gone and its messages are discarded
from then on. -/
def Obligations.CollectiveMessagesAreTaken : Prop :=
  (∀ (i : Nat) (s : State) (x : InMsg) (g : Group), s.dev.fabric.inbox[i]? = some x →
     let m := parseMsg x.payload
     s.dev.group m.group = some g →
     let gone (d : Dev) : Dev := { d with fabric := { d.fabric with inbox := d.fabric.inbox.eraseIdx i } }
     let mark : ReadyMark := { handle := m.group, epoch := m.epoch, op := m.op, seq := m.seq, rank := m.rank, dtype := m.dtype, count := m.count }
     (∀ (k : Nat) (e : Instr), (k, e) ∈ [(1, Instr.readyMessage i), (2, .collDataMessage i)] → m.kind = k →
       (m.epoch < g.epoch → exec e s = .next (s.onDev gone)) ∧
       (g.epoch < m.epoch → exec e s = .next (s.onDev fun d => { d with fabric := { d.fabric with
         inbox := d.fabric.inbox.set i { x with heldTo := some (x.heldTo.getD (d.after 20000)) } } }))) ∧
     (m.epoch = g.epoch → m.kind = 1 → s.dev.opOf m = none →
       exec (.readyMessage i) s = .next (s.onDev fun d => { gone d with coll := { d.coll with ready := d.coll.ready ++ [mark] } })) ∧
     (∀ (o : CollOp) (c : Cmd), m.epoch = g.epoch → s.dev.opOf m = some o → s.dev.collOp o.id = some o → o.epoch = m.epoch →
       s.dev.cmd o.id = some c → c.phase ≠ .done → c.Unbounded →
       (∀ y ∈ s.dev.fabric.unacked ++ s.dev.fabric.waiting, y.owner ≠ .op o.id) →
       let ended (st : Half) (t : State) : Prop :=
         t = { s with dev := { s.dev with
           out := t.dev.out, link := (s.dev.replied o.id st (vals 0 0 0)).link, ctrs := t.dev.ctrs, fabric := t.dev.fabric,
           coll := { s.dev.coll with ops := s.dev.coll.ops.filter (fun y => y.id != o.id), ready := t.dev.coll.ready, seen := t.dev.coll.seen } } }
       (m.kind = 1 → o.d.op = 1 → o.differs m = false → m.rank ≠ o.rank → m.rank < g.size → o.rank < g.size →
         (∀ q < g.size, q ≠ o.rank → q ≠ m.rank → q ∈ s.dev.readyRanks o ∧ q ∈ o.sentTo) →
         ∃ t : State, exec (.readyMessage i) s = .next t ∧ ended stOk t ∧ t.dev.fabric = (gone s.dev).fabric ∧ t.dev.coll.seen = s.dev.coll.seen) ∧
       (m.kind = 1 → o.differs m = true →
         ∃ t : State, exec (.readyMessage i) s = .next t ∧ ended stCollMismatch t ∧ t.dev.coll.seen.getLsbD 4 = true) ∧
       (m.kind = 6 → m.op ≠ 0x0A →
         ∃ t : State, exec (.collAbortMessage i) s = .next t ∧ ended stCollMismatch t ∧ t.dev.coll.seen.getLsbD 4 = true) ∧
       (m.kind = 2 → o.differs m = false → m.rank ∈ o.d.froms g.size o.rank → m.offset + m.data.length ≤ o.d.dstLen g.size o.rank →
         s.dev.mem.firstPoison (o.d.dst + m.offset) m.data.length = none → Memory.wf s.dev.mem = true →
         ∃ t : State, exec (.collDataMessage i) s = .next t ∧
           t = { s with dev := { s.dev with
             out := t.dev.out, link := t.dev.link, mem := t.dev.mem, tier := t.dev.tier, ctrs := t.dev.ctrs, repair := t.dev.repair,
             fabric := t.dev.fabric, coll := { s.dev.coll with ops := t.dev.coll.ops, ready := t.dev.coll.ready } } } ∧
           t.dev.mem.readBytes (o.d.dst + m.offset) m.data.length = m.data ∧
           (∀ y, y < o.d.dst + m.offset ∨ o.d.dst + m.offset + m.data.length ≤ y → t.dev.mem.read y = s.dev.mem.read y) ∧
           (∀ o', t.dev.collOp o.id = some o' → (m.rank, m.offset, m.data.length) ∈ o'.got)) ∧
       (let rb := runBytes o.d.dtype
        let es := dtypeBytes o.d.dtype
        let first := m.offset / rb
        let xs := elems rb m.data
        m.kind = 3 → m.op ≠ 0x0A → o.differs m = false → o.rank = m.rank + 1 → o.rank + 1 < g.size → reduces o.d.op = true →
         first + xs.length ≤ o.d.chainElems g.size → s.dev.mem.firstPoison (o.d.src + first * es) (xs.length * es) = none →
         s.dev.readyRanks o = [] →
         ∃ t : State, exec (.chainMessage i) s = .next t ∧
           t = { s with dev := { s.dev with fabric := (gone s.dev).fabric, tier := t.dev.tier, coll := { s.dev.coll with ops := t.dev.coll.ops } } } ∧
           t.dev.collOp o.id = some { o with
             sums := o.sums ++ [(first, xs.zipWith (redStep o.d.dtype o.d.redop)
               ((elems es (s.dev.mem.readBytes (o.d.src + first * es) (xs.length * es))).map (runOf o.d.dtype)))],
             formed := o.formed + (xs.zipWith (redStep o.d.dtype o.d.redop)
               ((elems es (s.dev.mem.readBytes (o.d.src + first * es) (xs.length * es))).map (runOf o.d.dtype))).length }))) ∧
  (∀ (i : Nat) (s : State) (x : InMsg) (g : Group) (j : GradJob), s.dev.fabric.inbox[i]? = some x →
     let m := parseMsg x.payload
     let gone (d : Dev) : Dev := { d with fabric := { d.fabric with inbox := d.fabric.inbox.eraseIdx i } }
     s.dev.group m.group = some g → m.epoch = g.epoch → s.dev.job m.job = some j → m.seq = j.step → j.aborted = false → j.group = m.group →
     let key := (m.bucket, m.shard)
     let job_ (j' : GradJob) (d : Dev) : Dev := { d with coll := { d.coll with jobs := updFirst (fun y => y.id == j.id) (fun _ => j') d.coll.jobs } }
     (∀ b : GradBucket, m.kind = 4 → j.buckets[m.bucket]? = some b →
       let l : Fin 4 := Fin.ofNat 4 (m.shard / g.size)
       let rk : RedKey := { job := m.job, step := m.seq, bucket := m.bucket, shard := m.shard }
       let n := b.shardLen m.shard
       let vs := decodeShard (gradFmt b) n m.data
       m.shard < b.shards → (m.bucket + m.shard) % g.size = s.dev.rankIn g → (∀ y ∈ s.dev.coll.marks, y.2 ≠ rk) →
       (∀ y ∈ s.dev.coll.slots, y.key ≠ rk) → s.dev.coll.claimed l < 512 → (s.dev.coll.red.get l).ok = true → 2 ≤ g.size →
       m.data.length = n + n / 32 → tallyOf vs = (m.tally, m.nonFinite) →
       let part : RedPart := { rank := m.rank, pieces := [(m.offset, m.data)], tally := m.tally, nonFinite := m.nonFinite, added := true }
       let slot : RedSlot := { lantern := l, key := rk, sums := (List.replicate n 0#32).zipWith fadd vs, due := s.dev.after (s.dev.stepLimit m.job),
                               parts := [part] }
       ∃ t : State, exec (.contribMessage i 0) s = .next t ∧
         t = { s with dev := { s.dev with
           ctrs := t.dev.ctrs, fabric := (gone s.dev).fabric, coll := { s.dev.coll with red := t.dev.coll.red, slots := s.dev.coll.slots ++ [slot] } } } ∧
         t.dev.coll.red.get l = { s.dev.coll.red.get l with peak := max (s.dev.coll.red.get l).peak (s.dev.coll.claimed l + 1) }) ∧
     (∀ b : GradBucket, m.kind = 5 → j.active = true → j.buckets[m.bucket]? = some b → m.shard < b.shards → j.resultFmt < 2 → j.thinN ≤ 1 →
       j.queued = [] → key ∉ j.todo →
       let es := resultElem j.resultFmt
       let at_ := b.dst + m.shard * 16384 * es + m.offset
       m.offset + m.data.length ≤ b.shardLen m.shard * es → s.dev.mem.firstPoison at_ m.data.length = none → Memory.wf s.dev.mem = true →
       ∃ t : State, exec (.resultMessage i) s = .next t ∧
         t = { s with dev := { s.dev with
           out := t.dev.out, link := t.dev.link, mem := t.dev.mem, tier := t.dev.tier, ctrs := t.dev.ctrs, launches := t.dev.launches,
           candle := t.dev.candle, fabric := t.dev.fabric, coll := t.dev.coll } } ∧
         t.dev.mem.readBytes at_ m.data.length = m.data ∧
         (∀ y, y < at_ ∨ at_ + m.data.length ≤ y → t.dev.mem.read y = s.dev.mem.read y) ∧
         (∀ j', t.dev.job j.id = some j' → j'.active = true → m.offset = 0 → m.data.length = b.shardLen m.shard * es →
           key ∈ j'.done ∧ key ∉ j'.inFlight)) ∧
     (m.kind = 7 → key ∉ j.endpoints → m.bucket ∉ j.ready → j.todo = [] →
       exec (.endpointMessage i) s = .next (s.onDev fun d => job_ { j with
           endpoints := j.endpoints ++ [key], endpointCount := j.endpointCount + 1, inFlight := j.inFlight.filter (· != key) }
         { gone d with coll := { d.coll with seen := d.coll.seen ||| 8#6 } })) ∧
     (m.kind = 3 → m.op = 0x0A → m.rank + 1 = s.dev.rankIn g → m.bucket ∉ j.ready →
       exec (.chainMessage i) s = .next (s.onDev fun d => job_ { j with
         held := j.held ++ [(key, m.offset / 4, (elems 4 m.data).map fun y => BitVec.ofNat 32 y)] } (gone d))) ∧
     (m.kind = 6 → m.op = 0x0A → j.launch = none → j.closing = none → j.queued = [] →
       ∃ t : State, exec (.collAbortMessage i) s = .next t ∧ State.StepEndsEarly s t j m.reason))

/-- R354, R360, R382: a bind whose BINDs have not all come by its limit frees its handle, and an operation that waits for a READY by its
limit ends; the command completes with ST_COLL_TIMEOUT and HUB_COLL_STATUS keeps it. R377, R378: a reduction
slot that has not every contribution by its job's timeout, or a chain's sums that have not all come by it, aborts the step, which ends with ST_STEP_REPEAT and REASON 1. -/
def Obligations.CollectiveWaitsEnd : Prop :=
  (∀ (s : State) (j : GradJob) (g : Group) (b k : Nat) (sl : RedSlot), s.dev.job j.id = some j → s.dev.group j.group = some g →
    j.aborted = false → j.launch = none → j.closing = none → j.queued = [] →
    s.dev.coll.slots.find? (fun y => y.key.job == j.id && y.key.bucket == b && y.key.shard == k) = some sl → sl.key.step = j.step →
    s.dev.due sl.due = true → ∃ t : State, exec (.stepTimeout j.id b k) s = .next t ∧ State.StepEndsEarly s t j 1) ∧
  (∀ (s : State) (j : GradJob) (g : Group) (b k left due : Nat), s.dev.job j.id = some j → s.dev.group j.group = some g →
    j.aborted = false → j.launch = none → j.closing = none → j.queued = [] → j.active = true → ((b, k), left, due) ∈ j.waits → s.dev.due due = true →
    (∀ y ∈ s.dev.coll.slots, ¬ (y.key.job = j.id ∧ y.key.bucket = b ∧ y.key.shard = k)) →
    ∃ t : State, exec (.stepTimeout j.id b k) s = .next t ∧ State.StepEndsEarly s t j 1) ∧
  ∀ (s : State) (c : Cmd), s.dev.cmd c.id = some c → c.phase ≠ .done → c.Unbounded →
    let seen (x : BitVec 6) : BitVec 6 := x ||| 4#6
    (∀ b : Bind, s.dev.coll.binds.find? (fun b => b.cmd == c.id) = some b → s.dev.due b.due = true →
      (∀ m ∈ s.dev.fabric.unacked ++ s.dev.fabric.waiting, m.owner ≠ .bind b.handle) →
      exec (.collTimeout c.id) s = .next (s.onDev fun d => ({ d with coll := { d.coll with
        binds := d.coll.binds.filter (fun x => x.handle != b.handle), seen := seen d.coll.seen } } : Dev).replied c.id stCollTimeout (vals 0 0 0))) ∧
    (∀ (o : CollOp) (g : Group) (q : Nat), (∀ b ∈ s.dev.coll.binds, b.cmd ≠ c.id) → s.dev.collOp c.id = some o → s.dev.group o.d.group = some g →
      s.dev.due o.due = true → q ∈ o.d.tos g.size o.rank → q ∉ s.dev.readyRanks o →
      ∃ t : State, exec (.collTimeout c.id) s = .next t ∧
        t = { s with dev := { s.dev with
          link := (s.dev.replied c.id stCollTimeout (vals 0 0 0)).link, fabric := t.dev.fabric,
          coll := { s.dev.coll with ops := s.dev.coll.ops.filter (fun x => x.id != c.id), ready := t.dev.coll.ready, seen := seen s.dev.coll.seen } } } ∧
        (∀ m ∈ t.dev.fabric.unacked ++ t.dev.fabric.waiting, m.owner ≠ .op c.id))

-- Media sessions and frames (R283 to R298)

/-- R283 to R287, R289 to R296: MEDIA_OPEN of a descriptor that passes its checks opens a session under a number of its own, every slot
clear, with its own cores where it is REALTIME. A MEDIA_DECODE or MEDIA_ENCODE that passes its checks, alone at the arbiter, takes its release
mask, reads what it codes, and takes its lowest clear codec slot and its cores. A frame that ends decoded has its picture in the slot,
the standard's references are kept, and at a unit's last frame its statistics are in memory and what it shows is marked OUT; a unit that breaks a
rule or names a reference the session does not hold is undone but for its releases. A frame that ends coded adds its bytes; at a command's
last one they are in memory with the statistics, or nothing is where the capacity is short. MEDIA_CLOSE of a session with nothing in flight
frees it. A release whose launches are over takes OUT away. The values that a codec gives are free ones (log 120). -/
def Obligations.MediaSessionsAndFrames : Prop :=
  ∀ (tag : Tag) (s : State) (c : Cmd), c.Unbounded →
    let md := s.dev.media
    (let a := opDa c.pkt.o0
     let r := s.dev.mem.readBytes a 64
     s.dev.Takes tag 0x60#8 c → s.dev.daOk a 64 = true → s.dev.mem.firstPoison a 64 = none →
      (s.dev.openCheck r (parseSess r) = stOk →
        ∃ num : Nat, num < 64 ∧ s.dev.session num = none ∧
          exec (.mediaOpen tag) s = .next (s.onDev fun d =>
            let cores := if (parseSess r).realtime then ((d.codecCores (parseSess r).wheel).filter fun n =>
                !(d.media.sessions.any fun y => y.desc.wheel == (parseSess r).wheel && y.reserved.contains n)).take (parseSess r).cores else []
            let ss := d.media.sessions ++ [{ num := num, desc := parseSess r, marks := List.replicate (parseSess r).slots {}, reserved := cores }]
            ({ d.heat a 64 with freeCtr := d.freeCtr + 1, media := { d.media with sessions := ss, peak := max d.media.peak ss.length } } : Dev).replied
              c.id stOk (vals num 0 0))) ∧
      (s.dev.openCheck r (parseSess r) = stMediaTableFull → exec (.mediaOpen tag) s = .next (s.onDev fun d =>
        ({ d.heat a 64 with media := { d.media with fullSeen := true } } : Dev).replied c.id stMediaTableFull (vals 0 0 0))) ∧
      (s.dev.openCheck r (parseSess r) ≠ stOk → s.dev.openCheck r (parseSess r) ≠ stMediaTableFull →
        exec (.mediaOpen tag) s = .next (s.onDev fun d => (d.heat a 64).replied c.id (s.dev.openCheck r (parseSess r)) (vals 0 0 0)))) ∧
    (∀ (dec : Bool) (i : Instr) (op : Byte) (x : Session) (cores : Bool → List Nat) (slot : Nat),
      (dec = true ∧ i = .mediaDecode tag ∧ op = 0x61#8) ∨ (dec = false ∧ i = .mediaEncode tag ∧ op = 0x62#8) → s.dev.Takes tag op c →
      let j := mediaJobOf md.nextJob (.cmd c.id) dec c.pkt.o0.toNat c.pkt.o1.toNat c.pkt.o2.toNat c.pkt.o3.toNat
      s.dev.mediaCheck j none = stOk → md.jobs = [] → s.dev.session j.session = some x → (∀ y ∈ md.sessions, y.closing = none) →
      (∀ l ∈ s.dev.launches, l.mediaReads = [] ∧ l.mediaWrites = []) → x.pending = [] →
      (dec = true → 0 < j.length) → (dec = false → (j.plan x).coded ≠ []) →
      let free (k : Nat) : Prop := x.desc.hostSlots ≤ k ∧ ∃ m, x.marks[k]? = some m ∧
        (if dec then { m with out := m.out && !bit j.release k } else m) = {}
      free slot → (∀ k < slot, ¬ free k) → x.desc.slots = x.marks.length →
      (∀ one, s.dev.coresFor x one = some (cores one)) → (∀ r ∈ j.inputs x (j.plan x), s.dev.mem.firstPoison r.1 r.2 = none) →
      let j1 : MediaJob := { j with waits := [], before := some x, unit := if dec then s.dev.mem.readBytes j.da j.length else [],
                                    source := if dec then [] else s.dev.sourceOf j x }
      ∃ (d' : Dev) (x' : Session), exec i s = .next ((s.onDev fun _ => d').flushReports) ∧
        d' = { s.dev with
          link := (s.dev.setPhase c.id .running).link,
          media := { md with
            jobs := [{ j1 with started := true, slot := if j1.writes x then some slot else none, cores := cores (j1.single x) }],
            nextJob := md.nextJob + 1, sessions := d'.media.sessions } } ∧
        d'.session j.session = some x' ∧ x' = { x with marks := x'.marks } ∧ (∀ n, n ≠ j.session → d'.session n = s.dev.session n) ∧
        (∀ (k : Nat) (m : Marks), x.marks[k]? = some m → x'.marks[k]? = some { m with
          write := m.write || (j1.writes x && k == slot), out := m.out && !(dec && bit j.release k),
          inn := m.inn || (!dec && j.inSlot != 255 && k == j.inSlot) })) ∧
    (∀ (j : MediaJob) (x b : Session), md.jobs = [j] → j.started = true → s.dev.session j.session = some x → j.session = x.num →
      (∀ y ∈ md.sessions, y.closing = none) → j.owner = .cmd c.id → s.dev.cmd c.id = some c → c.phase ≠ .done → j.before = some b →
      let done := exec (.codecFrameComplete j.id j.step) s
      let base (k : Nat) : Nat := x.desc.slotDa k
      let own := (List.range b.desc.slots).filter fun k => bit j.release k && (b.marks.getD k {}).out && !(x.pending.any fun p => p.1 == k)
      let stored (rows : List (Nat × List Byte)) (k : Nat) : Mem := rows.foldl (fun m p => m.store (base k + p.1) p.2) s.dev.mem
      let goes (t : Dev) (st : Half) (a b c' : Nat) : Prop :=
        done = .next ((s.onDev fun _ => t).flushReports) ∧
        t = { s.dev with
          link := (s.dev.replied c.id st (vals a b c')).link, mem := t.mem, tier := t.tier, wheels := t.wheels, ctrs := t.ctrs, caches := t.caches,
          media := { md with jobs := [], sessions := t.media.sessions, streamErrSeen := md.streamErrSeen || st == stMediaStreamError,
                             outSpaceSeen := md.outSpaceSeen || st == stMediaOutSpace } } ∧
        (∀ n, n ≠ j.session → t.session n = s.dev.session n)
      let refsHere := ∀ p ∈ x.needs j.unit j.step, ∃ r ∈ x.refs, r.2 = p
      let fails (m : Mem) : Prop := ∃ t : Dev, goes t stMediaStreamError 0 0 0 ∧ t.mem = m ∧
        t.session j.session = some { x.undo b own true with history := b.history ++ [(j.unit, 0)] }
      (∀ n, n ≠ j.step → exec (.codecFrameComplete j.id n) s = .next s.flushReports) ∧
      (j.decode = true →
        (x.unitOk j.unit = false → fails s.dev.mem) ∧
        (x.unitOk j.unit = true → j.slot = none →
          (x.shownAt j.unit none = none → fails s.dev.mem) ∧
          (∀ k n, x.shownAt j.unit none = some (k, n) → ∃ (t : Dev) (x' : Session), goes t stOk (k.getD 0xFF) n x.frames ∧
            t.session j.session = some x' ∧ x'.history = x.history ++ [(j.unit, 1)] ∧ x'.refs = x.refs ∧ x'.frames = x.frames)) ∧
        (∀ slot, x.unitOk j.unit = true → j.slot = some slot →
          (¬ refsHere → fails s.dev.mem) ∧
          (refsHere →
            let w := x.ask j.unit [4]
            let h := x.ask j.unit [5]
            let rows := x.desc.picture w h fun plane row col => x.ask j.unit [11, j.step, plane, row, col]
            let kept := ((x.refs.filter fun r => r.1 != slot) ++ [(slot, (x.history.length, j.step))]).filter fun r => (x.keeps j.unit j.step).contains r.2
            (j.step + 1 < x.unitFrames j.unit → done = .next ((s.onDev fun _ => (s.dev.decodeFrame j x slot).mediaPump).flushReports) ∧
              (s.dev.decodeFrame j x slot).mem = stored rows slot ∧
              ∃ x' : Session, (s.dev.decodeFrame j x slot).session j.session = some x' ∧ x'.refs = kept ∧ x'.frames = x.frames + 1 ∧ x'.history = x.history) ∧
            (x.unitFrames j.unit ≤ j.step + 1 → j.stats = [] →
              let y := x.frameDone slot (x.history.length, j.step) (x.keeps j.unit j.step)
              (y.shownAt j.unit (some slot) = none → fails (stored rows slot)) ∧
              (∀ k n, y.shownAt j.unit (some slot) = some (k, n) → ∃ (t : Dev) (x' : Session), goes t stOk (k.getD 0xFF) n x.frames ∧
                t.session j.session = some x' ∧ x'.refs = kept ∧ x'.frames = x.frames + 1 ∧ x'.history = x.history ++ [(j.unit, 1)] ∧
                (∀ i, k = some i → i < x.marks.length → (x'.marks.getD i {}).out = true) ∧
                (x.desc.hostSlots ≤ slot → slot < x.marks.length → (x'.marks.getD slot {}).write = false) ∧
                (j.statsDa = 0 → t.mem = stored rows slot) ∧
                (j.statsDa ≠ 0 →
                  let info : FrameInfo := { codec := x.desc.codec, w := w, h := h, slots := (x.needs j.unit j.step).filterMap x.slotOf,
                                            block := fun a b k => x.ask j.unit [12, j.step, a, b, k] }
                  t.mem = (stored rows slot).store j.statsDa (frameStats x.desc x.frames (x.ask j.unit [13, j.step]) slot (x.frameType j.unit j.step)
                    (b2n (j.single x) + 2 * (x.ask j.unit [14, j.step] % 2)) j.length
                    (info.records x.desc fun r q => x.desc.luma (stored rows slot) slot r q)))))))) ∧
      (j.decode = false → ∀ slot, j.slot = some slot → j.repeated = false → j.step + 1 = j.source.length →
        let ps := x.desc.encParams s.dev.numerics
        let first := ((x.codingOrder s.dev.numerics (j.plan b)).getD j.step (255, false)).2
        let bits := ((if first then Config.encodedBytes ps x.history j.source [0, j.step] else []) ++
          Config.encodedBytes ps x.history j.source [1, j.step]).take (x.desc.planeBytes + 4096)
        let rows := x.desc.picture x.desc.width x.desc.height fun plane row col => Config.encoded ps x.history j.source [2, j.step, plane, row, col]
        (j.length < (j.bits ++ bits).length → ∃ t : Dev, goes t stMediaOutSpace 0 0 0 ∧ t.mem = stored rows slot ∧
          t.session j.session = some (x.undo b own false)) ∧
        ((j.bits ++ bits).length ≤ j.length → ∃ (t : Dev) (x' : Session), goes t stOk (j.bits ++ bits).length (j.step + 1) b.frames ∧
          t.session j.session = some x' ∧ x'.frames = x.frames + 1 ∧ x'.history = x.history ++ j.source ∧ x'.held = (j.plan b).held ∧
          (j.statsDa = 0 → j.stats = [] → t.mem = (stored rows slot).store j.da (j.bits ++ bits))))) ∧
    (∀ x : Session, s.dev.Takes tag 0x63#8 c → s.dev.session (opnd c.pkt.o0 5 0) = some x → x.closing = none →
      (∀ j ∈ md.jobs, j.session ≠ x.num) → (∀ l ∈ s.dev.launches, l.alive = true → ∀ r ∈ l.mediaReads, r.1 ≠ x.num) →
      exec (.mediaClose tag) s = .next (s.onDev fun d =>
        ({ d with media := { d.media with sessions := d.media.sessions.filter fun y => y.num != x.num } } : Dev).replied c.id stOk (vals 0 0 0))) ∧
    (∀ (n k : Nat) (x : Session) (ids : List Nat), md.jobs = [] → (∀ y ∈ md.sessions, y.closing = none) → s.dev.session n = some x →
      x.pending = [(k, ids)] → s.dev.anyAlive ids = false →
      let x' : Session := { x with marks := x.marks.set k { x.marks.getD k {} with out := false }, pending := [] }
      exec (.slotReleaseEffect n) s = .next ((s.onDev fun d =>
        { d with media := { d.media with sessions := updFirst (fun y => y.num == n) (fun _ => x') d.media.sessions } }).flushReports))

-- Candle streams (R431 to R446)

/-- R434: a CANDLE_LOAD of a table that keeps its rules takes a FREE stream, which is then LOADED, and completes with its number. R435:
CANDLE_ARM of a LOADED stream whose checks pass, its start frame less than 2^31 frames ahead, arms it from that frame, at the first
action that fires. R440:
CANDLE_DISARM frees a LOADED stream, or one whose first cycle has not begun, at once; it drains one that runs, and once every action of the
instances begun has reported the stream is FREE and the command completes. No other stream changes. -/
def Obligations.CandleStreamsComeAndGo : Prop :=
  ∀ (tag : Tag) (s : State) (c : Cmd), c.Unbounded →
    let set (k : Fin 32) (x : Stream) (d : Dev) : Dev := { d with candle := { d.candle with streams := d.candle.streams.set k x } }
    let done (v : Nat) (d : Dev) : Dev := d.replied c.id stOk (vals v 0 0)
    let k : Fin 32 := Fin.ofNat 32 (opnd c.pkt.o0 4 0)
    let st := s.dev.candle.streams.get k
    (let a := opDa c.pkt.o0
     let n := opnd c.pkt.o1 31 0
     s.dev.Takes tag 0x70#8 c →
      (∀ t : CandleTable, (∃ i : Fin 32, (s.dev.candle.streams.get i).state = 0#2) → 64 ≤ n → n ≤ 32832 → s.dev.daOk a n = true →
        s.dev.mem.firstPoison a n = none → parseCandle (s.dev.mem.readBytes a n) = some t →
        ∃ i : Fin 32, (s.dev.candle.streams.get i).state = 0#2 ∧
          exec (.candleLoad tag) s = .next (s.onDev fun d => done i.val (set i { state := 1#2, table := some t }
            { d.heat a n with freeCtr := d.freeCtr + 1 }))) ∧
      ((∀ i : Fin 32, (s.dev.candle.streams.get i).state ≠ 0#2) →
        exec (.candleLoad tag) s = .next (s.onDev fun d =>
          ({ d with candle := { d.candle with seen := d.candle.seen ||| 1#6 } } : Dev).replied c.id stCandleFull (vals 0 0 0)))) ∧
    (∀ t : CandleTable, s.dev.Takes tag 0x71#8 c → st.table = some t → st.state = 1#2 → (s.cq t.reportCq).enable = true →
      s.dev.targetsCheck k t = stOk →
      let f0 := opnd c.pkt.o1 31 0
      let ahead := (f0 + 2 ^ 32 - s.dev.time.phase.toNat / 65536) % 2 ^ 32
      (t.requireLock = false ∨ 2 ≤ s.dev.time.state.toNat →
        (0 < ahead → ahead ≤ 2 ^ 31 → s.dev.scheduleOk t = true →
          exec (.candleArm tag) s = .next (s.onDev fun d =>
            done 0 (set k (({ st with state := 2#2, f0 := f0, cycle := 0, entry := 0 } : Stream).settle t) d))) ∧
        (ahead = 0 ∨ 2 ^ 31 < ahead ∨ s.dev.scheduleOk t = false →
          ∃ u : State, exec (.candleArm tag) s = .next u ∧
            u = { s with dev := { s.dev with link := (s.dev.replied c.id stDeadline (vals 0 0 0)).link,
                                             candle := { s.dev.candle with seen := u.dev.candle.seen } } })) ∧
      (t.requireLock = true → s.dev.time.state.toNat < 2 →
        exec (.candleArm tag) s = .next (s.onDev (Dev.replied c.id stTimeUnlocked (vals 0 0 0))))) ∧
    (∀ t : CandleTable, s.dev.Takes tag 0x72#8 c → st.table = some t →
      (st.state = 1#2 ∨ st.state = 2#2 ∧ st.current t (s.dev.time.phase.toNat / 65536) = none →
        exec (.candleDisarm tag) s = .next (s.onDev fun d => done 0 (set k {} d))) ∧
      (∀ n : Nat, st.state = 2#2 → st.current t (s.dev.time.phase.toNat / 65536) = some n →
        exec (.candleDisarm tag) s = .next (s.onDev fun d =>
          set k (({ st with state := 3#2, last := some n, disarm := some c.id } : Stream).settle t) (d.setPhase c.id .running))) ∧
      (st.state = 0#2 ∨ st.state = 3#2 → exec (.candleDisarm tag) s = .next (s.onDev (Dev.replied c.id stCandleState (vals 0 0 0))))) ∧
    (∀ (i : Fin 32) (t : CandleTable) (n : Nat),
      let x := s.dev.candle.streams.get i
      x.table = some t → x.last = some n → x.state = 3#2 → x.acts = [] → (∀ e, t.entries[x.entry]? = some e → x.fires x.cycle e = false) →
      n ≤ x.cycle → x.disarm = some c.id → s.dev.cmd c.id = some c → c.phase ≠ .done →
      exec (.candleStreamFreed i) s = .next (s.onDev fun d => done 0 (set i {} d)))

/-- R433, R437 to R443: an action that is due, and whose turn it is, fires: the stream moves on to its next action. A LAUNCH whose pass is not
stopped is admitted as the stream's own, a MEDIA action's record reaches the media arbiter, a DELIVER keeps its record and waits for its
group, a CUTOFF fixes the pass that is delivered and reports it, LATE where a higher pass was to come. -/
def Obligations.CandleActionsFire : Prop :=
  ∀ (k : Fin 32) (s : State) (t : CandleTable) (ix : Nat) (e : CandleEntry), s.dev.dueOf k = some (t, ix, e) → s.dev.mayFire k t e = true →
    let st := s.dev.candle.streams.get k
    let n := st.cycle
    (∀ x ∈ st.acts, ¬ (x.entry = ix ∧ x.cycle = n)) → e.lag ≤ 3 →
    let at_ := st.fireAt t n e
    let a : CandleAct := { entry := ix, cycle := n, due := st.frameOf t n e, flags := s.dev.fireFlags st at_, launch := none, holds := false,
                           record := [] }
    let g := st.inst (n - e.lag) e.group
    let next := ({ st with entry := ix + 1 } : Stream).settle t
    let da := e.listDa + n % (max 1 e.listCount) * e.listStride
    let moved (d : Dev) (acts : List CandleAct) : Prop :=
      (∀ i, i ≠ k → d.candle.streams.get i = s.dev.candle.streams.get i) ∧
      d.candle.streams.get k = { st with cycle := next.cycle, entry := next.entry, acts := acts, insts := (d.candle.streams.get k).insts,
                                         stepped := (d.candle.streams.get k).stepped }
    (∀ (l : Launch) (im : Image), e.action = 0x12 → e.pass = 0 ∨ (g.stopped = false ∧ g.delivered = none) →
      let r : LaunchReq := { owner := .candle k.val n ix, cls := 3, handle := e.target, mode := e.mode, da := da, seed := e.seed + BitVec.ofNat 64 n,
                             deadline := 0 }
      (∀ d : Dev, d = { s.dev with candle := d.candle, ctrs := d.ctrs } → d.judge r = .ok l) → s.dev.imageOf l = some im →
      s.dev.splitPending e.target = false → (∀ x ∈ l.entries, x.reads = false ∧ x.writes = false) →
      (∀ j ∈ s.dev.coll.jobs, j.trigger ≠ 0 ∨ j.program ≠ e.target ∨ j.closing ≠ none) →
      ∃ d' : Dev, exec (.candleLaunch k) s = .next (s.act fun _ => d') ∧
        d' = { s.dev with
          ctrs := d'.ctrs, fn := d'.fn, candle := { s.dev.candle with streams := d'.candle.streams }, nextLaunch := s.dev.nextLaunch + 1,
          launches := s.dev.launches ++ [{ l with phase := s.dev.firstPhase im l.entries }] } ∧
        moved d' (st.acts ++ [{ a with launch := some s.dev.nextLaunch }])) ∧
    (∀ (dec : Bool) (i : Instr), (dec = true ∧ i = .candleMediaDecode k ∧ e.action = 0x61) ∨
        (dec = false ∧ i = .candleMediaEncode k ∧ e.action = 0x62) →
      let o (w : Nat) : Nat := s.dev.mem.readNat (da + 8 * w) 8
      let j := mediaJobOf s.dev.media.nextJob (.candle k.val n ix) dec (o 0) (o 1) (o 2) (o 3)
      s.dev.daOk da 32 = true → s.dev.mem.firstPoison da 32 = none →
      operandsOk { opcode := if dec then 0x61 else 0x62, cls := 0, fenceBefore := false, tag := 0, deadline := 0,
                   o0 := BitVec.ofNat 64 (o 0), o1 := BitVec.ofNat 64 (o 1), o2 := BitVec.ofNat 64 (o 2), o3 := BitVec.ofNat 64 (o 3),
                   o4 := 0, o5 := 0 } = true →
      j.session = e.target → s.dev.mediaCheck j none = stOk →
      (dec = false → g.repeated = false ∧ (g.deliverDone = true ∨ ∀ x ∈ t.entries, ¬ (x.group = e.group ∧ x.action = 0x7F))) →
      ∃ (d' : Dev) (w : List Nat), exec i s = .next (s.act fun _ => d'.mediaPump) ∧
        d' = { s.dev with
          ctrs := d'.ctrs, candle := { s.dev.candle with streams := d'.candle.streams },
          media := { s.dev.media with jobs := s.dev.media.jobs ++ [{ j with waits := w }], nextJob := s.dev.media.nextJob + 1 } } ∧
        moved d' (st.acts ++ [a])) ∧
    (e.action = 0x7F → s.dev.daOk da 512 = true → s.dev.mem.firstPoison da 512 = none →
      ∃ d' : Dev, exec (.deliver k) s = .next (s.act fun _ => d') ∧
        d' = { s.dev with ctrs := d'.ctrs, candle := { s.dev.candle with streams := d'.candle.streams } } ∧
        moved d' (st.acts ++ [{ a with holds := true, record := (List.range 64).map fun i => s.dev.mem.readNat (da + 8 * i) 8 }])) ∧
    (e.action = 0x7E → st.table = some t → t.entries[ix]? = some e → (∀ x ∈ st.acts, x.launch = none) →
      let p := t.deliveredOf g
      ∃ (d' : Dev) (bs : List Byte), exec (.cutoff k) s = .next (s.act fun _ => d') ∧
        d' = { s.dev with
          ctrs := d'.ctrs, link := d'.link, out := d'.out,
          candle := { s.dev.candle with streams := d'.candle.streams, seen := d'.candle.seen, lastLate := d'.candle.lastLate,
                                        reports := s.dev.candle.reports ++ [(t.reportCq, bs)] } } ∧
        moved d' st.acts ∧ bs.length = 32 ∧ bytesAt bs 1 0 = stOk.toNat ∧ bytesAt bs 5 5 = 0x80 + k.val ∧ bytesAt bs 12 12 = p % 256 ∧
        ((d'.candle.streams.get k).inst (n - e.lag) e.group).delivered = some p ∧
        (p < t.highest e.group → d'.candle.seen.getLsbD 1 = true ∧ d'.candle.lastLate = BitVec.ofNat 5 k.val ∧ d'.link.events.getLsbD 6 = true) ∧
        (t.highest e.group ≤ p → d'.link = s.dev.link ∧ d'.out = s.dev.out ∧ d'.candle.seen = s.dev.candle.seen))

-- Firings (R483 to R498)

/-- R484: a FIRING_STAGE into a slot that holds no firing the device needs, of a firing that verifies, has COMMIT_SEQ 0, an owner that is
accepted and a role in range, stages its source and writes nothing. R485, R486: FIRING_COMMIT of a staged slot whose source still has its
digest writes both copies with the next COMMIT_SEQ and appends one record to both areas; the slot is selected. Where a check fails the
slot is freed. R490: FIRING_REVERT appends a record that names the older firing, and selects it. R496, R498: ATTEST writes the report, its
signature and the certificates, the host's nonce in it. -/
def Obligations.FiringsAreStagedCommittedAndAttested : Prop :=
  ∀ (tag : Tag) (s : State) (c : Cmd), c.Unbounded →
    let fl := s.dev.start.flash
    let refused (st : Half) : Host.Outcome State Fault Refusal := .next (s.onDev (Dev.replied c.id st (vals 0 0 0)))
    let freed (k : Fin 8) (d : Dev) : Dev := { d with start := { d.start with
      flash := { d.start.flash with slots := d.start.flash.slots.set k {} }, staged := d.start.staged.set k none } }
    (let a := opDa c.pkt.o0
     let n := opnd c.pkt.o1 39 0
     let k : Fin 8 := Fin.ofNat 8 (opnd c.pkt.o2 2 0)
     let bs := s.dev.mem.readBytes a n
     s.dev.Takes tag 0x80#8 c →
      (s.dev.stageable k = true → n ≤ fl.slotSize → s.dev.directOk a n = true → s.dev.mem.firstPoison a n = none →
        (firingFormOk fl.slotSize bs = true → firingSeq bs = 0 →
          (firingSigned bs = true → s.dev.ownerAccepts bs = true →
            ((roleOf bs).ok = true → exec (.firingStage tag) s = .next (s.onDev fun d => ({ d.heat a n with
              start := { d.start with staged := d.start.staged.set k (some { da := a, len := n, digest := firingDigest bs }) } } : Dev).replied
                c.id stOk (vals 0 0 0))) ∧
            ((roleOf bs).ok = false → exec (.firingStage tag) s =
              .next (s.onDev fun d => (d.heat a n).replied c.id stFiringRole (vals 0 0 0)))) ∧
          ((firingSigned bs && s.dev.ownerAccepts bs) = false →
            exec (.firingStage tag) s = .next (s.onDev fun d => (d.heat a n).replied c.id stFiringSignature (vals 0 0 0)))) ∧
        ((firingFormOk fl.slotSize bs && firingSeq bs == 0) = false →
          exec (.firingStage tag) s = .next (s.onDev fun d => (d.heat a n).replied c.id stFiringFormat (vals 0 0 0)))) ∧
      (s.dev.stageable k = false → exec (.firingStage tag) s = refused stFiringSlot)) ∧
    (let k : Fin 8 := Fin.ofNat 8 (opnd c.pkt.o0 2 0)
     s.dev.Takes tag 0x81#8 c →
      (∀ st : Staged, s.dev.start.staged.get k = some st → s.dev.daOk st.da st.len = true → s.dev.mem.firstPoison st.da st.len = none →
        let bs := s.dev.mem.readBytes st.da st.len
        (firingDigest bs = st.digest →
          let r : CommitRec := { seq := fl.nextSeq, isRevert := false, slot := k, targetSeq := 0, digest := st.digest.take 32 }
          (∃ t : State, exec (.firingCommit tag true) s = .next t ∧
            t = { s with dev := { s.dev with
              tier := (s.dev.heat st.da st.len).tier, link := (s.dev.replied c.id stOk (vals 0 0 0)).link,
              start := { s.dev.start with
                flash := { fl with slots := fl.slots.set k { primary := withSeq fl.nextSeq bs, mirror := withSeq fl.nextSeq bs },
                                   areaA := t.dev.start.flash.areaA, areaB := t.dev.start.flash.areaB },
                staged := s.dev.start.staged.set k none, selected := some k, committed := t.dev.start.flash.committedMask } } } ∧
            (fl.areaA.length < 16384 → t.dev.start.flash.areaA = fl.areaA ++ [r]) ∧
            (fl.areaB.length < 16384 → t.dev.start.flash.areaB = fl.areaB ++ [r]) ∧
            t.dev.start.flash.areaA.getLast? = some r ∧ t.dev.start.flash.areaB.getLast? = some r ∧ ∀ q ∈ fl.areaA ++ fl.areaB, q.seq < r.seq) ∧
          exec (.firingCommit tag false) s =
            .next (s.onDev fun d => (freed k (d.heat st.da st.len)).replied c.id stFiringSlot (vals 0 0 0))) ∧
        (firingDigest bs ≠ st.digest → ∀ flashOk : Bool, exec (.firingCommit tag flashOk) s =
            .next (s.onDev fun d => (freed k (d.heat st.da st.len)).replied c.id stFiringFormat (vals 0 0 0)))) ∧
      (s.dev.start.staged.get k = none → ∀ flashOk : Bool, exec (.firingCommit tag flashOk) s = refused stFiringSlot)) ∧
    (s.dev.Takes tag 0x82#8 c →
      (∀ r : CommitRec, fl.revertRec = some r → fl.areaA.length < 16384 → fl.areaB.length < 16384 →
        let q : CommitRec := { seq := fl.nextSeq, isRevert := true, slot := r.slot, targetSeq := r.seq, digest := r.digest }
        exec (.firingRevert tag) s = .next (s.onDev fun d => ({ d with start := { d.start with
          flash := { d.start.flash with areaA := d.start.flash.areaA ++ [q], areaB := d.start.flash.areaB ++ [q] },
          selected := some r.slot } } : Dev).replied c.id stOk (vals 0 0 0))) ∧
      (fl.revertRec = none → exec (.firingRevert tag) s = refused stFiringNone)) ∧
    (let nonce := opDa c.pkt.o0
     let a := opDa c.pkt.o1
     let n := s.dev.attestLen
     s.dev.Takes tag 0x83#8 c → s.dev.daOk nonce 32 = true → s.dev.daOk a n = true →
      (n ≤ opnd c.pkt.o2 31 0 → s.dev.start.identityOk = true → s.dev.mem.firstPoison nonce 32 = none →
        let body := s.dev.attestBody (s.dev.mem.readBytes nonce 32) n
        let report := body ++ Config.identitySign (sha384Nat body) ++ Config.deviceCerts
        slice body 8 32 = s.dev.mem.readBytes nonce 32 ∧
        (s.dev.mem.storeStruck a report.length = false →
          ∃ t : State, exec (.attest tag) s = .next t ∧
            t = { s with dev := { s.dev with link := (s.dev.replied c.id stOk (vals n 0 0)).link, tier := t.dev.tier,
                                             mem := s.dev.mem.store a report } })) ∧
      (opnd c.pkt.o2 31 0 < n → exec (.attest tag) s = refused stQuerySpace) ∧
      (n ≤ opnd c.pkt.o2 31 0 → s.dev.start.identityOk = false → exec (.attest tag) s = refused stResourceAbsent))

-- Power (R449 to R457)

/-- R450, R453: a cap in range, from the host or from the board, is taken clamped to the sustained limit, with its window; one out of range
changes nothing. R455: a millisecond's average above the cap steps clocks down, none below 1.0 GHz and none up, and sets CAPPED; below 97% of
it for a whole window, all kilns at one clock step up together to at most 3.3 GHz. R456: the fast limit holds every kiln to 1.6 GHz for
1 ms. -/
def Obligations.PowerCapsLimitTheClocks : Prop :=
  ∀ (tag : Tag) (s : State) (c : Cmd), c.Unbounded →
    let p := s.dev.power
    let limit := 6000 - 375 * (16 - popcount 16 p.stages.toNat)
    let inRange (cap win : Nat) : Prop := (cap = 0 ∨ 2500 ≤ cap ∧ cap ≤ 6000) ∧ 1 ≤ win ∧ win ≤ 1000
    let taken (cap : Nat) : Half := BitVec.ofNat 16 (min limit (if cap = 0 then 6000 else cap))
    (let cap := opnd c.pkt.o0 15 0
     let win := opnd c.pkt.o0 31 16
     s.dev.Takes tag 0x91#8 c →
      (inRange cap win → exec (.powerCap tag) s = .next (s.onDev fun d =>
        ({ d with power := { d.power with hostCap := taken cap, hostWindow := BitVec.ofNat 16 win } } : Dev).replied c.id stOk (vals 0 0 0))) ∧
      (¬ inRange cap win → exec (.powerCap tag) s = .next (s.onDev (Dev.replied c.id stPowerParam (vals 0 0 0))))) ∧
    (∀ cap win : Half, s.dev.sideband = true →
      (inRange cap.toNat win.toNat → exec (.boardPowerCap cap win) s =
        .next (s.onDev fun d => { d with power := { d.power with boardCap := taken cap.toNat, boardWindow := win } })) ∧
      (¬ inRange cap.toNat win.toNat → exec (.boardPowerCap cap win) s = .next s)) ∧
    (∀ watts : Nat, s.dev.running = true → p.fastUntil = none →
      let win := ((watts :: p.samples).take 1000).take p.applies.2
      ∃ t : State, exec (.powerCapTick watts) s = .next t ∧
        t = { s with dev := { s.dev with
          out := t.dev.out, link := t.dev.link,
          power := { p with samples := (watts :: p.samples).take 1000, inputW := BitVec.ofNat 16 (min 0xFFFF watts), inputMa := t.dev.power.inputMa,
                            belowFor := t.dev.power.belowFor, cap := t.dev.power.cap, capUnmetSeen := t.dev.power.capUnmetSeen } } } ∧
        (p.applies.1 * win.length < sumNat win → (∀ k, 10 ≤ p.cap.get k) →
          (∀ k, 10 ≤ t.dev.power.cap.get k ∧ t.dev.power.cap.get k ≤ p.cap.get k) ∧
          ((∃ k, 10 < p.cap.get k) → (∃ k, t.dev.power.cap.get k < p.cap.get k) ∧ t.dev.link.events.getLsbD 3 = true) ∧
          ((∀ k, p.cap.get k = 10) → t.dev.power.capUnmetSeen = true ∧ t.dev.power.cap = p.cap)) ∧
        (∀ n : Nat, sumNat win * 100 < p.applies.1 * 97 * win.length → (∀ k, p.cap.get k = n) → n < 33 → s.dev.streamKilns = [] →
          t.dev.link = s.dev.link ∧
          (p.applies.2 ≤ p.belowFor + 1 → ∀ k, t.dev.power.cap.get k = n + 1) ∧
          (p.belowFor + 1 < p.applies.2 → t.dev.power.cap = p.cap))) ∧
    (s.dev.running = true → exec .fastPowerLimit s = .next (s.onDev fun d => { d with power := { d.power with
      cap := d.power.cap.map (min 16), fastLimitSeen := true, fastUntil := some (d.nowUs + 1000) } })) ∧
    (∀ u : Nat, p.fastUntil = some u → u ≤ s.dev.nowUs →
      exec .fastLimitRelease s = .next (s.onDev fun d => { d with power := { d.power with fastUntil := none } }))

/-- R449, R450, R461, R462, R539, R542: a warning condition among coolant's readings sets WARN_SEEN and pulls SB_ALERT_N low; a die above
100 °C loses 100 MHz, not below its least clock, and one below 97 °C has its full clock again. A trip, or a loss of the input, switches
everything off: what is left is the flash, what the always-on domain latches, and the kept configuration; memory is undefined. The
input's return powers the always-on domain. A stage out of regulation leaves service and lowers the limit. -/
def Obligations.ThermalAndInputEvents : Prop :=
  ∀ s : State,
    let p := s.dev.power
    let dark (power : PowerPart) (tier : TierPart) (pins : Pins) : State :=
      { s with rings := {}, dev := { out := s.dev.out, nowUs := s.dev.nowUs, freeCtr := s.dev.freeCtr,
                                     mem := { s.dev.mem.forget 0 (2 ^ 48) with poison := [], channels := 0, dead := [], deadWin := [] },
                                     start := { flash := s.dev.start.flash }, tier := tier, power := power, pins := pins } }
    let off : Pins := { s.dev.pins with pwrGood := false, wakeN := true, sbAlertN := true, ethPhyRstN := false, i3c := false, powered := false }
    (∀ (inlet flow : Byte) (temps : List Nat), s.dev.ready = true →
      ∃ t : State, exec (.thermalWarn inlet flow temps) s = .next t ∧
        t = { s with dev := { s.dev with
          out := t.dev.out, link := t.dev.link, pins := t.dev.pins,
          power := { p with inlet := inlet, flow := flow, temps := t.dev.power.temps, warnSeen := t.dev.power.warnSeen } } } ∧
        (∀ i : DieIx, t.dev.power.temps.get i = temps.getD i.val (p.temps.get i)) ∧
        (84 < inlet.toNat ∨ flow.toNat < 60 ∨ (∃ i, 95 < t.dev.power.temps.get i) →
          t.dev.power.warnSeen = true ∧ t.dev.pins.sbAlertN = false ∧ t.dev.link.events.getLsbD 2 = true) ∧
        (inlet.toNat ≤ 84 → 60 ≤ flow.toNat → (∀ i, t.dev.power.temps.get i ≤ 95) →
          t.dev.power.warnSeen = p.warnSeen ∧ t.dev.pins = s.dev.pins ∧ t.dev.link = s.dev.link)) ∧
    (∀ (x : DieIx) (temp : Nat), s.dev.running = true →
      let low := if x.val < 12 then 10 else 22
      let clk := p.heat.get x
      let at_ (h : Vector Nat 20) (seen : Bool) : Host.Outcome State Fault Refusal := .next (s.onDev fun d =>
        { d with power := { d.power with temps := d.power.temps.set x temp, heat := h, throttleSeen := seen } })
      (100 < temp ∨ 97 ≤ temp ∧ clk < 33 → exec (.thermalThrottleTick x temp) s = at_ (p.heat.set x (max low (clk - 1))) true) ∧
      (temp < 97 → exec (.thermalThrottleTick x temp) s = at_ (p.heat.set x 33) p.throttleSeen) ∧
      (97 ≤ temp → temp ≤ 100 → 33 ≤ clk → exec (.thermalThrottleTick x temp) s = at_ p.heat p.throttleSeen)) ∧
    (s.dev.commitSlot = none → s.dev.pins.alwaysOn = true → p.tripLatch = false →
      let t := dark { tripLatch := true, tripRecorded := true, inputLossLatch := p.inputLossLatch, inputMv := p.inputMv }
        { cfgKept := s.dev.tier.cfgKept } { off with thermTripN := false }
      exec .thermalTrip s = .next t ∧
      ∀ x : DieIx, (s.dev.pins.powered = true → exec (.dieComparatorTrip x) s = .next t) ∧
        (s.dev.pins.powered = false → exec (.dieComparatorTrip x) s = .next s)) ∧
    (s.dev.commitSlot = none → s.dev.pins.input = true →
      exec .inputVoltageLoss s = .next (dark { tripLatch := false, tripRecorded := p.tripRecorded, inputLossLatch := true, inputMv := 0 } {}
        { off with input := false, alwaysOn := false, thermTripN := true })) ∧
    (s.dev.pins.input = false → exec .inputPowerApplied s = .next (s.onDev fun d =>
      { d with pins := { d.pins with input := true, alwaysOn := true, thermTripN := true },
               power := { d.power with tripLatch := false, inputMv := 48000 } })) ∧
    (∀ i : Fin 16, s.dev.pins.powered = true → p.stages.getLsbD i.val = true →
      ∃ t : State, exec (.stageOutOfRegulation i) s = .next t ∧
        t = { s with dev := { s.dev with
          out := t.dev.out, link := t.dev.link,
          power := { p with stages := t.dev.power.stages, hostCap := t.dev.power.hostCap, boardCap := t.dev.power.boardCap },
          repair := { s.dev.repair with unitOutSeen := true, unwritten := t.dev.repair.unwritten } } } ∧
        (∀ j < 16, t.dev.power.stages.getLsbD j = (p.stages.getLsbD j && j != i.val)) ∧
        (let limit := 6000 - 375 * (16 - popcount 16 t.dev.power.stages.toNat)
         t.dev.power.hostCap.toNat = min limit (if p.hostCap.toNat = 0 then 6000 else p.hostCap.toNat) ∧
         t.dev.power.boardCap.toNat = min limit (if p.boardCap.toNat = 0 then 6000 else p.boardCap.toNat)) ∧
        t.dev.repair.unwritten.length = s.dev.repair.unwritten.length + 1 ∧ t.dev.link.events.getLsbD 0 = true)

/-- R464 to R471: POWER_STATE EMBER, where nothing bars it, turns every port but the lowest UP one dark, loses the tile buffers, the maps and,
unless it is retained, the scratchpads, ends debug mode and completes; no other byte changes. RUN ends at once in RUN, and in ember begins
the exit, as does the board's wake, which also pulls WAKE_N low until it is let go. At the exit's end the device runs, ports retrain and the
RUN commands complete. In ember, a loss of board memory power is kept for the exit. -/
def Obligations.EmberIsEnteredAndLeft : Prop :=
  ∀ (tag : Tag) (s : State) (c : Cmd), c.Unbounded →
    let p := s.dev.power
    (s.dev.Takes tag 0x90#8 c → opnd c.pkt.o0 7 0 = 1 → p.state = 0#2 →
      (s.dev.emberBarred c.id = true → exec (.powerStateEmber tag) s = .next (s.onDev (Dev.replied c.id stPowerState (vals 0 0 0)))) ∧
      (s.dev.emberBarred c.id = false →
        let kept := (List.finRange 128).find? fun q => (s.dev.port q).state == 3#3
        ∃ t : State, exec (.powerStateEmber tag) s = .next t ∧
          t = { s with dev := { s.dev with
            out := t.dev.out, mem := t.dev.mem,
            fabric := { s.dev.fabric with
              ports := t.dev.fabric.ports, keptPort := kept, partials := t.dev.fabric.partials, transits := t.dev.fabric.transits },
            kilns := t.dev.kilns, caches := Vector.replicate 12 [], ctrs := t.dev.ctrs, link := t.dev.link,
            power := { p with state := 1#2, shmemRetained := c.pkt.o0.getLsbD 8, emberCmds := [c.id] } } } ∧
          t.dev.ctrs.debugMode = false ∧ (t.dev.link.replies = s.dev.link.replies ++ [c.id]) ∧
          (∀ k : Fin 12, (t.dev.kilns.get k).halted = false ∧ ∀ i : Fin 16, ((t.dev.kilns.get k).tiles.get i).ready = [] ∧
            ((t.dev.kilns.get k).tiles.get i).groups = []) ∧
          (∀ q : Fin 128, kept = some q → (t.dev.port q).state = (s.dev.port q).state) ∧
          (∀ q : Fin 128, kept ≠ some q → (t.dev.port q).state = if (s.dev.port q).state = 7#3 then 7#3 else 0#3) ∧
          (∀ x, (c.pkt.o0.getLsbD 8 = true ∨ x < 0x1C000000000 ∨ 0x1C000000000 + 12 * 0x40000000 ≤ x) →
            (x < 0x1F000000000 ∨ 0x1F000000000 + 2 * 0x40000000 ≤ x) → t.dev.mem.read x = s.dev.mem.read x))) ∧
    (s.dev.Takes tag 0x90#8 c → opnd c.pkt.o0 7 0 = 0 →
      let waits (f : PowerPart → PowerPart) : Host.Outcome State Fault Refusal := .next (s.onDev fun d =>
        { d.setPhase c.id .running with power := f { d.power with runCmds := d.power.runCmds ++ [c.id] } })
      (p.state = 0#2 → exec (.powerStateRun tag) s = .next (s.onDev (Dev.replied c.id stOk (vals 0 0 0)))) ∧
      (p.state = 1#2 → exec (.powerStateRun tag) s = waits fun q => { q with pendingWake := some (q.pendingWake.getD 1#2) }) ∧
      (p.state = 2#2 → exec (.powerStateRun tag) s = waits fun q => { q with state := 3#2, wakeSource := 1#2 }) ∧
      (p.state = 3#2 → exec (.powerStateRun tag) s = waits id)) ∧
    (p.state = 3#2 → p.flrPending = false → p.boardMemPower = true → p.runCmds = [c.id] → s.dev.cmd c.id = some c → c.phase ≠ .done →
      ∃ t : State, exec .emberExitComplete s = .next t ∧
        t = { s with dev := { s.dev with
          out := t.dev.out, link := t.dev.link, power := { p with state := 0#2, runCmds := [] },
          fabric := { s.dev.fabric with keptPort := none, ports := t.dev.fabric.ports } } } ∧
        t.dev.link.cmds = (s.dev.replied c.id stOk (vals 0 0 0)).link.cmds ∧ t.dev.link.replies = s.dev.link.replies ++ [c.id] ∧
        (∀ q : Fin 128, t.dev.port q = if (s.dev.port q).state = 0#3 ∧ (s.dev.port q).good ≠ 0#9 then { s.dev.port q with state := 1#3 }
                                       else s.dev.port q)) ∧
    (s.dev.sideband = true →
      (p.state = 1#2 → exec .boardWake s = .next (s.onDev fun d =>
        { d with power := { d.power with pendingWake := some (d.power.pendingWake.getD 2#2) } })) ∧
      (p.state = 2#2 → exec .boardWake s = .next (s.onDev fun d =>
        { d with power := { d.power with state := 3#2, wakeSource := 2#2 }, pins := { d.pins with wakeN := false } }))) ∧
    exec .wakeNTimeout s = .next (s.onDev fun d => { d with pins := { d.pins with wakeN := true } }) ∧
    (p.state = 2#2 → exec .boardMemoryPowerLoss s = .next (s.onDev fun d => { d with power := { d.power with boardMemPower := false } }))

/-- R459, R548, R549: a telemetry read over the sideband sends the readings and lets SB_ALERT_N go; ENTDAA makes the target an I3C one. A JTAG
instruction is in force from then on: IDCODE and BYPASS shift out their values; EXTEST, CLAMP and HIGHZ act as BYPASS while PERST_N is
high; DEBUG_HALT and DEBUG_CONTINUE halt and continue the kilns named, in debug mode, and act as BYPASS out of it. -/
def Obligations.SidebandAndJtagAnswer : Prop :=
  ∀ s : State,
    (s.dev.sideband = true →
      ∃ t : State, exec .mctpTelemetryRead s = .next t ∧
        t = { s with dev := { s.dev with pins := { s.dev.pins with sbAlertN := true }, out := t.dev.out } } ∧
        ∃ clocks : List Nat, t.dev.out = .telemetry s.dev.power.inputMv s.dev.power.inputMa s.dev.power.inputW.toNat s.dev.power.temps.toList clocks
          s.dev.power.inlet.toNat s.dev.power.outlet.toNat s.dev.power.flow.toNat s.dev.power.state.toNat :: s.dev.out) ∧
    (s.dev.sideband = false → exec .mctpTelemetryRead s = .next s ∧ exec .i3cEntdaa s = .next s) ∧
    (s.dev.sideband = true → exec .i3cEntdaa s = .next (s.onDev fun d => { d with pins := { d.pins with i3c := true } })) ∧
    (let force (i : JtagInstr) (d : Dev) : Dev := { d with pins := { d.pins with jtag := i } }
     let bypass : Host.Outcome State Fault Refusal := .next (s.onDev fun d => { force .bypass d with out := .jtag 0#32 :: d.out })
     exec (.jtagInstruction .idcode) s = .next (s.onDev fun d => { force .idcode d with out := .jtag 0x1C2009CB#32 :: d.out }) ∧
     exec (.jtagInstruction .bypass) s = bypass ∧
     exec (.jtagInstruction .samplePreload) s = .next (s.onDev (force .samplePreload)) ∧
     (∀ i : JtagInstr, i = .extest ∨ i = .clamp ∨ i = .highz →
       (s.dev.pins.perstN = true → exec (.jtagInstruction i) s = bypass) ∧
       (s.dev.pins.perstN = false → exec (.jtagInstruction i) s = .next (s.onDev (force i)))) ∧
     (∀ m : BitVec 12, s.dev.ctrs.debugMode = false →
       exec (.jtagInstruction (.debugHalt m)) s = bypass ∧ exec (.jtagInstruction (.debugContinue m)) s = bypass) ∧
     (∀ m : BitVec 12, s.dev.ctrs.debugMode = true → s.dev.streamRuns = false →
       (∃ t : State, exec (.jtagInstruction (.debugHalt m)) s = .next t ∧
         t = { s with dev := { s.dev with pins := { s.dev.pins with jtag := .debugHalt m }, mem := t.dev.mem, kilns := t.dev.kilns, ctrs := { s.dev.ctrs with blocks := t.dev.ctrs.blocks } } } ∧
         Dev.Halts (fun k => m.getLsbD k.val) s.dev t.dev) ∧
       (∃ t : State, exec (.jtagInstruction (.debugContinue m)) s = .next t ∧
         t = { s with dev := { s.dev with pins := { s.dev.pins with jtag := .debugContinue m }, kilns := t.dev.kilns } } ∧
         ∀ k : Fin 12, t.dev.kilns.get k = { s.dev.kilns.get k with halted := (s.dev.kilns.get k).halted && !m.getLsbD k.val })))

-- The fabric's links (R317 to R328)

/-- R319, R320: a port whose lanes are trained takes a flit only with the next expected SEQ; another one, a bad one or one with a reserved
field asks for a replay from that SEQ. R323, R324: a whole message for this node is acknowledged on VC 2 and delivered, a second copy within
1 ms is not; a first part is kept; a flit for another node goes on by the port its message took, or waits for a route, and one with HOPS at 7
is discarded with an ABORT. R318: an IDLE flit acknowledges and returns credits. R321: a LINK RETRY replays from the named SEQ, and the
eighth replay of one SEQ retrains. R323: an ABORT discards the partial message and goes on. After a flit, collectives that waited go on; with
none, nothing more happens. -/
def Obligations.FlitsAreTakenInSequence : Prop :=
  (∀ d : Dev, d.CollIdle → d.fabricSettle = d) ∧
  ∀ (p : Fin 128) (f : Flit) (corrected : List Nat) (bad : Bool) (s : State),
    let fb := s.dev.fabric
    let x := s.dev.port p
    let h := f.head
    let src : NodeId := BitVec.ofNat 14 h.src
    let withPort (y : Port) (g : FabricPart) : Dev := { s.dev with fabric := { g with ports := s.dev.fabric.ports.set p y } }
    let moved (y : Port) : Port := { x with replays := y.replays, corrected := y.corrected, rxSeq := (x.rxSeq + 1) % 4096 }
    let after (P : Dev → Prop) : Prop := ∃ e : Dev,
      exec (.dataFlitReceive p f corrected bad) s = .next (s.onDev fun _ => e.fabricSettle) ∧ (e.port p).rxSeq = (x.rxSeq + 1) % 4096 ∧ P e
    (x.trained = false → exec (.dataFlitReceive p f corrected bad) s = .next (s.onDev Dev.fabricSettle) ∧
      exec (.idleFlitReceive p f corrected bad) s = .next s ∧ ∀ seq, exec (.linkRetry p seq) s = .next s) ∧
    (x.trained = true → ((bad = true ∨ h.reserved = true ∨ (h.type ≠ 0 ∧ h.seq ≠ x.rxSeq)) →
      ∃ e : Dev, exec (.dataFlitReceive p f corrected bad) s = .next (s.onDev fun _ => e.fabricSettle) ∧
        Dev.Sends (withPort { x with replays := (e.port p).replays, corrected := (e.port p).corrected } fb) e ∧
        s.dev.Offers p 2 (.retry x.rxSeq) e) ∧
    (bad = false → h.reserved = false → h.type ≠ 0 → h.seq = x.rxSeq →
      let mine (m : PartialMsg) : Bool := m.port == p && m.vc.toNat == h.vc && m.src == src && m.msgId == h.msgId
      let through (t : Transit) : Bool := t.port == p && t.vc.toNat == h.vc && t.src == src && t.msgId == h.msgId
      let here : Prop := fb.nodeValid = true ∧ h.dest = fb.node.toNat
      let others := fb.partials.filter fun m => !mine m
      (h.type ≠ 1 ∧ (∀ lane q, f.body ≠ .spareSwitch lane q) ∨ h.type = 1 ∧ x.carries = false →
        after fun e => Dev.Sends (withPort (moved (e.port p)) fb) e) ∧
      (h.type ≠ 1 → ∀ (lane : Fin 8) (q : Nat) (old : Fin 9) (y : Port), f.body = .spareSwitch lane q → Port.Moved lane.val old x y →
        after fun e => Dev.Sends
          { withPort { y with replays := (e.port p).replays, corrected := (e.port p).corrected, rxSeq := (x.rxSeq + 1) % 4096 } fb with
            link := (s.dev.setEvent evRepair).link,
            repair := { s.dev.repair with unwritten := s.dev.repair.unwritten ++
              [{ kind := 0x0A, unit := dieCode (lanternDie (portLantern p)), element := p.val, detail := old.val }] } } e) ∧
      (h.type = 1 → x.carries = true → here → ∀ id, f.body = .ack id →
        ((∀ m ∈ fb.unacked, m.msgId = id → m.dest ≠ src) → after fun e => Dev.Sends (withPort (moved (e.port p)) fb) e) ∧
        ∀ k ∈ fb.unacked, k.msgId = id → k.dest = src → (k.lantern = portLantern p ∨ ∀ m ∈ fb.unacked, m.msgId = id → m.dest = src → m = k) →
          let left := fb.unacked.filter fun m => !(m.lantern == k.lantern && m.msgId == id)
          ((fb.waiting.find? fun m => m.lantern == k.lantern) = none →
            after fun e => Dev.Sends (withPort (moved (e.port p)) { fb with unacked := left }) e) ∧
          ∀ m, (fb.waiting.find? fun m => m.lantern == k.lantern) = some m →
            (left.filter fun m => m.lantern == k.lantern).length < 4096 →
            after fun e => ∃ n, (∀ q ∈ left, q.lantern = k.lantern → q.msgId ≠ n) ∧
              Dev.Sends (withPort (moved (e.port p)) { fb with
                unacked := left ++ [{ m with msgId := n, copies := 1, due := s.dev.nowUs + 100 }], waiting := fb.waiting.erase m,
                nextMsg := fb.nextMsg.set k.lantern ((n + 1) % 4096) }) e) ∧
      (h.type = 1 → x.carries = true → here → ∀ bs, f.body = .bytes bs → h.first = false → fb.partials.find? mine = none →
        after fun e => Dev.Sends (withPort (moved (e.port p)) fb) e) ∧
      (h.type = 1 → x.carries = true → here → ∀ bs old, f.body = .bytes bs →
        (h.first = true ∧ old = [] ∨ h.first = false ∧ ∃ m, fb.partials.find? mine = some m ∧ old = m.bytes) →
        let whole := old ++ bs.take (8 * h.pwords)
        (h.last = false → after fun e => Dev.Sends (withPort (moved (e.port p)) { fb with
          partials := others ++ [{ port := p, vc := BitVec.ofNat 2 h.vc, src := src, msgId := h.msgId, bytes := whole }] }) e) ∧
        (h.last = true →
          let seen := fb.recent.any fun r => r.1 == src && r.2.1 == h.msgId && decide (s.dev.nowUs < r.2.2 + 1000)
          (after fun e => Dev.Sends (withPort (moved (e.port p)) { fb with
              partials := others, recent := e.fabric.recent,
              inbox := if seen then fb.inbox else fb.inbox ++ [{ src := src, lantern := portLantern p, payload := whole }] }) e ∧
            (seen = false → (src, h.msgId, s.dev.nowUs) ∈ e.fabric.recent) ∧
            ∀ o, s.dev.bestHop (portLantern p) src.toNat 2 = some o → s.dev.Offers o 1 (.ack h.msgId) e))) ∧
      (h.type = 1 → x.carries = true → ¬ here → h.hops = 7 →
        after fun e => Dev.Sends (withPort (moved (e.port p)) fb) e ∧ s.dev.Offers p 5 .none e) ∧
      (h.type = 1 → x.carries = true → ¬ here → h.hops ≠ 7 →
        let rest := fb.transits.filter fun t => !through t
        let h' := if h.nonmin = true ∧ fb.groupOf fb.node.toNat = h.via then { h with nonmin := false } else h
        let t : Transit := { port := p, vc := BitVec.ofNat 2 h.vc, src := src, msgId := h.msgId,
                             out := s.dev.bestHop (portLantern p) (fb.target h') h.vc, due := s.dev.nowUs + 100 }
        (h.first = true →
          (∀ o, t.out = some o → after fun e =>
            Dev.Sends (withPort (moved (e.port p)) { fb with transits := if h.last then rest else rest ++ [t] }) e ∧
            s.dev.Offers o 1 f.body e) ∧
          (t.out = none → after fun e => ∃ g : Flit, g.body = f.body ∧ Dev.Sends (withPort (moved (e.port p)) { fb with
            transits := rest ++ [{ t with held := [g] }] }) e)) ∧
        (h.first = false → fb.transits.find? through = none → after fun e => Dev.Sends (withPort (moved (e.port p)) fb) e) ∧
        (h.first = false → ∀ t : Transit, fb.transits.find? through = some t →
          (∀ o, t.out = some o → after fun e =>
            Dev.Sends (withPort (moved (e.port p)) { fb with transits := if h.last then rest else fb.transits }) e ∧
            s.dev.Offers o 1 f.body e) ∧
          (t.out = none → after fun e => ∃ g : Flit, g.body = f.body ∧ Dev.Sends (withPort (moved (e.port p)) { fb with
            transits := fb.transits.map fun y => if through y then { t with held := t.held ++ [g] } else y }) e)))) ∧
    (bad = false → h.reserved = false → h.type = 0 → ∃ t : State, exec (.idleFlitReceive p f corrected bad) s = .next t ∧
      t.rings = s.rings ∧ t.pending = s.pending ∧
      Dev.Sends (withPort { x with replays := (t.dev.port p).replays, corrected := (t.dev.port p).corrected } fb) t.dev ∧
      (x.queue = [] →
        (∀ i, h.ackValid = true → (x.retry.findIdx? fun g => g.head.seq == h.ack) = some i →
          (t.dev.port p).retry = x.retry.drop (i + 1) ∧ (t.dev.port p).replays = 0) ∧
        ∀ v : Fin 4, (∀ i : Fin 12, x.credits.get i ≤ 64) →
          let held (y : Port) : Nat :=
            y.credits.get ⟨3 * v.val, by omega⟩ + y.credits.get ⟨3 * v.val + 1, by omega⟩ + y.credits.get ⟨3 * v.val + 2, by omega⟩
          held (t.dev.port p) = min 192 (held x + field h.credits (3 * v.val + 2) (3 * v.val)))) ∧
    ((bad || h.reserved) = true → ∃ t : State, exec (.idleFlitReceive p f corrected bad) s = .next t ∧
      t.rings = s.rings ∧ t.pending = s.pending ∧ s.dev.Offers p 2 (.retry x.rxSeq) t.dev ∧
      Dev.Sends (withPort { x with replays := (t.dev.port p).replays, corrected := (t.dev.port p).corrected } fb) t.dev) ∧
    (∀ (seq : BitVec 12) (i : Nat), (x.retry.findIdx? fun g => g.head.seq == seq.toNat) = some i →
      let n := if x.replaySeq = seq.toNat then x.replays + 1 else 1
      let y := { x with replays := n, replaySeq := seq.toNat, replaySeen := true }
      let y' := if 8 ≤ n ∧ x.retraining = false then { y with retraining := true, retrainSeen := true, replays := 0 } else y
      ∃ t : State, exec (.linkRetry p seq) s = .next t ∧
        t = { s with dev := { withPort y' fb with
          out := ((x.retry.drop i).map (Output.flit p)).reverse ++ s.dev.out,
          ctrs := { s.dev.ctrs with blocks := t.dev.ctrs.blocks, portBw := t.dev.ctrs.portBw } } })) ∧
    (∀ (vc : BitVec 2) (a : NodeId) (id : BitVec 12),
      let gone (t : Transit) : Bool := (t.port == p || t.out == some p) && t.vc == vc && t.src == a && t.msgId == id.toNat
      ∃ t : State, exec (.abortFlit p vc a id) s = .next t ∧ t.rings = s.rings ∧ t.pending = s.pending ∧
        Dev.Sends { s.dev with fabric := { fb with
          partials := fb.partials.filter fun m => !(m.port == p && m.vc == vc && m.src == a && m.msgId == id.toNat),
          transits := fb.transits.filter fun t => !gone t } } t.dev ∧
        ∀ y ∈ fb.transits, gone y = true → ∀ o, y.out = some o → s.dev.Offers (if y.port = p then o else y.port) 5 .none t.dev)

-- Lanes, lasers and sparing (R315, R325 to R328)

/-- R325, R326: at the end of a window the lowest lane above its limit is asked to move to the spare wavelength; the far end answers,
trains, names the SEQ and moves it. R327: a lost lane retrains its link. R328: a retrain that finds 8 good wavelengths maps the lanes onto
the lowest; with fewer, or after three that fail, a spare engine takes the position; with none left, 4 good ones run in HALF mode, and
otherwise the port is FAILED. R315: a failed feed is lost on every engine it serves, and a restored one is back. -/
def Obligations.LanesAreSparedAndRetrained : Prop :=
  ∀ (p : Fin 128) (s : State),
    let fb := s.dev.fabric
    let x := s.dev.port p
    let lantern := portLantern p
    let withPort (y : Port) : Dev := { s.dev with fabric := { fb with ports := fb.ports.set p y } }
    let note (w : Fin 9) : Repair := { kind := 0x0A, unit := dieCode (lanternDie lantern), element := p.val, detail := w.val }
    (let limit := 132812500000 / 10 ^ max 4 x.ber
     let y := { x with corrected := Vector.replicate 8 0, ber := field (fb.linkCfg.get lantern).toNat 3 0 }
     let asks (k : Fin 8) : Prop := limit < x.corrected.get k ∧ (∀ j < k, x.corrected.get j ≤ limit) ∧ x.carries = true ∧ x.swap = none ∧
       ∃ w : Fin 9, x.good.getLsbD w.val = true ∧ x.lanes.getLsbD w.val = false
     (∀ k, asks k → ∃ t : State, exec (.laneBerWindowEnd p) s = .next t ∧ t.rings = s.rings ∧ t.pending = s.pending ∧
       Dev.Sends (withPort { y with swap := some { lane := k, asked := true } }) t.dev ∧ s.dev.Offers p 2 (.spareRequest k) t.dev) ∧
     ((∀ k, ¬ asks k) → exec (.laneBerWindowEnd p) s = .next (s.onDev fun _ => withPort y))) ∧
    (∀ lane : Fin 8,
      (x.carries = true → x.swap = none →
        exec (.spareRequest p lane) s = .next (s.onDev fun _ => withPort { x with swap := some { lane := lane, asked := false } })) ∧
      (¬ (x.carries = true ∧ x.swap = none) → exec (.spareRequest p lane) s = .next s) ∧
      (x.swap = some { lane := lane, asked := true } → ∃ t : State, exec (.spareWavelengthTrained p lane) s = .next t ∧
        t.rings = s.rings ∧ t.pending = s.pending ∧ Dev.Sends s.dev t.dev ∧ s.dev.Offers p 2 (.spareReady lane) t.dev) ∧
      (x.swap ≠ some { lane := lane, asked := true } → exec (.spareWavelengthTrained p lane) s = .next s) ∧
      (x.swap = some { lane := lane, asked := false } → ∃ t : State, exec (.spareReady p lane) s = .next t ∧
        t.rings = s.rings ∧ t.pending = s.pending ∧ s.dev.Offers p 2 (.spareSwitch lane (x.txSeq + 1)) t.dev ∧
        (∀ (old : Fin 9) (y : Port), Port.Moved lane.val old x y → Dev.Sends { withPort y with
          link := (s.dev.setEvent evRepair).link,
          repair := { s.dev.repair with unwritten := s.dev.repair.unwritten ++ [note old] } } t.dev) ∧
        ((∀ w : Fin 9, x.good.getLsbD w.val = true → x.lanes.getLsbD w.val = true) → Dev.Sends (withPort { x with swap := none }) t.dev)) ∧
      (x.swap ≠ some { lane := lane, asked := false } → exec (.spareReady p lane) s = .next s)) ∧
    (∀ w : Fin 9,
      let y := { x with good := x.good &&& ~~~(1#9 <<< w.val) }
      (x.trained = true → x.lanes.getLsbD w.val = true → x.retraining = false →
        exec (.laneLost p w) s =
          .next (s.onDev fun _ => (withPort { y with retraining := true, retrainSeen := true, replays := 0 }).countPort p 0x07 1)) ∧
      (x.trained = true → (x.lanes.getLsbD w.val = false ∨ x.retraining = true) →
        exec (.laneLost p w) s = .next (s.onDev fun _ => withPort y)) ∧
      (x.trained = false → exec (.laneLost p w) s = .next s)) ∧
    (∀ (good : BitVec 9) (ok : Bool),
      (x.retraining = false → exec (.retrainComplete p good ok) s = .next (s.onDev Dev.fabricSettle)) ∧
      (x.retraining = true →
        let n := ((List.finRange 9).filter fun w : Fin 9 => good.getLsbD w.val).length
        let fails := if ok then 0 else x.badRetrains + 1
        let lost := (List.finRange 9).filter fun w : Fin 9 => x.lanes.getLsbD w.val && !good.getLsbD w.val
        let lowest (k : Nat) (lanes : BitVec 9) : Prop := ∀ w : Fin 9, lanes.getLsbD w.val =
          (good.getLsbD w.val && decide (((List.finRange 9).filter fun v : Fin 9 => v < w && good.getLsbD v.val).length < k))
        let after (P : Dev → Prop) : Prop := ∃ e : Dev, exec (.retrainComplete p good ok) s = .next (s.onDev fun _ => e.fabricSettle) ∧ P e
        let base (notes : List Repair) (y : Port) (e : Dev) : Dev := { withPort y with
          link := { s.dev.link with events := e.link.events, msix := { s.dev.link.msix with pending := e.link.msix.pending } },
          repair := { s.dev.repair with unwritten := s.dev.repair.unwritten ++ notes } }
        let evented (rep fab : Bool) (e : Dev) : Prop := e.link.events =
          (s.dev.link.events ||| (if rep then 1#8 <<< evRepair else 0#8)) ||| (if fab then 1#8 <<< evFabric else 0#8)
        (8 ≤ n → ok = true → after fun e => ∃ lanes, lowest 8 lanes ∧
          (let y := { x with retraining := false, badRetrains := 0, good := good, lanes := lanes, spareSeen := x.spareSeen || lanes != x.lanes,
                             replaySeen := x.replaySeen || !x.retry.isEmpty, state := if x.state = psHalf then psUp else x.state }
           Dev.Sends (base (lost.map note) y e) e) ∧ evented (!lost.isEmpty) (x.state == psHalf) e ∧
          ∃ l, e.out = l ++ s.dev.out ∧ ∀ g ∈ x.retry, Output.flit p g ∈ l) ∧
        (8 ≤ n → ok = false → fails < 3 → after fun e =>
          Dev.Sends (base (lost.map note) { x with badRetrains := fails, good := good } e) e ∧ evented (!lost.isEmpty) false e) ∧
        ((n < 8 ∨ 3 ≤ fails) →
          (∀ spare, s.dev.spareEngine lantern = some spare → after fun e =>
            let swapped : Repair := { kind := 0x0B, unit := dieCode (lanternDie lantern), element := x.engine + 64 * lantern.val, detail := 1 }
            (e.port p).state = psTraining ∧ (e.port p).engine = spare ∧ (e.port p).retry = [] ∧
            e.fabric.engineOut = fb.engineOut ++ [(lantern.val, x.engine)] ∧
            e.repair = { s.dev.repair with unwritten := s.dev.repair.unwritten ++ lost.map note ++ [swapped] } ∧
            e.link.events.getLsbD evRepair = true) ∧
          (s.dev.spareEngine lantern = none →
            (4 ≤ n → after fun e => ∃ lanes, lowest 4 lanes ∧
              Dev.Sends (base (lost.map note) { x with
                retraining := false, badRetrains := 0, good := good, lanes := lanes, state := if x.carries then psHalf else x.state } e) e ∧
              evented (!lost.isEmpty) (x.state == psUp) e) ∧
            (n < 4 → x.state ≠ psFailed → after fun e => (e.port p).state = psFailed ∧ (e.port p).lanes = 0#9 ∧ (e.port p).good = good ∧
              (e.port p).retry = [] ∧ e.link.events.getLsbD evFabric = true ∧ e.fabric.engineOut = fb.engineOut ∧
              e.repair = { s.dev.repair with unwritten := s.dev.repair.unwritten ++ lost.map note }))))) ∧
    ∀ (l : Fin 4) (feed : Fin 18),
      let z := fb.lasers.get l
      let m : BitVec 9 := 1#9 <<< (feed.val % 9)
      let serves (q : Fin 128) : Bool :=
        portLantern q == l && (if feed.val < 9 then (s.dev.port q).engine ≤ 15 || (s.dev.port q).engine == 32
                               else 16 ≤ (s.dev.port q).engine && (s.dev.port q).engine ≤ 31 || (s.dev.port q).engine == 33)
      (∀ failed : Bool, ∃ t : State, exec (.laserFeedFail l feed failed) s = .next t ∧
        (let z' := if feed.val < 9 then { z with aOk := z.aOk &&& ~~~m, aFailed := if failed then z.aFailed ||| m else z.aFailed }
                   else { z with bOk := z.bOk &&& ~~~m, bFailed := if failed then z.bFailed ||| m else z.bFailed }
         t = { s with dev := { s.dev with
           ctrs := t.dev.ctrs,
           fabric := { fb with ports := t.dev.fabric.ports, lasers := fb.lasers.set l { z' with lowSeen := true, failSeen := z.failSeen || failed } } } }) ∧
        ∀ q : Fin 128,
          let y := s.dev.port q
          let y' := { y with good := y.good &&& ~~~m }
          t.dev.port q = if failed && serves q && y.trained then
            (if y.lanes.getLsbD (feed.val % 9) && !y.retraining then { y' with retraining := true, retrainSeen := true, replays := 0 } else y')
            else y) ∧
      (let z' := if feed.val < 9 then { z with aOk := z.aOk ||| m, aFailed := z.aFailed &&& ~~~m }
                 else { z with bOk := z.bOk ||| m, bFailed := z.bFailed &&& ~~~m }
       exec (.laserFeedRestored l feed) s = .next (s.onDev fun _ => { s.dev with fabric := { fb with lasers := fb.lasers.set l z' } }))

-- Hellos, authentication and ports that go down (R333, R345, R346)

/-- R333: every interval each trained port says hello; a hello from the cabled far end is kept, starts authentication on a port that is
TRAINING, and one from another end makes it MISCABLED. R551: a port that went DARK for
want of light is TRAINING again with a hello. R345: an offer whose certificate is good, names the same fabric and owner and is not
revoked is answered with a signature; a good signature makes the link UP and anything else AUTH_FAILED. R346: a failed link tries again. R333,
R349: a port without hellos goes down and trains anew, and a member that no other's links reach is lost. -/
def Obligations.LinksComeUpAndGoDown : Prop :=
  ∀ (p : Fin 128) (s : State),
    let fb := s.dev.fabric
    let x := s.dev.port p
    let withPort (y : Port) : Dev := { s.dev with fabric := { fb with ports := fb.ports.set p y } }
    let evented (d : Dev) : Dev := { d with link := (s.dev.setEvent evFabric).link }
    let asks (y : Port) (t : State) : Prop := ∃ nonce, nonce.length = 32 ∧
      Dev.Sends { evented (withPort { y with state := psAuth, auth := { nonce := nonce } }) with freeCtr := s.dev.freeCtr + 4 } t.dev ∧
      s.dev.Offers p 3 (.auth (.offer Config.deviceCerts fb.role.fabricId s.dev.ownerDigest nonce p)) t.dev
    let answers (c : Instr) (P : State → Prop) : Prop := ∃ t : State, exec c s = .next t ∧ t.rings = s.rings ∧ t.pending = s.pending ∧ P t
    (∀ h : Hello,
      let lit := (fb.lasers.get (portLantern p)).lit x.engine
      let x := if x.state = psDark ∧ x.lanes ≠ 0#9 ∧ x.good = 0#9 then { x with state := psTraining, good := lit, lanes := lowestWaves lit 8 } else x
      let y := { x with peerNode := h.node, peerValid := h.valid, peerLantern := BitVec.ofNat 2 h.lantern.val,
                        peerPosition := BitVec.ofNat 5 h.position.val, peerSeen := true, missed := 0 }
      (x.trained = false → exec (.linkHello p h) s = .next s) ∧
      (x.trained = true → fb.role.cabled p h = true →
        ((x.state = psTraining ∨ x.state = psMiscabled) →
          (s.dev.start.identityOk = true → answers (.linkHello p h) (asks y)) ∧
          (s.dev.start.identityOk = false → answers (.linkHello p h) fun t =>
            Dev.Sends (evented (withPort { y with state := psAuthFailed, authFailSeen := true, auth := {} })) t.dev)) ∧
        (x.state ≠ psTraining → x.state ≠ psMiscabled →
          (x.carries = true → (x.peerNode ≠ h.node ∨ x.peerValid ≠ h.valid) →
            answers (.linkHello p h) fun t => (withPort y).Announces t.dev) ∧
          (¬ (x.carries = true ∧ (x.peerNode ≠ h.node ∨ x.peerValid ≠ h.valid)) →
            exec (.linkHello p h) s = .next (s.onDev fun _ => withPort y)))) ∧
      (x.trained = true → fb.role.cabled p h = false → x.carries = true → answers (.linkHello p h) fun t => ∃ e : Dev,
        (withPort { y with state := psMiscabled }).Announces e ∧
        t.dev = { e with out := t.dev.out, link := (s.dev.setEvent evFabric).link }) ∧
      (x.trained = true → fb.role.cabled p h = false → x.carries = false → x.state ≠ psMiscabled → answers (.linkHello p h) fun t =>
        Dev.Sends (evented (withPort { y with state := psMiscabled })) t.dev)) ∧
    (let hails (q : Fin 128) : Bool := (s.dev.port q).trained && (!(s.dev.power.state == 2#2) || fb.keptPort == some q)
     let hello (q : Fin 128) : Hello :=
       { node := fb.node, valid := fb.nodeValid, lantern := portLantern q, position := Fin.ofNat 32 (q.val % 32), state := fb.state,
         fabricLow := fb.role.fabricId.setWidth 32, memberSeq := fb.memberSeq, ember := s.dev.power.state == 2#2 }
     answers .helloIntervalTick fun t =>
       Dev.Sends { s.dev with fabric := { fb with
         ports := Vector.ofFn fun q => if hails q then { s.dev.port q with missed := (s.dev.port q).missed + 1 } else s.dev.port q } } t.dev ∧
       ∀ q, hails q = true → s.dev.Offers q 2 (.hello (hello q)) t.dev) ∧
    (let failed (a : AuthBody) : Prop := answers (.authFlit p a) fun t =>
       Dev.Sends (evented (withPort { x with state := psAuthFailed, authFailSeen := true, auth := {} })) t.dev
     (x.state ≠ psAuth → ∀ a, exec (.authFlit p a) s = .next s) ∧
     (x.state = psAuth → ∀ (cert : List Byte) (fid : Long) (owner : Nat) (nonce : List Byte) (port : Fin 128),
       let a : AuthBody := .offer cert fid owner nonce port
       let good : Prop := (Config.certKey cert).isSome = true ∧ fid = fb.role.fabricId ∧ owner = s.dev.ownerDigest ∧ s.dev.revoked cert = false
       (good → answers (.authFlit p a) fun t =>
         Dev.Sends (withPort { x with auth := { x.auth with cert := cert, fabricId := fid, ownerDigest := owner, peerNonce := nonce,
                                                            peerPort := port.val, got := true } }) t.dev ∧
         ∃ r v, s.dev.Offers p 3 (.auth (.sign r v)) t.dev) ∧
       (¬ good → failed a)) ∧
     (x.auth.got = false → ∀ r v, exec (.authFlit p (.sign r v)) s = .next s) ∧
     (x.state = psAuth → x.auth.got = true → ∀ r v : Nat,
       let good : Prop := ∃ key, Config.certKey x.auth.cert = some key ∧ ecdsaVerifies key (s.dev.authDigestOf p key) r v = true
       (good → answers (.authFlit p (.sign r v)) fun t => ∃ e e' : Dev,
         (withPort { x with
           state := if (((List.finRange 9).filter fun w : Fin 9 => x.lanes.getLsbD w.val).length) = 4 then psHalf else psUp,
           auth := {} }).Announces e ∧ e.Sends e' ∧
         t.dev = { e' with out := t.dev.out, link := (s.dev.setEvent evFabric).link }) ∧
       (¬ good → failed (.sign r v)))) ∧
    ((x.state = psAuthFailed → s.dev.start.identityOk = true → answers (.authRetryTimer p) (asks x)) ∧
     (x.state = psAuthFailed → s.dev.start.identityOk = false →
       exec (.authRetryTimer p) s = .next (s.onDev fun _ => withPort { x with authFailSeen := true, auth := {} })) ∧
     (x.state ≠ psAuthFailed → exec (.authRetryTimer p) s = .next s)) ∧
    (let st := if x.good = 0#9 then psDark else psTraining
     let linked (n : NodeId) (e : Dev) : Prop := ∃ y ∈ e.fabric.lsdb, y.node ≠ n ∧ ∃ l ∈ y.links, l.peer = n
     let silent : Prop := max 1 (field (fb.linkCfg.get (portLantern p)).toNat 7 4) ≤ x.missed ∨ x.good = 0#9
     ((x.trained = false ∨ ¬ silent) → exec (.neighbourDead p) s = .next (s.onDev Dev.fabricSettle)) ∧
     (x.trained = true → silent → x.state ≠ st → ∃ e e' : Dev, s.dev.LinkDown p st e ∧
       exec (.neighbourDead p) s = .next (s.onDev fun _ => e'.fabricSettle) ∧
       (let n := x.peerNode
        let ev : MemberEvent := { origin := fb.node, seq := fb.memberSeq + 1, loss := true, node := n }
        let isLost : Prop := (∃ y ∈ e.fabric.lsdb, y.node = n) ∧ ¬ linked n e ∧ n ≠ fb.node ∧ fb.state = 2#2 ∧
          (∃ q, (s.dev.port q).peerNode = n ∧ (s.dev.port q).peerValid = true) ∧ (fb.node, fb.memberSeq + 1) ∉ fb.applied
        (isLost → e.EventTaken ev e') ∧
        (¬ isLost → e' = { e with out := e'.out, link := (s.dev.setEvent evFabric).link }))))

-- Membership and routes (R324, R334 to R351)

/-- R347: FABRIC_JOIN is refused without a role, where the device is not ALONE, and with no port that carries DATA; the CONFIGURED role's
node ID, or the one an election gave, makes it MEMBER, its links flooded and its routes installed; an ID that is taken ends it. R335: a
device that heard no lower fingerprint for 200 ms assigns the IDs, itself first. R348: FABRIC_LEAVE waits for collectives where it drains,
then ends them, floods its event, forwards for 50 ms, and is ALONE. R342: ROUTE_QUERY writes the entries asked for. -/
def Obligations.MembersJoinAndLeave : Prop :=
  ∀ (tag : Tag) (s : State) (c : Cmd), c.Unbounded →
    let fb := s.dev.fabric
    let ended (st : Half) (vs : List Byte) : Link := (s.dev.replied c.id st vs).link
    let refused (st : Half) : Host.Outcome State Fault Refusal := .next (s.onDev (Dev.replied c.id st (vals 0 0 0)))
    let running : Link := (s.dev.setPhase c.id .running).link
    let inUse (id : NodeId) : Prop := (∃ n ∈ fb.lsdb, n.node = id) ∨
      ∃ q, (s.dev.port q).carries = true ∧ (s.dev.port q).peerValid = true ∧ (s.dev.port q).peerNode = id
    let joins (i : Instr) (id : NodeId) : Prop :=
      (inUse id → exec i s = .next (s.onDev fun d => ({ d with
        fabric := { d.fabric with idConflictSeen := true, state := 0#2, join := none } } : Dev).replied c.id stFabricIdConflict (vals 0 0 0))) ∧
      (¬ inUse id → ∃ t : State, exec i s = .next t ∧ t.rings = s.rings ∧ t.pending = s.pending ∧
        (∃ e : Dev, ({ s.dev with fabric := { fb with node := id, nodeValid := true, state := 2#2, join := none } } : Dev).Announces e ∧
          t.dev = { e with freeCtr := t.dev.freeCtr, link := ended stOk (vals id.toNat 0 0),
                           fabric := { e.fabric with routes := t.dev.fabric.routes } }) ∧
        ∀ l : Fin 4, t.dev.fabric.entry l id.toNat = 0x100000000#64 ||| (t.dev.fabric.entry l id.toNat &&& 0xFFFF000000000000#64))
    (s.dev.Takes tag 0xA0#8 c →
      (fb.role.mode = 0 → exec (.fabricJoin tag) s = refused stFabricParam) ∧
      (fb.role.mode ≠ 0 → fb.state ≠ 0#2 → exec (.fabricJoin tag) s = refused stFabricBusy) ∧
      (fb.role.mode ≠ 0 → fb.state = 0#2 →
        ((∀ q, (s.dev.port q).carries = false) → exec (.fabricJoin tag) s = refused stFabricIsolated) ∧
        ((∃ q, (s.dev.port q).carries = true) →
          (fb.role.mode = 1 → joins (.fabricJoin tag) (BitVec.ofNat 14 (fb.role.g * fb.role.n + fb.role.i))) ∧
          (fb.role.mode ≠ 1 →
            (∀ a, (fb.assigned.find? fun a => a.1 == ownFingerprint) = some a → joins (.fabricJoin tag) a.2) ∧
            ((fb.assigned.find? fun a => a.1 == ownFingerprint) = none → ∃ t : State, exec (.fabricJoin tag) s = .next t ∧
              t.rings = s.rings ∧ t.pending = s.pending ∧
              Dev.Sends { s.dev with link := running,
                                     fabric := { fb with state := 1#2, join := some c.id, electAt := s.dev.nowUs + 200000 } } t.dev ∧
              ∀ q, (s.dev.port q).carries = true → s.dev.Offers q 4 (.route (.fingerprint ownFingerprint)) t.dev))))) ∧
    (let elects : Prop := fb.role.mode = 2 ∧ fb.join.isSome = true ∧ fb.electAt ≤ s.dev.nowUs ∧ fb.assigned = [] ∧
       ∀ x ∈ fb.fingerprints, ownFingerprint.toNat ≤ x.toNat
     (¬ elects → exec .electionTimeout s = .next s) ∧
     (elects → fb.join = some c.id → s.dev.cmd c.id = some c → c.phase ≠ .done → ¬ inUse 0 → fb.fingerprints.Nodup →
       ∃ t : State, exec .electionTimeout s = .next t ∧ t.rings = s.rings ∧ t.pending = s.pending ∧ t.dev.link = ended stOk (vals 0 0 0) ∧
         t.dev.fabric.coordinator = true ∧ t.dev.fabric.node = 0 ∧ t.dev.fabric.nodeValid = true ∧ t.dev.fabric.state = 2#2 ∧
         t.dev.fabric.join = none ∧ t.dev.mem = s.dev.mem ∧ t.dev.coll = s.dev.coll ∧
         (t.dev.fabric.assigned.map Prod.fst).Perm (ownFingerprint :: fb.fingerprints.filter (· != ownFingerprint)) ∧
         (t.dev.fabric.assigned.map Prod.fst).Pairwise (fun a b => a.toNat ≤ b.toNat) ∧
         t.dev.fabric.assigned.head? = some (ownFingerprint, 0) ∧
         t.dev.fabric.assigned.map Prod.snd = (List.range t.dev.fabric.assigned.length).map (BitVec.ofNat 14) ∧
         ∀ q, (s.dev.port q).carries = true → s.dev.Offers q 4 (.route (.assignment t.dev.fabric.assigned)) t.dev)) ∧
    (let own : MemberEvent := { origin := fb.node, seq := fb.memberSeq + 1, loss := false, node := fb.node }
     let leaving (id : Nat) (fwd : Bool) (us : Nat) (e : Dev) : Dev := { e with fabric := { e.fabric with
       state := 3#2, leave := some { cmd := id, forwarding := fwd, due := s.dev.nowUs + us } } }
     let busy : Prop := s.dev.coll.ops ≠ [] ∨ s.dev.coll.binds ≠ [] ∨ ∃ j ∈ s.dev.coll.jobs, j.active = true
     let gone (id : Nat) (i : Instr) (l : Link) : Prop := ∃ t : State, exec i s = .next t ∧ t.rings = s.rings ∧ t.pending = s.pending ∧
       t.dev.fabric.state = 3#2 ∧ t.dev.fabric.leave = some { cmd := id, forwarding := true, due := s.dev.nowUs + 50000 } ∧
       t.dev.coll.ops = [] ∧ t.dev.coll.binds = [] ∧ ((s.dev.coll.jobs.map (·.id)).Nodup → ∀ j j', s.dev.job j = some j' → ∀ e, t.dev.job j = some e → e.active = false) ∧
       (fb.node, fb.memberSeq + 1) ∈ t.dev.fabric.applied ∧
       (¬ busy → (leaving id true 50000 { s.dev with link := l }).EventTaken own t.dev) ∧
       ∀ o ∈ s.dev.coll.ops, ∀ x : Cmd, o.id ≠ id → s.dev.cmd o.id = some x → x.phase ≠ .done → x.Unbounded → s.dev.coll.jobs = [] →
         s.dev.coll.binds = [] → ∃ y : Cmd, t.dev.cmd o.id = some y ∧ y.phase = .done ∧ y.reply.status = stGroupChanged
     (fb.node, fb.memberSeq + 1) ∉ fb.applied →
     (s.dev.Takes tag 0xA1#8 c →
       (fb.state ≠ 2#2 → exec (.fabricLeave tag) s = refused stFabricNotMember) ∧
       (fb.state = 2#2 → c.pkt.o0.getLsbD 0 = true → busy →
         exec (.fabricLeave tag) s = .next (s.onDev fun d => leaving c.id false 1000000 (d.setPhase c.id .running))) ∧
       (fb.state = 2#2 → (c.pkt.o0.getLsbD 0 = false ∨ ¬ busy) → gone c.id (.fabricLeave tag) running)) ∧
     ∀ v : Leave, fb.leave = some v →
       (v.forwarding = false → v.due ≤ s.dev.nowUs → gone v.cmd .leaveDrainTimeout s.dev.link) ∧
       ((v.forwarding = true ∨ s.dev.nowUs < v.due) → exec .leaveDrainTimeout s = .next s) ∧
       ((v.forwarding = false ∨ s.dev.nowUs < v.due) → exec .leaveForwardEnd s = .next s) ∧
       (v.forwarding = true → v.due ≤ s.dev.nowUs → s.dev.cmd c.id = some c → c.phase ≠ .done → v.cmd = c.id →
         exec .leaveForwardEnd s = .next (s.onDev fun d => ({ d with fabric := { d.fabric with
           state := 0#2, leave := none, node := 0, nodeValid := false, coordinator := false, lsdb := [], fingerprints := [],
           assigned := [], routes := Vector.replicate 4 [], transits := [] } } : Dev).replied c.id stOk (vals 0 0 0)))) ∧
    (s.dev.Takes tag 0xA2#8 c →
      let first := opnd c.pkt.o0 13 0
      let count := opnd c.pkt.o0 30 16
      let a := opDa c.pkt.o1
      let bs := ((List.finRange 4).filter fun l : Fin 4 => c.pkt.o0.getLsbD (32 + l.val)).flatMap fun l =>
        (List.range count).flatMap fun i => leBytes 8 (fb.entry l (first + i)).toNat
      ((count = 0 ∨ 16384 < first + count) → exec (.routeQuery tag) s = refused stFabricParam) ∧
      (0 < count → first + count ≤ 16384 →
        (s.dev.daOk a bs.length = false → exec (.routeQuery tag) s = refused stAddress) ∧
        (s.dev.daOk a bs.length = true → s.dev.mem.storeStruck a bs.length = false → ∃ t : State, exec (.routeQuery tag) s = .next t ∧
          t = { s with dev := { s.dev with link := ended stOk (vals fb.lsdb.length fb.memberSeq 0), tier := t.dev.tier,
                                           mem := s.dev.mem.store a bs } })))

/-- R341: link state with a new version replaces what the database holds of its node, is flooded on, and gives new routes; old link state
changes nothing. R335: a fingerprint first heard is kept and flooded. R349, R350: an event is applied once. R324: an unacknowledged message is
sent once more after 100 µs, and then its owner ends with ST_ROUTE_UNREACHABLE. R341: a message without a route for 100 µs is discarded. R351:
so is one held for an event that does not come. -/
def Obligations.RoutesEventsAndLateMessages : Prop :=
  ∀ s : State,
    let fb := s.dev.fabric
    let taken (i : Instr) (P : Dev → Prop) : Prop := ∃ e : Dev, exec i s = .next (s.onDev fun _ => e.fabricSettle) ∧ P e
    let joined : Prop := fb.state = 2#2 ∨ fb.state = 3#2
    (∀ (p : Fin 128) (r : RouteBody), (s.dev.port p).carries = false → exec (.routeFlit p r) s = .next (s.onDev Dev.fabricSettle)) ∧
    (∀ p : Fin 128, (s.dev.port p).carries = true →
      (∀ (node : NodeId) (version : Nat) (links : List LsLink),
        let r : RouteBody := .linkState node version links
        let known : Prop := (∃ x, fb.lsdb.find? (fun x => x.node == node) = some x ∧ version ≤ x.version) ∨ version = 0 ∨
          (fb.nodeValid = true ∧ node = fb.node)
        let lsdb' := fb.lsdb.filter (fun x => x.node != node) ++ [{ node := node, version := version, links := links }]
        (known → exec (.routeFlit p r) s = .next (s.onDev Dev.fabricSettle)) ∧
        (¬ known →
          (∀ x, fb.lsdb.find? (fun x => x.node == node) = some x → ∀ l ∈ x.links, (∃ m ∈ links, m.peer = l.peer) ∨
            (∃ y ∈ lsdb', y.node ≠ l.peer ∧ ∃ m ∈ y.links, m.peer = l.peer) ∨ (∀ y ∈ lsdb', y.node ≠ l.peer)) →
          taken (.routeFlit p r) fun e =>
            Dev.Sends { s.dev with freeCtr := e.freeCtr,
                                   fabric := { fb with lsdb := lsdb', routes := e.fabric.routes, transits := e.fabric.transits } } e ∧
            (joined → ∀ q, q ≠ p → (s.dev.port q).carries = true → s.dev.Offers q 4 (.route r) e))) ∧
      (∀ fp : Long,
        (fp ∈ fb.fingerprints → exec (.routeFlit p (.fingerprint fp)) s = .next (s.onDev Dev.fabricSettle)) ∧
        (fp ∉ fb.fingerprints → (fb.coordinator = false ∨ ∃ a ∈ fb.assigned, a.1 = fp) → taken (.routeFlit p (.fingerprint fp)) fun e =>
          Dev.Sends { s.dev with fabric := { fb with fingerprints := fb.fingerprints ++ [fp] } } e ∧
          ∀ q, q ≠ p → (s.dev.port q).carries = true → s.dev.Offers q 4 (.route (.fingerprint fp)) e) ∧
        (fp ∉ fb.fingerprints → fb.coordinator = true → (∀ a ∈ fb.assigned, a.1 ≠ fp) → fb.join = none →
          ∀ free : NodeId, (∀ a ∈ fb.assigned, a.2 ≠ free) → (∀ n : NodeId, n < free → ∃ a ∈ fb.assigned, a.2 = n) →
          let ids := fb.assigned ++ [(fp, free)]
          taken (.routeFlit p (.fingerprint fp)) fun e =>
            Dev.Sends { s.dev with fabric := { fb with fingerprints := fb.fingerprints ++ [fp], assigned := ids } } e ∧
            ∀ q, (s.dev.port q).carries = true → s.dev.Offers q 4 (.route (.assignment ids)) e)) ∧
      (∀ ids : List (Long × NodeId),
        (ids.length ≤ fb.assigned.length → exec (.routeFlit p (.assignment ids)) s = .next (s.onDev Dev.fabricSettle)) ∧
        (fb.assigned.length < ids.length → fb.join = none → taken (.routeFlit p (.assignment ids)) fun e =>
          Dev.Sends { s.dev with fabric := { fb with assigned := ids } } e ∧
          ∀ q, q ≠ p → (s.dev.port q).carries = true → s.dev.Offers q 4 (.route (.assignment ids)) e) ∧
        (fb.assigned.length < ids.length → ∀ (c : Cmd) (a : Long × NodeId), fb.join = some c.id → s.dev.cmd c.id = some c →
          c.phase ≠ .done → c.Unbounded → (ids.find? fun a => a.1 == ownFingerprint) = some a → (∀ n ∈ fb.lsdb, n.node ≠ a.2) →
          (∀ q, (s.dev.port q).carries = true → (s.dev.port q).peerValid = true → (s.dev.port q).peerNode ≠ a.2) →
          taken (.routeFlit p (.assignment ids)) fun e => e.fabric.node = a.2 ∧ e.fabric.nodeValid = true ∧ e.fabric.state = 2#2 ∧
            e.fabric.join = none ∧ e.fabric.assigned = ids ∧ e.mem = s.dev.mem ∧ e.coll = s.dev.coll ∧
            e.link = (s.dev.replied c.id stOk (vals a.2.toNat 0 0)).link)) ∧
      (∀ ev : MemberEvent, (ev.origin, ev.seq) ∉ fb.applied → taken (.routeFlit p (.event ev)) fun e => s.dev.EventTaken ev e ∧
        (joined → ∀ q, q ≠ p → (s.dev.port q).carries = true → s.dev.Offers q 4 (.route (.event ev)) e)) ∧
      (∀ ev : MemberEvent, (ev.origin, ev.seq) ∈ fb.applied → exec (.routeFlit p (.event ev)) s = .next (s.onDev Dev.fabricSettle))) ∧
    (∀ ev : MemberEvent,
      ((ev.origin, ev.seq) ∈ fb.applied → exec (.membershipEvent ev) s = .next s) ∧
      ((ev.origin, ev.seq) ∉ fb.applied → ∃ t : State, exec (.membershipEvent ev) s = .next t ∧
        t.rings = s.rings ∧ t.pending = s.pending ∧ s.dev.EventTaken ev t.dev)) ∧
    (∀ (l : Fin 4) (id : BitVec 12),
      let mine (m : TxMsg) : Bool := m.lantern == l && m.msgId == id.toNat
      let left := fb.unacked.filter fun m => !mine m
      (fb.unacked.find? mine = none → exec (.messageAckTimeout l id) s = .next s) ∧
      ∀ m : TxMsg, fb.unacked.find? mine = some m →
        (s.dev.nowUs < m.due → exec (.messageAckTimeout l id) s = .next s) ∧
        (m.due ≤ s.dev.nowUs → m.copies ≤ 1 → ∃ t : State, exec (.messageAckTimeout l id) s = .next t ∧ t.rings = s.rings ∧ t.pending = s.pending ∧
          Dev.Sends { s.dev with fabric := { fb with
            unacked := fb.unacked.map fun x => if x = m then { m with copies := 2, due := s.dev.nowUs + 100 } else x } } t.dev ∧
          ∀ o, (fb.role.mode ≠ 1 ∨ (fb.linkCfg.get l).getLsbD 24 = false) → s.dev.bestHop l m.dest.toNat m.vc.toNat = some o →
            m.payload.length ≤ 256 → s.dev.Offers o 1 (.bytes m.payload) t.dev) ∧
        (m.due ≤ s.dev.nowUs → 1 < m.copies → (∀ y ∈ fb.waiting, y.lantern ≠ l) →
          (m.owner = .none → exec (.messageAckTimeout l id) s = .next (s.onDev fun d => { d with fabric := { d.fabric with unacked := left } })) ∧
          ∀ c : Cmd, s.dev.cmd c.id = some c → c.phase ≠ .done → c.Unbounded →
            (∀ o : CollOp, m.owner = .op c.id → s.dev.collOp c.id = some o → ∃ t : State, exec (.messageAckTimeout l id) s = .next t ∧
              t = { s with dev := { s.dev with
                link := (s.dev.replied c.id stRouteUnreachable (vals 0 0 0)).link,
                fabric := { fb with unacked := left.filter (fun y => y.owner != .op c.id), waiting := fb.waiting.filter fun y => y.owner != .op c.id },
                coll := { s.dev.coll with ops := s.dev.coll.ops.filter (fun y => y.id != c.id), ready := t.dev.coll.ready } } }) ∧
            (∀ b : Bind, m.owner = .bind b.handle → s.dev.coll.binds.find? (fun y => y.handle == b.handle) = some b → b.cmd = c.id →
              exec (.messageAckTimeout l id) s = .next (s.onDev fun d => ({ d with
                fabric := { fb with unacked := left.filter (fun y => y.owner != m.owner), waiting := fb.waiting.filter fun y => y.owner != m.owner },
                coll := { d.coll with binds := d.coll.binds.filter fun y => y.handle != b.handle } } : Dev).replied
                  c.id stRouteUnreachable (vals 0 0 0)))) ∧
        (m.due ≤ s.dev.nowUs → 1 < m.copies → (∀ y ∈ fb.waiting, y.lantern ≠ l) → ∀ n : Nat, m.owner = .launch n →
          exec (.messageAckTimeout l id) s = .next (s.onDev fun d => ({ d with fabric := { d.fabric with
            unacked := left.filter (fun y => y.owner != m.owner),
            waiting := fb.waiting.filter fun y => y.owner != m.owner } } : Dev).stopLaunch n stRouteUnreachable)) ∧
        (m.due ≤ s.dev.nowUs → 1 < m.copies → ∀ j : GradJob, m.owner = .job j.id → s.dev.job j.id = some j → j.active = true →
          j.queued = [] → j.closing = none → ∃ t : State, exec (.messageAckTimeout l id) s = .next t ∧ t.rings = s.rings ∧ t.pending = s.pending ∧
            ∃ e : GradJob, t.dev.job j.id = some e ∧ e.active = false ∧ e.step = j.step)) ∧
    (∀ (p : Fin 128) (vc : BitVec 2), exec (.noRouteTimeout p vc) s = .next (s.onDev fun d => { d with fabric := { d.fabric with
      transits := fb.transits.filter fun t => !(t.port == p && t.vc == vc && t.out == none && decide (t.due ≤ s.dev.nowUs)) } })) ∧
    ∀ i : Nat,
      ((∃ m t, fb.inbox[i]? = some m ∧ m.heldTo = some t ∧ t ≤ s.dev.nowUs) → exec (.heldMessageTimeout i) s =
        .next (s.onDev fun d => { d with fabric := { d.fabric with inbox := fb.inbox.take i ++ fb.inbox.drop (i + 1) } })) ∧
      (¬ (∃ m t, fb.inbox[i]? = some m ∧ m.heldTo = some t ∧ t ≤ s.dev.nowUs) → exec (.heldMessageTimeout i) s = .next s)

-- Counters, bandwidth windows, debug mode, health (R102, R104, R520 to R535)

/-- R523, R524: CTR_SELn takes a value whose event and index its die has, and another counts as a protocol error. R526: a counter at
2^48 − 1 that counts wraps to 0 and sets OVF, its chained partner counts the carry, and FREEZE_ON_OVF freezes the block. R527: FROZEN is
cleared. R529: COUNTER_CONFIG programs and clears, snapshots, stops or clears the counters of every block named, or changes nothing. R531: at a
window's end the bytes of every port and mesh attachment are latched in 256 B units. R520: HUB_UE_LOG is cleared. -/
def Obligations.CountersAreSelectedReadAndCleared : Prop :=
  ∀ (tag : Tag) (s : State) (c : Cmd), c.Unbounded →
    let setBlock (b : DieIx) (x : CtrBlock) (d : Dev) : Dev := { d with ctrs := { d.ctrs with blocks := d.ctrs.blocks.set b x } }
    let fits (b : DieIx) (v : Word) : Prop := field v.toNat 31 22 = 0 ∧ ∃ r, eventRange (kindOf b) (field v.toNat 7 0) = some r ∧
      (field v.toNat 17 8 = 0x3FF ∨ r.1 ≤ field v.toNat 17 8 ∧ field v.toNat 17 8 < r.1 + r.2)
    let selected (v : Word) (x : Ctr) : Ctr := { x with
      event := v.extractLsb' 0 8, filter := v.extractLsb' 8 10, enable := v.getLsbD 18, chain := v.getLsbD 19, freeze := v.getLsbD 20,
      user := v.getLsbD 21 }
    (∀ b : DieIx, s.dev.ready = true → (b = 18 ∨ s.dev.power.state = 0#2) →
      let x := s.dev.ctrs.blocks.get b
      (∀ (i : Fin 8) (v : Word),
        (fits b v → exec (.ctrSelWrite b i v) s =
          .next (s.onDev (setBlock b { x with ctrs := x.ctrs.set i (selected v (x.ctrs.get i)) }))) ∧
        (¬ fits b v → exec (.ctrSelWrite b i v) s = .next (s.onDev Dev.protoError))) ∧
      exec (.countersResume b) s = .next (s.onDev (setBlock b { x with frozen := false }))) ∧
    (∀ b : DieIx, s.dev.ready = false →
      (∀ i v, exec (.ctrSelWrite b i v) s = .next s) ∧ exec (.countersResume b) s = .next s) ∧
    (∀ b : DieIx, s.dev.ready = true → b ≠ 18 → s.dev.power.state ≠ 0#2 →
      (∀ i v, exec (.ctrSelWrite b i v) s = .next (s.onDev Dev.protoError)) ∧
      exec (.countersResume b) s = .next (s.onDev Dev.protoError)) ∧
    (∀ (b : DieIx) (i : Fin 8),
      let x := s.dev.ctrs.blocks.get b
      let q := x.ctrs.get i
      let counts : Prop := q.enable = true ∧ x.frozen = false ∧ q.count = 0xFFFFFFFFFFFF#48
      (¬ counts → exec (.counterOverflow b i) s = .next s) ∧
      (counts → ∃ y : CtrBlock, exec (.counterOverflow b i) s = .next (s.onDev (setBlock b y)) ∧
        y.ctrs.get i = { q with count := 0, ovf := true } ∧ y.cycle = x.cycle ∧
        (∀ (j : Fin 8) (r : Ctr), j.val = i.val + 1 → i.val % 2 = 0 → r = x.ctrs.get j → r.enable = true → r.chain = true →
          y.ctrs.get j = { r with count := r.count + 1, ovf := r.ovf || r.count == 0xFFFFFFFFFFFF#48 } ∧
          y.frozen = (q.freeze || r.freeze && r.count == 0xFFFFFFFFFFFF#48)) ∧
        (∀ (j : Fin 8), j ≠ i → ¬ (j.val = i.val + 1 ∧ i.val % 2 = 0 ∧ (x.ctrs.get j).enable = true ∧ (x.ctrs.get j).chain = true) →
          y.ctrs.get j = x.ctrs.get j) ∧
        ((∀ j : Fin 8, ¬ (j.val = i.val + 1 ∧ i.val % 2 = 0 ∧ (x.ctrs.get j).enable = true ∧ (x.ctrs.get j).chain = true)) →
          y.frozen = q.freeze))) ∧
    (let a := opDa c.pkt.o0
     let b := s.dev.mem.readBytes a 64
     let act := bytesAt b 0 0
     let named (i : DieIx) : Bool := (bytesAt b 7 4).testBit i.val
     let whole : Prop := 0 < bytesAt b 7 4 ∧ bytesAt b 7 4 < 2 ^ 20 ∧ ∀ k, 16 ≤ k → k < 64 → b.getD k 0 = 0#8
     let refused (i : Instr) (st : Half) : Prop := exec i s = .next (s.onDev fun d => (d.heat a 64).replied c.id st (vals 0 0 0))
     let sel (r : List Byte) (die : DieIx) (i : Fin 8) : Word :=
       BitVec.ofNat 32 (leNat (slice r (64 + 32 * die.val + 4 * i.val) 4))
     let done (i : Instr) (f : DieIx → CtrBlock → CtrBlock) : Prop := ∃ t : State, exec i s = .next t ∧
       (let blocks' := Vector.ofFn fun k => if named k then f k (s.dev.ctrs.blocks.get k) else s.dev.ctrs.blocks.get k
        t = { s with dev := { s.dev with
          link := (s.dev.replied c.id stOk (vals 0 0 0)).link, tier := t.dev.tier, ctrs := { s.dev.ctrs with blocks := blocks' } } })
     s.dev.Takes tag 0xB0#8 c →
      (s.dev.daOk a 64 = false → ∀ i ∈ [Instr.counterProgram tag, .counterSnapshot tag, .counterStop tag, .counterClear tag],
        exec i s = .next (s.onDev (Dev.replied c.id stAddress (vals 0 0 0)))) ∧
      (s.dev.daOk a 64 = true → s.dev.mem.firstPoison a 64 = none →
        (¬ whole →
          (act = 0 ∨ 3 < act → refused (.counterProgram tag) stCounterParam) ∧ (act = 1 → refused (.counterSnapshot tag) stCounterParam) ∧
          (act = 2 → refused (.counterStop tag) stCounterParam) ∧ (act = 3 → refused (.counterClear tag) stCounterParam)) ∧
        (3 < act → refused (.counterProgram tag) stCounterParam) ∧
        (whole → act = 0 → s.dev.daOk a 704 = true → s.dev.mem.firstPoison a 704 = none →
          let r := s.dev.mem.readBytes a 704
          ((∀ k i, named k = true → fits k (sel r k i)) → done (.counterProgram tag) fun k x =>
            { x with ctrs := Vector.ofFn fun i => { selected (sel r k i) (x.ctrs.get i) with count := 0 } }) ∧
          ((∃ k i, named k = true ∧ ¬ fits k (sel r k i)) → exec (.counterProgram tag) s =
            .next (s.onDev fun d => ((d.heat a 64).heat a 704).replied c.id stCounterParam (vals 0 0 0)))) ∧
        (whole → act = 1 →
          let da := bytesAt b 15 10
          let bs := ((List.finRange 20).filter named).flatMap fun k =>
            let x := s.dev.ctrs.blocks.get k
            leBytes 8 x.cycle.toNat ++ (List.finRange 8).flatMap (fun i =>
              leBytes 8 ((x.ctrs.get i).count.toNat + (if (x.ctrs.get i).ovf then 2 ^ 63 else 0))) ++
            leBytes 4 x.status ++ List.replicate 52 0#8
          (s.dev.daOk da bs.length = false → refused (.counterSnapshot tag) stAddress) ∧
          (s.dev.daOk da bs.length = true → da % 64 ≠ 0 → refused (.counterSnapshot tag) stAlignment) ∧
          (s.dev.daOk da bs.length = true → da % 64 = 0 → s.dev.mem.storeStruck da bs.length = false →
            ∃ t : State, exec (.counterSnapshot tag) s = .next t ∧
              t = { s with dev := { s.dev with link := (s.dev.replied c.id stOk (vals 0 0 0)).link, tier := t.dev.tier,
                                               mem := s.dev.mem.store da bs } })) ∧
        (whole → act = 2 → done (.counterStop tag) fun _ x => { x with ctrs := x.ctrs.map fun q => { q with enable := false } }) ∧
        (whole → act = 3 → done (.counterClear tag) fun _ x =>
          { x with ctrs := x.ctrs.map fun q => { q with count := 0, ovf := false } }))) ∧
    (let shut (m : BwMeter) : BwMeter :=
       { out := 0, inn := 0, latchOut := BitVec.ofNat 32 (m.out / 256), latchIn := BitVec.ofNat 32 (m.inn / 256) }
     (s.dev.ctrs.bwLeft ≠ 0 → exec .bwWindowClose s = .next s) ∧
     (s.dev.ctrs.bwLeft = 0 → exec .bwWindowClose s = .next (s.onDev fun d => { d with ctrs := { d.ctrs with
       portBw := d.ctrs.portBw.map shut, meshBw := d.ctrs.meshBw.map shut,
       bwLeft := if d.ctrs.bwCfg = 0#16 then 1 else d.ctrs.bwCfg.toNat } }))) ∧
    ((s.dev.ready = true → exec .ueLogClear s =
        .next (s.onDev fun d => { d.dropHold .ueLog with repair := { d.repair with ue := {} } })) ∧
     (s.dev.ready = false → exec .ueLogClear s = .next s))

/-- R532, R533, R534: DEBUG_CONTROL enters debug mode where the device is unowned or its owner allows it; in debug mode it leaves it and
continues every kiln, halts kilns while no stream runs, continues them, and dumps, a scratchpad's bytes with their poison; outside it every other action is denied, and noted. R102,
R104: in debug mode a capture is chosen and waits for its block. R518: HEALTH_QUERY writes the health, sherd and ledger records or says that
they do not fit. -/
def Obligations.DebugModeAndHealth : Prop :=
  ∀ (tag : Tag) (s : State) (c : Cmd), c.Unbounded →
    let a := opDa c.pkt.o0
    let b := s.dev.mem.readBytes a 64
    let act := bytesAt b 0 0
    let mask (k : Fin 12) : Bool := (bytesAt b 3 2).testBit k.val
    let link (st : Half) (v : Nat) : Link := (s.dev.replied c.id st (vals v 0 0)).link
    let denied (i : Instr) : Prop := exec i s = .next (s.onDev fun d =>
      ({ d.heat a 64 with ctrs := { d.ctrs with deniedSeen := true } } : Dev).replied c.id stDebugDenied (vals 0 0 0))
    (s.dev.Takes tag 0xB1#8 c → s.dev.daOk a 64 = true → s.dev.mem.firstPoison a 64 = none →
      (act = 0 →
        let permitted : Prop := ∀ bs, s.dev.start.flash.selectedBytes = some bs →
          unowned (firingOwner bs) = true ∨ (activeOf 0 bs).debugAllowed = true
        (permitted → exec (.debugEnter tag) s = .next (s.onDev fun d =>
          ({ d.heat a 64 with ctrs := { d.ctrs with debugMode := true, debugEntered := true } } : Dev).replied c.id stOk (vals 0 0 0))) ∧
        (¬ permitted → denied (.debugEnter tag))) ∧
      (s.dev.ctrs.debugMode = false →
        (act = 1 → denied (.debugExit tag)) ∧ (act = 2 → denied (.halt tag)) ∧ (act = 3 → denied (.continue_ tag)) ∧
        (act = 4 → ∀ bs, denied (.dump tag bs))) ∧
      (4 < act → denied (.debugExit tag)) ∧
      (s.dev.ctrs.debugMode = true →
        (act = 1 → exec (.debugExit tag) s = .next (s.onDev fun d => ({ d.heat a 64 with
          ctrs := { d.ctrs with debugMode := false },
          kilns := d.kilns.map fun k => { k with halted := false } } : Dev).replied c.id stOk (vals 0 0 0))) ∧
        (act = 2 →
          let runs : Prop := ∃ k : Fin 32, 2 ≤ (s.dev.candle.streams.get k).state
          (runs → exec (.halt tag) s = .next (s.onDev fun d => (d.heat a 64).replied c.id stCandleState (vals 0 0 0))) ∧
          (¬ runs → ∃ t : State, exec (.halt tag) s = .next t ∧ t = { s with dev := { s.dev with
              link := link stOk 0, tier := t.dev.tier, mem := t.dev.mem, kilns := t.dev.kilns, ctrs := { s.dev.ctrs with blocks := t.dev.ctrs.blocks } } } ∧
            Dev.Halts mask s.dev t.dev)) ∧
        (act = 3 →
          let kilns' := Vector.ofFn fun k => if mask k then { s.dev.kilns.get k with halted := false } else s.dev.kilns.get k
          ∃ t : State, exec (.continue_ tag) s = .next t ∧
            t = { s with dev := { s.dev with link := link stOk 0, tier := t.dev.tier, kilns := kilns' } }) ∧
        (act = 4 → ∀ bs : List Byte, bs.length = bytesAt b 15 12 →
          let da := bytesAt b 21 16
          (s.dev.daOk da bs.length = false → exec (.dump tag bs) s =
            .next (s.onDev fun d => (d.heat a 64).replied c.id stAddress (vals 0 0 0))) ∧
          (s.dev.daOk da bs.length = true → s.dev.mem.storeStruck da bs.length = false →
            let mem' := (s.dev.dumpSource b).elim (s.dev.mem.store da bs) fun src => s.dev.mem.move src da bs.length
            ∃ t : State, exec (.dump tag bs) s = .next t ∧
              t = { s with dev := { s.dev with link := link stOk 0, tier := t.dev.tier, mem := mem' } })))) ∧
    (∀ (k : Fin 12) (v : Word), s.dev.ready = true → s.dev.power.state = 0#2 →
      let y := s.dev.kilns.get k
      (s.dev.ctrs.debugMode = false → v &&& 0xFE008080#32 = 0#32 → exec (.saccCapture k v) s = .next s) ∧
      (v &&& 0xFE008080#32 ≠ 0#32 → exec (.saccCapture k v) s = .next (s.onDev Dev.protoError)) ∧
      (s.dev.ctrs.debugMode = true → v &&& 0xFE008080#32 = 0#32 → ∃ q : Sacc,
        q = { y.sacc with tile := v.toNat % 16, group := v.toNat / 16 % 8, row := v.toNat / 256 % 128, column := v.toNat / 65536 % 256,
                          pending := true, mid := (s.dev.tile k (Fin.ofNat 16 (v.toNat % 16))).running.isSome, valid := false } ∧
        exec (.saccCapture k v) s = .next (s.onDev fun d => { d with kilns := d.kilns.set k { y with sacc := q } }))) ∧
    (s.dev.Takes tag 0xF0#8 c →
      let sh := s.dev.start.flash.sherds.filter fun r => decide (s.dev.start.startNo < r.start + 8)
      let led := s.dev.repair.standing
      let n := 128 + 32 * sh.length + 64 * led.length
      (s.dev.daOk a n = false → exec (.healthQuery tag) s = .next (s.onDev (Dev.replied c.id stAddress (vals 0 0 0)))) ∧
      (s.dev.daOk a n = true → opnd c.pkt.o1 31 0 < n →
        exec (.healthQuery tag) s = .next (s.onDev (Dev.replied c.id stQuerySpace (vals 0 0 0)))) ∧
      (s.dev.daOk a n = true → n ≤ opnd c.pkt.o1 31 0 → ∀ h : List Byte,
        h = leBytes 4 0x48544C48 ++ leBytes 2 1 ++ leBytes 2 0 ++ leBytes 4 n ++ leBytes 4 s.dev.repair.ledgerVersion ++
          leBytes 2 sh.length ++ leBytes 2 led.length ++ List.replicate 44 0#8 ++ s.dev.health →
        let bs := h ++ sh.flatMap Sherd.bytes ++ led.flatMap LedgerRec.bytes
        s.dev.mem.storeStruck a bs.length = false → bs.length = n ∧ ∃ t : State, exec (.healthQuery tag) s = .next t ∧
          t = { s with dev := { s.dev with link := link stOk n, tier := t.dev.tier, mem := s.dev.mem.store a bs } }))

-- The time unit (R417 to R422)

/-- R418: a write of HUB_TIME_CFG that changes the reference returns the unit to ACQUIRING. R419: a valid rate is in force, and another
one sets RATE_ERR and holds ACQUIRING. R420: an error that stayed good for 1 s locks; a lost reference takes LOCKED to HOLDOVER, or to FREE
where HOLDOVER_S is 0; HOLDOVER expires to FREE; a reference that returns locks again, or makes a FREE unit acquire. Every change of state
sets the TIME event. R421: an error up to STEP_LIMIT is slewed and a larger one stepped. R422: a Sync's error is measured with its delay, from
the best master heard in the domain. -/
def Obligations.TimeIsFollowed : Prop :=
  ∀ s : State,
    let x := s.dev.time
    let cfg := x.cfg.toNat
    let source := cfg % 4
    let becomes (y : TimePart) : Host.Outcome State Fault Refusal :=
      .next (s.onDev fun d => { (if y.state = x.state then d else d.setEvent evTime) with time := y })
    let valid (rate : Nat) (seconds : Bool) : Prop := field rate 15 0 ≠ 0 ∧ (field rate 25 16 = 1 ∨ field rate 25 16 = 1001) ∧
      field rate 25 16 ≤ field rate 15 0 ∧ field rate 15 0 ≤ 240 * field rate 25 16 ∧ (seconds = false ∨ field rate 25 16 = 1)
    let rated (y : TimePart) (rate : Nat) : TimePart :=
      { y with num := field rate 15 0, den := field rate 25 16, acc := x.acc * field rate 25 16 / max 1 x.den }
    let acquires (y : TimePart) : TimePart := { y with
      state := 1#2, unlockSeen := x.unlockSeen || x.state == 2#2, goodSince := if x.state = 1#2 then y.goodSince else none }
    let present (on : Bool) (y : TimePart) : TimePart := { y with
      trefPresent := if source = 1 ∨ source = 3 then on else y.trefPresent, pulsePresent := if source = 1 then on else y.pulsePresent,
      ptpPresent := if 2 ≤ source then on else y.ptpPresent }
    let stepped (p : Nat) (d : Dev) : Dev := { d with
      time := { d.time with phase := BitVec.ofNat 48 p, stepSeen := true, slew := 0 },
      candle := { d.candle with streams := d.candle.streams.map fun st =>
        if (p + 2 ^ 48 - x.phase.toNat) % 2 ^ 48 < 2 ^ 47 ∧ (st.state = 2#2 ∨ st.state = 3#2)
        then { st with stepped := some (x.phase.toNat, p % 2 ^ 48) } else st } }
    let measured (ns : Int) (p : Nat) (d : Dev) : Dev :=
      let lockNs := if source = 1 then 200 else if source = 2 then 2000 else if source = 3 then 1000 else 0
      let d1 : Dev := { d with time := { d.time with
        phaseErr := BitVec.ofInt 16 (max (-32767) (min 32767 ns)),
        goodSince := if ns.natAbs ≤ lockNs then some (d.time.goodSince.getD s.dev.nowUs) else none } }
      if ns.natAbs ≤ 1000 * max 1 (cfg / 256 % 256) then { d1 with time := { d1.time with slew := ns } }
      else if p % 2 ^ 48 = x.phase.toNat then d1 else stepped p d1
    (s.dev.ready = false → (∀ v, exec (.timeCfgWrite v) s = .next s) ∧ ∀ v, exec (.timeRateWrite v) s = .next s) ∧
    (s.dev.ready = true → ∀ v : Word,
      (v &&& 0xF0#32 ≠ 0#32 → exec (.timeCfgWrite v) s = .next (s.onDev Dev.protoError)) ∧
      (v &&& 0xF0#32 = 0#32 →
        let changed := (v ^^^ x.cfg) &&& 0xFF00000F#32 ≠ 0#32
        let y : TimePart := { x with
          cfg := v, ptp := if (v ^^^ x.cfg) &&& 0xFF000000#32 ≠ 0#32 then {} else x.ptp, goodSince := if changed then none else x.goodSince }
        (valid x.rate.toNat (v.getLsbD 3) → exec (.timeCfgWrite v) s = becomes (rated (if changed then acquires y else y) x.rate.toNat)) ∧
        (¬ valid x.rate.toNat (v.getLsbD 3) → exec (.timeCfgWrite v) s = becomes { acquires y with rateErr := true })) ∧
      (v &&& 0xFC000000#32 ≠ 0#32 → exec (.timeRateWrite v) s = .next (s.onDev Dev.protoError)) ∧
      (v &&& 0xFC000000#32 = 0#32 →
        (valid v.toNat (x.cfg.getLsbD 3) → exec (.timeRateWrite v) s = becomes (rated { x with rate := v } v.toNat)) ∧
        (¬ valid v.toNat (x.cfg.getLsbD 3) → exec (.timeRateWrite v) s = becomes { acquires { x with rate := v } with rateErr := true }))) ∧
    (let locks : Prop := x.state = 1#2 ∧ source ≠ 0 ∧ valid x.rate.toNat (x.cfg.getLsbD 3) ∧ ∃ a, x.goodSince = some a ∧ a + 1000000 ≤ s.dev.nowUs
     let y : TimePart := { x with state := 2#2, lockedOnce := true, goodSince := none }
     let first : Prop := source = 1 ∧ x.cfg.getLsbD 3 = false ∧ x.lockedOnce = false ∧ 65536 ≤ x.phase.toNat
     (¬ locks → exec .timeLock s = .next s) ∧
     (locks → ¬ first → exec .timeLock s = becomes y) ∧
     (locks → first → exec .timeLock s = .next (s.onDev fun d => stepped (x.phase.toNat % 65536) { d.setEvent evTime with time := y }))) ∧
    (let held := cfg / 65536 % 256
     (x.state = 2#2 → exec .timeReferenceLoss s = becomes { present false x with
       state := if held = 0 then 0#2 else 3#2, unlockSeen := true, goodSince := none, holdTo := s.dev.nowUs + 1000000 * held }) ∧
     (x.state ≠ 2#2 → exec .timeReferenceLoss s = becomes (present false x))) ∧
    ((x.state = 3#2 → x.holdTo ≤ s.dev.nowUs → exec .holdoverExpiry s = becomes { x with state := 0#2, goodSince := none }) ∧
     (x.state ≠ 3#2 ∨ s.dev.nowUs < x.holdTo → exec .holdoverExpiry s = .next s)) ∧
    ((source = 0 → exec .timeReferenceReturn s = .next s) ∧
     (source ≠ 0 →
       (x.state = 3#2 → exec .timeReferenceReturn s = becomes { present true x with state := 2#2, goodSince := none }) ∧
       (x.state = 0#2 → exec .timeReferenceReturn s = becomes { present true x with state := 1#2, goodSince := none }) ∧
       (x.state ≠ 3#2 → x.state ≠ 0#2 → exec .timeReferenceReturn s = becomes (present true x)))) ∧
    (∀ (ns : Int) (inLimits : Bool),
      let taken : Prop := source = 1 ∧ inLimits = true ∧ (x.state = 1#2 ∨ ns.natAbs ≤ 1000)
      (¬ taken → exec (.tpulseEdge ns inLimits) s = .next s) ∧
      (taken → exec (.tpulseEdge ns inLimits) s = .next (s.onDev fun d =>
        measured ns ((x.phase.toNat + 32768) / 65536 * 65536) { d with time := { x with pulsePresent := true } }))) ∧
    (let open_ : Prop := s.dev.pins.ethPhyRstN = true ∧ s.dev.ready = true ∧ s.dev.start.skips.getLsbD 18 = false
     let follows (id : Nat) : Prop := ∃ m, x.ptp.master = some m ∧ m.identity = id
     let withPtp (f : Ptp → Ptp) (d : Dev) : Dev := { d with time := { d.time with ptp := f d.time.ptp } }
     let sync (origin arrival found : Nat) (d : Dev) : Dev :=
       let delay : Int := ((arrival : Int) - origin + x.ptp.slaveToMaster) / 2
       let want := ((((origin : Int) + delay) * (x.num * 65536) / (max 1 x.den * 1000000000)) % (2 ^ 48 : Int)).toNat
       let diff := ofTwos 48 ((want + 2 ^ 48 - found) % 2 ^ 48)
       let ns := diff * (x.den * 1000000000) / (max 1 x.num * 65536)
       let d1 := withPtp (fun p => { p with syncArrival := none }) d
       if source < 2 then d1 else measured ns (((x.phase.toNat : Int) + diff) % (2 ^ 48 : Int)).toNat d1
     (¬ open_ → ∀ m, exec (.ptpMessage m) s = .next s) ∧
     (open_ →
       (∀ (domain : Nat) (m : PtpMaster),
         (domain = min 127 (cfg / 16777216) → ∃ p : Ptp,
           exec (.ptpMessage (.announce domain m)) s = .next (s.onDev fun d => { d with time := { x with ptpPresent := true, ptp := p } }) ∧
           p.heard = x.ptp.heard.filter (fun y => y.identity != m.identity) ++ [m] ∧
           (∃ best ∈ p.heard, p.master = some best ∧ ∀ y ∈ p.heard, best.better y = true) ∧
           (p.master.map (·.identity) = x.ptp.master.map (·.identity) →
             p = { x.ptp with heard := p.heard, master := p.master }) ∧
           (p.master.map (·.identity) ≠ x.ptp.master.map (·.identity) →
             p = { x.ptp with heard := p.heard, master := p.master, syncArrival := none })) ∧
         (domain ≠ min 127 (cfg / 16777216) → exec (.ptpMessage (.announce domain m)) s = .next s)) ∧
       (∀ id origin arrival : Nat,
         (follows id →
           exec (.ptpMessage (.sync id origin arrival true)) s = .next (s.onDev fun d =>
             withPtp (fun p => { p with syncArrival := some arrival, syncPhase := x.phase.toNat }) { d with out := .ptpDelayReq :: d.out }) ∧
           exec (.ptpMessage (.sync id origin arrival false)) s =
             .next (s.onDev fun d => sync origin arrival x.phase.toNat { d with out := .ptpDelayReq :: d.out }) ∧
           (∀ a, x.ptp.syncArrival = some a →
             exec (.ptpMessage (.followUp id origin)) s = .next (s.onDev (sync origin a x.ptp.syncPhase))) ∧
           (x.ptp.syncArrival = none → exec (.ptpMessage (.followUp id origin)) s = .next s) ∧
           ∀ sent received : Nat, exec (.ptpMessage (.delayResp id sent received)) s =
             .next (s.onDev (withPtp fun p => { p with slaveToMaster := (received : Int) - sent }))) ∧
         (¬ follows id → ∀ m ∈ [PtpMsg.sync id origin arrival true, .sync id origin arrival false, .followUp id origin,
           .delayResp id origin arrival], exec (.ptpMessage m) s = .next s))))

-- Executions (R53 to R62, R90 to R98, R110, R226, R304)

/-- R226: a move brings an operand of a tile's next execution into its buffer, once, and one that meets a poisoned word stops the launch.
R53, R91: an execution starts on a free tile, in order, with every operand there; the launch takes its policy, other launches' groups are
saved and its own restored. R59: a residue failure repeats the execution and keeps nothing. R55: a detector that fires repeats it at the next
format; otherwise it is accepted: it adds to its groups, and at a close they leave the tile and their results are written. R98: a chain's
member adds its own partial to the sum before it. -/
def Obligations.TileExecutionsRun : Prop :=
  (∀ (d : Dev) (id kernel : Nat) (e : ExecDone) (l : Launch), d.launchOf id = some l → l.job = none →
    ∃ l' : Launch, (d.execDone id e kernel).launchOf id = some l' ∧ l'.done = l.done ++ [e] ∧ l'.phase = l.phase ∧
      (d.execDone id e kernel).mem = d.mem ∧ (d.execDone id e kernel).kilns = d.kilns) ∧
  (∀ (d : Dev) (k : Fin 12), (d.kiln k).halted = false → (∀ l ∈ d.launches, l.phase ≠ .preempting) →
    (∀ c ∈ d.link.cmds, ∀ t, c.phase ≠ .after t) → (d.haltSave k).preemptSettle = d) ∧
  ∀ (k : Fin 12) (t : Fin 16) (launch : Nat) (s : State),
    let x := s.dev.tile k t
    (∀ (ix : Nat) (side : Fin 3),
      (x.readyFor launch ix side.val ≠ none → exec (.tileReadyMove k t launch ix side) s = .next s) ∧
      ∀ l im, s.dev.launchOf launch = some l → s.dev.imageOf l = some im →
        (l.phase ≠ .running → exec (.tileReadyMove k t launch ix side) s = .next s) ∧
        (∀ y j d1, l.phase = .running → s.dev.running = true → s.dev.fillable l im k t = some (ix, y) → x.running = none →
          x.readyFor launch ix side.val = none → jobOf im l y = some j → s.dev.gate l (im.layerOf y) = some d1 → side.val ∈ j.sides →
          j.sideBuf side.val ∉ l.slips →
          let r := d1.operandOf j side.val
          let d2 := if im.stageBytes j.k = 0 then d1.readOut false r.2 else (d1.readOut false r.2).scratchTouched k l.handle
          (d1.mem.struckIn r.2 = none → exec (.tileReadyMove k t launch ix side) s = .next (s.onDev fun _ =>
            d2.modTile k t fun z => { z with ready := z.ready ++ [{ launch := launch, ix := ix, side := side.val, op := r.1 }] })) ∧
          (∀ a, d1.mem.struckIn r.2 = some a → exec (.tileReadyMove k t launch ix side) s = .next (s.onDev fun _ => d1.launchStruck launch a))) ∧
        (∀ y j d1 st m, l.phase = .running → s.dev.running = true → s.dev.fillable l im k t = some (ix, y) → x.running = none →
          x.readyFor launch ix side.val = none → jobOf im l y = some j → s.dev.gate l (im.layerOf y) = some d1 → side.val ∈ j.sides →
          j.sideBuf side.val ∈ l.slips → d1.findStream k launch y.kernel (j.sideBuf side.val) y.unit = some st → st.struck = none →
          (d1.slipMoves { l := l, im := im, kernel := y.kernel, k := j.k, buf := j.sideBuf side.val } y.unit).1.find?
            (fun m => m.ix == ix && m.side == side.val) = some m →
          (∀ q ∈ j.sides, q < side.val → j.sideBuf q ≠ j.sideBuf side.val) →
          (m.first < st.pos → exec (.tileReadyMove k t launch ix side) s = .next (s.onDev fun _ => d1.slipRestart k st m.first m.len)) ∧
          (st.pos ≤ m.first →
            let st1 := st.await m.first m.len
            (slipOperand j side.val st1.ready = none → exec (.tileReadyMove k t launch ix side) s = .next (s.onDev fun _ =>
              let d2 := d1.putStream k st1
              if st.entry.kind = 1 then d2.setSlip k { d2.slip k with frStallSeen := true } else d2)) ∧
            (∀ r, slipOperand j side.val st1.ready = some r → exec (.tileReadyMove k t launch ix side) s = .next (s.onDev fun _ =>
              (d1.putStream k (st1.take r.2)).modTile k t fun z =>
                { z with ready := z.ready ++ [{ launch := launch, ix := ix, side := side.val, op := r.1 }] }))))) ∧
    (s.dev.startable k t launch = none → exec (.tileExecutionStart k t launch) s = .next s) ∧
    (∀ l j ix d0, s.dev.startable k t launch = some (l, j, ix, d0) → ∃ e : State, exec (.tileExecutionStart k t launch) s = .next e ∧
      e = { s with dev := { d0 with
        launches := e.dev.launches, kilns := e.dev.kilns, mem := e.dev.mem, ctrs := { s.dev.ctrs with blocks := e.dev.ctrs.blocks } } } ∧
      (l.slips = [] → d0 = { s.dev with launches := d0.launches }) ∧
      l.phase = .running ∧ s.dev.running = true ∧ (s.dev.kiln k).halted = false ∧ x.running = none ∧
      (∀ side ∈ j.sides, (x.readyFor launch ix side).isSome = true) ∧
      (∃ r : Running, (e.dev.tile k t).running = some r ∧ r.launch = launch ∧ r.ix = ix ∧ r.rung = 0 ∧ r.repeating = false) ∧
      (e.dev.tile k t).groups = x.groups.map (fun g => { g with saved := g.launch != launch }) ++ j.opens x launch (x.readyFor launch ix 2) ∧
      (e.dev.tile k t).ready = x.ready ∧
      (let same (t' : Fin 16) : Prop := (s.dev.kiln k).server t'.val = (s.dev.kiln k).server t.val
       (∀ k' t', (k', t') ≠ (k, t) → e.dev.tile k' t' =
          { s.dev.tile k' t' with turn := (e.dev.tile k' t').turn, groups := (e.dev.tile k' t').groups } ∧
          (k' = k → same t' → (e.dev.tile k t').groups = (s.dev.tile k t').groups.map fun g => { g with saved := true }) ∧
          ((k' ≠ k ∨ ¬ same t') → (e.dev.tile k' t').groups = (s.dev.tile k' t').groups)) ∧
       ((∀ g ∈ x.groups, g.launch = launch ∨ g.saved = true) →
        (∀ t', t' ≠ t → same t' → ∀ g ∈ (s.dev.tile k t').groups, g.saved = true) →
        (∀ q ∈ (s.dev.kiln k).pipes, q.2.launch = launch ∨ q.2.saved = true ∨ (s.dev.kiln k).rowsIn t q.1 = false) →
        e.dev.mem = s.dev.mem)) ∧
      ∃ l' : Launch, e.dev.launchOf launch = some l' ∧ l' = { l with uses := l'.uses, policy := some (l.policy.getD s.dev.num) }) ∧
    (let ends (fail : Bool) (P : Dev → Prop) : Prop := ∃ e : Dev,
       exec (.tileExecutionEnd k t fail) s = .next (s.onDev fun _ => (e.haltSave k).preemptSettle) ∧ P e
     (x.running = none → ∀ fail, ends fail fun e => e = s.dev) ∧
     ∀ (r : Running) (l : Launch), x.running = some r → s.dev.launchOf r.launch = some l →
      ∀ (im : Image) (y : Exec) (j : TileJob), l.mayEnd = true → s.dev.imageOf l = some im →
        (s.dev.scheduleOf l)[r.ix]? = some y → jobOf im l y = some j →
        (∀ q : PhysTile, (s.dev.kiln k).phys[x.phys]? = some q → (recent s.dev.nowUs q.events).length < 3 →
          ends true fun e =>
            e = { s.dev with kilns := e.kilns, ctrs := { s.dev.ctrs with blocks := e.ctrs.blocks }, freeCtr := e.freeCtr } ∧
            e.tile k t = { x with running := some { r with repeating := true }, residueFails := min 255 (x.residueFails + 1) }) ∧
        (let pol := l.policy.getD s.dev.num
         let fmts := j.im.fmtsFrom j.k (l.reference pol) r.start
         let fmt := fmts.getD r.rung .fp32
         let seg := l.segAt r.ix
         let o := j.run pol (l.reference pol) fmt x l.id r.ix seg
         let kept := x.groups.filter fun g => !(j.groupsOn x l.id).contains g
         j.im.startOf pol (l.reference pol) (s.dev.execHere j.im) (s.dev.scheduleOf l) l.done r.ix = some r.start →
         (∀ f2, fmts[r.rung + 1]? = some f2 → o.det ≠ 0 → pol.widen = true → ends false fun e =>
           e = { s.dev with kilns := e.kilns, ctrs := { s.dev.ctrs with blocks := e.ctrs.blocks }, freeCtr := e.freeCtr } ∧
           e.tile k t = { x with running := some { r with rung := r.rung + 1, repeating := true, fmtCode := execFormatCode f2 } } ∧
           (e.kiln k).trouble &&& BitVec.ofNat 7 (o.det + 16) = BitVec.ofNat 7 (o.det + 16)) ∧
         ((fmts[r.rung + 1]? = none ∨ o.det = 0 ∨ pol.widen = false) →
          (l.dropsResults = true → ends false fun e => e.mem = s.dev.mem ∧ (e.tile k t).running = none ∧
            (e.tile k t).groups = x.groups.filter (fun g => g.launch != l.id) ∧ ∃ l' : Launch, e.launchOf l.id = some l' ∧ l'.done = l.done) ∧
          (l.dropsResults = false → seg + 1 < j.segs (l.reference pol) → ends false fun e => e.mem = s.dev.mem ∧
            (e.tile k t).running = none ∧ (e.tile k t).groups = kept ++ o.groups ∧ (e.tile k t).ready = x.ready ∧
            ∃ l' : Launch, e.launchOf l.id = some l' ∧ l'.done = l.done ∧ l'.segAt r.ix = seg + 1) ∧
          (l.dropsResults = false → j.segs (l.reference pol) ≤ seg + 1 → ∃ e : Dev,
           exec (.tileExecutionEnd k t false) s = .next (s.onDev fun _ =>
             ((e.execDone l.id { ix := r.ix, code := execFormatCode fmt, wide := decide (execFormatCode j.k.mark < execFormatCode fmt),
                                 escalated := j.k.escalates r.start } y.kernel).haltSave k).preemptSettle) ∧
           ((s.dev.addsLater l j.im r.ix j.x = true → (e.tile k t).running = none ∧ (e.tile k t).groups = kept ++ o.groups ∧ e.mem = s.dev.mem) ∧
            (s.dev.addsLater l j.im r.ix j.x = false → j.im.memberOf j.x = none → ∃ d3 : Dev,
              d3.mem = s.dev.mem ∧ d3.num = s.dev.num ∧ d3.cx = s.dev.cx ∧
              (let rows := regionRows j.ab.1 j.ab.2 ((o.groups.map (·.acc)).map (closeGroup j.scale.1 j.scale.2))
               let out := d3.rowsOut (s.dev.writer pol l.seed (16 * k.val + t.val)) j.place j.k.bufOut j.col0 j.row0 0 (j.ab.2 * j.blk.2) rows
               (e.tile k t).running = none ∧ (e.tile k t).groups = kept ∧ e.mem = (d3.storeOut false out.1).mem))))))) ∧
    (∀ (run seg : Nat) (l : Launch) (im : Image) (c : ChainRun) (kn : Kernel) (ch : Chain) (i : Nat) (own : List (List Word)) (got : List Word),
      s.dev.launchOf launch = some l → s.dev.imageOf l = some im → l.chains[run]? = some c → im.kernels[c.kernel]? = some kn →
      im.chains[kn.chain]? = some ch → kn.kind = 0 → l.chainsRun = true → c.written = false → ch.scope = 0 → (∀ m ∈ ch.members, m.rank = 0) →
      1 ≤ i → i + 1 < ch.members.length → (c.partials.find? fun p => p.1 == i) = some (i, own) → seg < segsOf own → c.sumAt i seg = none →
      (∀ q, q < seg → (c.sumAt i q).isSome = true) → c.sumAt (i - 1) seg = some got →
      (∀ i', 1 ≤ i' → i' < i → (c.sumAt i' seg).isSome = true) →
      let c' : ChainRun := { c with sums := c.sums ++ [(i, seg, chainAdd got (segment own seg))] }
      c'.over ch 0 = false →
      exec (.chainSegmentArrive launch run seg) s = .next (s.onDev fun d => d.modLaunch launch (Launch.putChain c')))

/-- R146 to R162: a pipeline runs the next part of its query block; a residue failure repeats it, a detector that fires widens it, and
otherwise its rows are kept for the next part, or joined at the last. R110, R199: a vector unit carries out a kernel's operations on up to 256
rows; one register-file error repeats them and a second ends the launch. R304: an engine writes EXEC_POS output positions, or repeats after a
residue failure. -/
def Obligations.PipelinesUnitsAndEnginesRun : Prop :=
  ∀ (launch : Nat) (s : State) (l : Launch) (im : Image),
    let pol := l.policy.getD s.dev.num
    (∀ (k : Fin 12) (p : Fin 8),
      let run (fail : Bool) := exec (.pipelineExecutionEnd k p launch fail) s
      (s.dev.mayRun launch (.pipe k.val p.val) = none → ∀ fail, run fail = .next s) ∧
      ∀ (n : Nat) (y : Exec) (j : AttnJob) (lp : Nat) (st0 : PipeSt) (dg : Dev),
        s.dev.mayRun launch (.pipe k.val p.val) = some (l, im) → s.dev.pipeFree l k p = true →
        s.dev.pipeTake l im k p = some (n, y, j, lp, st0) → s.dev.gate l (im.layerOf y) = some dg →
        let st : PipeSt := { st0 with saved := false }
        let d0 := (dg.takePolicy launch).pipeSaves k p launch lp
        let others := (d0.kiln k).pipes.filter fun q => !(q.1 == lp && q.2.launch == launch)
        let part := j.runs.getD st.part [[]]
        let visits := part.getD y.pos.2.2 []
        (∀ a, s.dev.mem.struckIn (s.dev.attnReads j visits) = some a → ∀ fail,
          run fail = .next (s.onDev fun _ => (d0.setPipe k lp launch none).launchStruck launch a)) ∧
        (s.dev.mem.struckIn (s.dev.attnReads j visits) = none →
          run true = .next (s.onDev fun _ => (d0.setPipe k lp launch (some { st with repeating := true })).pipeResidue k p) ∧
          ∀ start, im.startOf pol (l.reference pol) (s.dev.execHere im) (s.dev.scheduleOf l) l.done n = some start →
            let rung := if start = st.start then st.rung else 0
            let forms := im.formsFrom j.k j.pat.pBf16 (l.reference pol) start
            let marked := (im.formsFrom j.k j.pat.pBf16 (l.reference pol) 0).headD (.bf16, true)
            let form := forms.getD rung (.bf16, true)
            let o := s.dev.attnRun j pol (l.reference pol) form.1 form.2 visits st.rows
            let det := detectors pol o.sat o.flush o.folds o.nanInf
            (det ≠ 0 → pol.widen = true → rung + 1 < forms.length → ∃ t : State, run false = .next t ∧
              (t.dev.kiln k).pipes = others ++ [(lp, { st with rung := rung + 1, start := start, repeating := true })] ∧
              t.dev.mem = d0.mem ∧ t.dev.link = s.dev.link ∧ t.rings = s.rings ∧ t.pending = s.pending ∧
              ∃ l' : Launch, t.dev.launchOf launch = some l' ∧ l'.done = l.done) ∧
            ((det = 0 ∨ pol.widen = false ∨ forms.length ≤ rung + 1) → ∃ e : Dev,
              run false = .next (s.onDev fun _ => e.execDone launch
                { ix := n, code := execFormatCode form.1, wide := form != marked, escalated := forms.headD marked != marked } y.kernel) ∧
              (y.pos.2.2 + 1 < part.length → e.mem = d0.mem ∧
                (e.kiln k).pipes = others ++ [(lp, { st with rows := o.rows, rung := 0, start := 0, repeating := false })]) ∧
              (part.length ≤ y.pos.2.2 + 1 → (e.kiln k).pipes = others)))) ∧
    (∀ (die : Fin 14) (u : Fin 2) (ix : Nat),
      let run (fails : Nat) := exec (.vectorExecutionEnd die u launch ix fails) s
      (s.dev.mayRun launch (.vec die.val u.val) = none → ∀ fails, run fails = .next s) ∧
      ∀ (y : Exec) (kn : Kernel) (e : Entry) (dg : Dev), s.dev.mayRun launch (.vec die.val u.val) = some (l, im) →
        (∀ q : Kiln, s.dev.kilns[die.val]? = some q → q.halted = false) →
        (s.dev.workAt l im (.vec die.val u.val)).head? = some (ix, y) → im.kernelOf y = some kn → l.entries[y.entry]? = some e →
        s.dev.gate l (im.layerOf y) = some dg →
        let sp := im.vecSpan kn e.m e.n e.k y.pos
        let rows := (List.range sp.2.1).map (· + sp.1)
        let w := placeOf im kn e y.head
        let kind := dieCode (if die.val < 12 then dieIx die.val else dieIx (die.val + 4))
        let d1 := dg.takePolicy launch
        let go (d0 : Dev) : Except Nat Dev :=
          if y.pos.2.1 + 1 < y.pos.2.2 then d0.vecPart w sp.2.2 sp.1 (im.opsOf kn)
          else Dev.vecSteps l pol w y.kernel kn (im.rowPart kn e.n e.k) sp.2.2 rows 0 (im.opsOf kn) d0
        let last (d2 : Dev) : List Word :=
          match (im.opsOf kn).getLast?, rows.getLast? with | some o, some r => d2.wordRow w o.src0 e.n r | _, _ => []
        let held (d2 : Dev) : Dev := d2.modVec die u fun z => { z with file := fileOf (last d2) z.file }
        (∀ a, go d1 = .error a → run 0 = .next (s.onDev fun _ => d1.launchStruck launch a)) ∧
        (∀ d2, go d1 = .ok d2 → ∃ t : Dev, run 0 = .next (s.onDev fun _ => t.execDone launch { ix := ix } y.kernel) ∧
          t = { held d2 with ctrs := { d2.ctrs with blocks := t.ctrs.blocks } }) ∧
        (∀ d2, go ((d1.logUe 0 kind 8 false).vecEvent die u) = .ok d2 → ∃ t : Dev,
          run 1 = .next (s.onDev fun _ => t.execDone launch { ix := ix } y.kernel) ∧ t = { held d2 with ctrs := { d2.ctrs with blocks := t.ctrs.blocks } }) ∧
        ∀ fails, 2 ≤ fails → ∃ t : State, run fails = .next t ∧ t.dev.repair.ue.valid = true ∧ t.dev.mem = s.dev.mem ∧ t.rings = s.rings ∧
          t.pending = s.pending ∧ ∃ l' : Launch, t.dev.launchOf launch = some l' ∧ l'.phase = .ending stUncorrectable ∧ l'.done = l.done) ∧
    (∀ (w : Fin 2) (ix : Nat),
      (s.dev.mayRun launch (.engine w.val) = none → ∀ fail, exec (.pixelExecutionEnd w launch ix fail) s = .next s) ∧
      ∀ (y : Exec) (kn : Kernel) (pr : PixelRec) (e : Entry) (dg : Dev), s.dev.mayRun launch (.engine w.val) = some (l, im) →
        (s.dev.workAt l im (.engine w.val)).head? = some (ix, y) → im.kernelOf y = some kn → im.pixel kn = some pr →
        l.entries[y.entry]? = some e → s.dev.gate l (im.layerOf y) = some dg → (s.dev.wheel w).engine.ok = true →
        let o := im.pixelOut kn e.m
        let lo := y.pos.1 * pr.execPos
        let ps := (List.range (min (lo + pr.execPos) (o.1 * o.2.1 * o.2.2) - lo)).map fun q => mapPos o.2.1 o.2.2 (lo + q)
        let rs := im.pixelRanges kn e pr ps
        exec (.pixelExecutionEnd w launch ix true) s =
          .next (s.onDev fun _ => ((dg.takePolicy launch).modWheel w fun z => { z with residueSeen := true }).engineEvent w) ∧
        (∀ a, s.dev.mem.struckIn rs = some a → exec (.pixelExecutionEnd w launch ix false) s =
          .next (s.onDev fun _ => (dg.takePolicy launch).launchStruck launch a)) ∧
        (s.dev.mem.struckIn rs = none → ∃ t : Dev,
          exec (.pixelExecutionEnd w launch ix false) s = .next (s.onDev fun _ => t.execDone launch { ix := ix } y.kernel) ∧
          t.mem = (((dg.takePolicy launch).readOut false rs).each (ps.map fun q => s.dev.rowOut (s.dev.vecWriter l pol)
            { im := im, e := e, layer := kn.layer, head := q.1, d2 := q.2.1 } kn.bufOut 0 q.2.2 0 (s.dev.pixelRow im kn e pr q)) fun x d =>
              d.putResults false launch x).mem ∧
          t.kilns = dg.kilns ∧ t.fabric = s.dev.fabric))

-- Repair in service (R17, R505 to R517)

/-- R17: a mesh transfer that exhausts its retries ends its issuer with ST_UNCORRECTABLE and is logged. R505, R511: the scrubber keeps a word
it corrected once and repairs its row when it corrects it again; an uncorrectable word is poisoned, logged, and its row repaired, or, with no
spare, its slot retired. R511: a lane that carried the corrected bit
in 64 codewords takes a spare of its group, while one is left, or stays in use. R517: the oldest repair not yet recorded is written with the next version, in the other
area after a snapshot where the active one is full. -/
def Obligations.ScrubbingRepairsAndRecords : Prop :=
  ∀ s : State,
    let rp := s.dev.repair
    (let logged (struck : Bool) (u : UeLog) : Prop := if rp.ue.valid then u = { rp.ue with multiple := true }
       else u.where_ = 9#4 ∧ u.struck = struck ∧ u.multiple = false ∧ u.valid = true
     let lost (u : UeLog) (d : Dev) : Dev := { d with freeCtr := d.freeCtr + 2, repair := { d.repair with ue := u } }
     (∀ (id : Nat) (l : Launch), s.dev.launchOf id = some l →
       (l.phase ≠ .ended → ∃ u, logged true u ∧
         exec (.meshRetryExhausted (.launch id)) s = .next (s.act fun d => (lost u d).stopLaunch id stUncorrectable)) ∧
       (l.phase = .ended → exec (.meshRetryExhausted (.launch id)) s = .next (s.act fun d => d))) ∧
     (∀ (tag : Tag) (c : Cmd), s.dev.tagHolder tag = some c → s.dev.cmd c.id = some c →
       (c.phase = .waiting → c.pkt.opcode ≠ 0x81#8 → (∀ j ∈ s.dev.media.jobs, j.owner ≠ .cmd c.id) → ∃ u, logged true u ∧ exec (.meshRetryExhausted (.command tag)) s =
         .next (s.act fun d => (lost u d).replied c.id stUncorrectable (vals 0 0 0))) ∧
       (c.phase = .running → c.pkt.opcode = 0x12#8 ∨ c.pkt.opcode = 0x13#8 → (∀ j ∈ s.dev.media.jobs, j.owner ≠ .cmd c.id) → ∃ u, logged true u ∧ exec (.meshRetryExhausted (.command tag)) s =
         .next (s.act fun d => (lost u d).each (s.dev.launchesOf c.id) fun l d => d.stopLaunch l.id stUncorrectable)) ∧
       (c.phase = .done ∨ c.phase = .refused → exec (.meshRetryExhausted (.command tag)) s = .next (s.act fun d => d))) ∧
     (∀ (id : Nat) (j : MediaJob), s.dev.mediaJob id = some j → ∃ u, logged true u ∧
       ∃ e : Dev, exec (.meshRetryExhausted (.media id)) s = .next (s.act fun _ => e) ∧ e.mediaJob id = none ∧ e.repair.ue = u ∧
         ∀ c : Cmd, j.owner = .cmd c.id → s.dev.cmd c.id = some c → c.phase ≠ .done →
           ∃ y : Cmd, e.cmd c.id = some y ∧ y.phase = .done ∧ y.reply.status = stUncorrectable) ∧
     (∃ u, logged true u ∧ exec (.meshRetryExhausted .atomic) s = .next (s.act fun d =>
       let e := lost u d
       { e with out := .atomicResult stUncorrectable none :: e.out })) ∧
     ∃ u, logged false u ∧ let free (d : Dev) : Dev := (lost u d).setEvent evUncorrectable
       exec (.meshRetryExhausted .hostRead) s = .next (s.act fun d => { free d with out := .readData [] true :: .aer .poisonedRead :: (free d).out }) ∧
       exec (.meshRetryExhausted .hostWrite) s = .next (s.act free) ∧ exec (.meshRetryExhausted .scrubber) s = .next (s.act free) ∧
       ∀ a, exec (.meshRetryExhausted (.move a)) s = .next (s.act fun d => { free d with mem := d.mem.setPoison a })) ∧
    (∀ r : ScrubRead,
      let n := ((List.finRange 80).filter fun i : Fin 80 => r.upset.getLsbD i.val).length
      let period := if r.where_ = 1 ∨ r.where_ = 2 then rp.scrubCfg.toNat % 256 else rp.scrubCfg.toNat / 256 % 256
      let on : Prop := s.dev.running = true ∧ period ≠ 0 ∧ r.where_ ∈ [1, 2, 3, 4, 6, 7] ∧
        (r.where_ ≤ 4 → s.dev.whereOf r.location = r.where_ ∧ s.dev.daOk r.location 1 = true)
      let bad : Prop := r.where_ ≤ 4 ∧ s.dev.mem.poisoned r.location = true
      let key := (r.where_, r.unit, r.location)
      let slot := s.dev.slotOf r.location
      let row : Repair := if r.where_ = 1 then { kind := 6, unit := dieCode (dieIx (Fin.ofNat 24 slot.1).val / 2), element := (Fin.ofNat 24 slot.1).val, detail := r.row % 2 ^ 28 }
        else { kind := 5, unit := r.unit, element := if r.where_ = 3 then 1 else if r.where_ = 4 then 2 else if r.where_ = 7 then 3 else 4,
               detail := r.row % 2 ^ 24 }
      let spare : Prop := s.dev.sparesUsed row < row.poolSize
      let moved : Prop := r.where_ = 1 ∧ ¬ spare ∧ (48 - s.dev.tier.stackShare) * 512 ≤ slot.2
      let repaired (t : State) : Prop := ∃ l, t.dev.repair.unwritten = rp.unwritten ++ l ∧
        (r.where_ = 2 → l = [] ∧ t.dev.repair.spareOutSeen = rp.spareOutSeen) ∧
        (r.where_ ≠ 2 → t.dev.link.events.getLsbD evRepair = true ∧
          (spare → t.dev.repair.spareOutSeen = rp.spareOutSeen ∧ l.head? = some (row.bySpare (s.dev.sparesUsed row)) ∧
            t.dev.repair.spares.map (·.rep) = rp.spares.map (·.rep) ++ l ∧ (∀ x ∈ l.tail, r.where_ = 1 ∧ x.kind = 7 ∧ l.length = 2)) ∧
          (¬ spare → t.dev.repair.spareOutSeen = true ∧ t.dev.repair.spares = rp.spares ∧
            ∃ x, l = [x] ∧ x.kind = (if r.where_ = 1 then 9 else 5) ∧ (r.where_ = 1 → slot ∈ t.dev.repair.retired)))
      let link' (t : State) : Link := { s.dev.link with
        events := t.dev.link.events, msix := { s.dev.link.msix with pending := t.dev.link.msix.pending } }
      let frame (t : State) (m : Mem) : Prop :=
        (¬ moved → t = { s with dev := { s.dev with
          out := t.dev.out, freeCtr := t.dev.freeCtr, link := link' t, repair := t.dev.repair, mem := m,
          ctrs := { s.dev.ctrs with blocks := t.dev.ctrs.blocks } } }) ∧
        (moved → t = { s with dev := { s.dev with
          out := t.dev.out, freeCtr := t.dev.freeCtr, link := t.dev.link, repair := t.dev.repair, mem := t.dev.mem, tier := t.dev.tier,
          caches := t.dev.caches, cx := t.dev.cx, ctrs := { s.dev.ctrs with blocks := t.dev.ctrs.blocks } } })
      let lost (t : State) : Prop := repaired t ∧ t.dev.repair.ue.valid = true ∧ t.dev.link.events.getLsbD evUncorrectable = true ∧
        frame t (if r.where_ ≤ 4 then s.dev.mem.setPoison r.location else s.dev.mem)
      (¬ on → exec (.scrubTick r) s = .next s) ∧
      (on → ¬ bad → n = 0 → exec (.scrubTick r) s = .next s) ∧
      (on → ¬ bad → n = 1 ∨ n = 2 → key ∉ rp.corrected → ∃ t : State, exec (.scrubTick r) s = .next t ∧
        t = { s with dev := { s.dev with repair := { rp with corrected := rp.corrected ++ [key] },
                                         ctrs := { s.dev.ctrs with blocks := t.dev.ctrs.blocks } } }) ∧
      (on → ¬ bad → n = 1 ∨ n = 2 → key ∈ rp.corrected → ∃ t : State, exec (.scrubTick r) s = .next t ∧ repaired t ∧
        t.dev.repair.corrected = rp.corrected.filter (· != key) ∧ frame t s.dev.mem) ∧
      (on → bad ∨ n = 3 → ∃ t : State, exec (.scrubTick r) s = .next t ∧ lost t) ∧
      (on → ¬ bad → 3 < n → ∃ t : State, exec (.scrubTick r) s = .next t ∧ (lost t ∨ ∃ v,
        t = { s with dev := { s.dev with
          freeCtr := t.dev.freeCtr, mem := if r.where_ ≤ 4 then s.dev.mem.writeBytes (r.location / 8 * 8) (leBytes 8 v) else s.dev.mem } }))) ∧
    (∀ (stack : Fin 24) (group lane codewords : Nat),
      (s.dev.running = true → s.dev.stackOk stack.val = true → 64 ≤ codewords →
        let used := (rp.spares.filter fun u => u.rep.kind == 8 && u.rep.unit == stack.val / 2 && u.rep.element == stack.val && u.rep.detail % 256 == group % 256).length
        let x (spare : Nat) : Repair := { kind := 8, unit := stack.val / 2, element := stack.val, detail := group % 256 + lane % 128 * 256 + spare }
        exec (.laneRepair stack group lane codewords) s = .next (s.onDev fun d => { d.setEvent evRepair with repair :=
          if used < 2 then { rp with unwritten := rp.unwritten ++ [x 32768], spares := rp.spares ++ [{ rep := x 32768 }] }
          else { rp with unwritten := rp.unwritten ++ [x 0], spareOutSeen := true } })) ∧
      (¬ (s.dev.running = true ∧ s.dev.stackOk stack.val = true ∧ 64 ≤ codewords) → exec (.laneRepair stack group lane codewords) s = .next s)) ∧
    (let fl := s.dev.start.flash
     let now := s.dev.startMs
     (s.dev.ready = false ∨ rp.unwritten = [] → exec .ledgerRecordWrite s = .next s) ∧
     (s.dev.ready = true → ∀ r rest, rp.unwritten = r :: rest →
       let known : Prop := ∃ x ∈ rp.standing, x.rep.place = r.place
       let full : Prop := ¬ known ∧ r.undoes = false ∧ 60000 ≤ rp.standing.length
       let q : LedgerRec := { version := rp.ledgerVersion + 1, rep := r, start := s.dev.start.startNo, time := now }
       let standing' := rp.standing.filter (fun x => x.rep.place != r.place) ++ (if r.undoes then [] else [q])
       let area := fl.ledger.get rp.activeArea
       let fits : Prop := (∃ x ∈ area, x.rep.kind = 1) ∧ area.length < 65536
       let j : Fin 2 := if rp.activeArea = 0 then 1 else 0
       let putIn (i : Fin 2) (recs : List LedgerRec) (v : Nat) (st : List LedgerRec) (d : Dev) : Dev := { d with
         start := { d.start with flash := { fl with ledger := fl.ledger.set i recs } },
         repair := { rp with unwritten := rest, activeArea := i, ledgerVersion := v, standing := st } }
       (full → exec .ledgerRecordWrite s = .next (s.onDev fun d => { d with repair := { rp with unwritten := rest, ledgerFull := true } })) ∧
       (¬ full → fits → exec .ledgerRecordWrite s = .next (s.onDev (putIn rp.activeArea (area ++ [q]) q.version standing'))) ∧
       (¬ full → ¬ fits → ∃ again : List LedgerRec, again.map (·.rep) = standing'.map (·.rep) ∧
         again.map (·.version) = (List.range standing'.length).map (· + (q.version + 1)) ∧
         (∀ x ∈ again, x.start = s.dev.start.startNo ∧ x.time = now) ∧
         exec .ledgerRecordWrite s = .next (s.onDev (putIn j
           ({ q with rep := { kind := 1, unit := 0, element := 0, detail := again.length } } :: again) (q.version + again.length) again)))))

/-- R512: a core that stops is taken over by the spare, which raises the LAMPLIGHTER event; with no spare its commands end with
ST_UNCORRECTABLE, and with fewer than four cores the device is held. R513: what each element's failure leaves: a tile's place goes to a spare
or is unbound, a row stays in use, a slot is retired, a lane stays in use, a wavelength or engine leaves service, the launches of a sequencer or
controller end, a core, channel, or the whole device is out; each is recorded. -/
def Obligations.CoresAndElementsFail : Prop :=
  ∀ s : State,
    let rp := s.dev.repair
    let acts (i : Instr) (P : Dev → Prop) : Prop := ∃ e : Dev, exec i s = .next (s.act fun _ => e) ∧ P e
    let left := ((List.finRange 9).filter fun c : Fin 9 => (rp.lamps.get c).ok).length
    let stops (i : Instr) (c : Fin 9) : Prop :=
      let spare : Prop := (rp.lamps.get 8).spare = true ∧ rp.takeover = none
      let out (by_ : Nat) : Repair := { kind := 14, unit := dieCode hubDie, element := c.val, detail := by_ }
      ((rp.lamps.get c).ok = false → (rp.lamps.get c).spare = false → exec i s = .next (s.act fun d => d)) ∧
      ((rp.lamps.get c).ok = true → spare → 5 ≤ left → exec i s = .next (s.act fun d => { d with repair := { rp with
        lamps := rp.lamps.set c {}, unwritten := rp.unwritten ++ [out 8], takeover := some c } })) ∧
      ((rp.lamps.get c).ok = true → ¬ spare → acts i fun e =>
        e.repair.unwritten = rp.unwritten ++ [out 0xFF] ∧ e.repair.spareOutSeen = true ∧ e.repair.lamps = rp.lamps.set c {} ∧
        e.link.events.getLsbD evRepair = true ∧
        (5 ≤ left → (∀ x ∈ s.dev.link.cmds, x.core ≠ c.val) → e = { (s.dev.setEvent evRepair) with repair := e.repair }) ∧
        ∀ x : Cmd, x.core = c.val → s.dev.cmd x.id = some x → x.phase = .waiting → x.pkt.opcode ≠ 0x81#8 →
          (s.dev.link.cmds.map (·.id)).Nodup → ∃ y : Cmd, e.cmd x.id = some y ∧ y.phase = .done ∧ y.reply.status = stUncorrectable) ∧
      ((rp.lamps.get c).ok = true → left < 5 → acts i fun e => e.start.state = 2#3 ∧ (e.repair.lamps.get c).ok = false)
    (∀ c : Fin 9, stops (.lamplighterWatchdog c) c) ∧
    ((rp.takeover = none → exec .lamplighterTakeover s = .next (s.act fun d => d)) ∧
     ∀ c, rp.takeover = some c →
       let mine (x : Cmd) : Prop := x.core = c.val ∧ x.phase = .waiting ∧ x.pkt.cls = 0#2
       acts .lamplighterTakeover fun e => e.repair.takeover = none ∧ (∀ x ∈ e.link.cmds, c ≠ 8 → x.core ≠ c.val) ∧
         e.repair.lamps = rp.lamps.set 8 { ok := true, spare := false } ∧
         e.link.events.getLsbD evLamp = true ∧ e.link.events.getLsbD evRepair = true ∧ e.mem = s.dev.mem ∧
         ((∀ x ∈ s.dev.link.cmds, ¬ mine x) → e = { s.dev with
           out := e.out, freeCtr := s.dev.freeCtr + 1, repair := { rp with takeover := none, lamps := rp.lamps.set 8 { ok := true, spare := false } },
           link := { s.dev.link with
             cmds := s.dev.link.cmds.map (fun x => if x.core = c.val then { x with core := 8 } else x), events := e.link.events,
             msix := { s.dev.link.msix with pending := e.link.msix.pending } } })) ∧
    (s.dev.ready = false → ∀ x : Element, exec (.elementFailure x) s = .next (s.act fun d => d)) ∧
    (s.dev.ready = true →
      let fails (x : Element) := acts (.elementFailure x)
      let link' (e : Dev) : Link := { s.dev.link with events := e.link.events, msix := { s.dev.link.msix with pending := e.link.msix.pending } }
      let noted (r : Repair) (e : Dev) : Prop := e.repair.unwritten = rp.unwritten ++ [r] ∧ e.link.events.getLsbD evRepair = true
      let held (x : Element) (unit : Nat) : Prop := fails x fun e => e.start.state = 2#3 ∧
        noted { kind := 12, unit := dieCode hubDie, element := unit, detail := 1 } e ∧
        e = { s.dev with out := e.out, link := link' e, start := { s.dev.start with state := 2#3 },
                         repair := { rp with unwritten := e.repair.unwritten, unitOutSeen := true } }
      (∀ (k : Fin 12) (p : Fin 18), ((s.dev.kiln k).phys.get p).out = false → fails (.tile k p) fun e =>
        ((e.kiln k).phys.get p).out = true ∧ ((e.kiln k).phys.get p).spare = false ∧
        (∃ l, e.repair.unwritten = rp.unwritten ++ { kind := 3, unit := k.val, element := p.val, detail := ((s.dev.kiln k).phys.get p).quarantined } :: l) ∧
        e.link.events.getLsbD evRepair = true ∧
        (∀ t : Fin 16, (s.dev.tile k t).phys = p.val → (s.dev.tile k t).unbound = false →
          (e.tile k t).unbound = true ∨ ∃ q : Fin 18, (e.tile k t).phys = q.val ∧ ((s.dev.kiln k).phys.get q).spare = true ∧
            ((s.dev.kiln k).phys.get q).out = false ∧ q ≠ p) ∧
        (∀ t : Fin 16, (s.dev.tile k t).phys ≠ p.val → e.tile k t = s.dev.tile k t) ∧ ∀ k', k' ≠ k → e.kiln k' = s.dev.kiln k') ∧
      (let quiet (e : Dev) (r : RepairPart) : Prop := e.link.events.getLsbD evRepair = true ∧ e = { s.dev with out := e.out, link := link' e, repair := r }
       let takes (x : Repair) (e : Dev) : Prop :=
         let n := s.dev.sparesUsed x
         if n < x.poolSize then quiet e { rp with unwritten := rp.unwritten ++ [x.bySpare n], spares := rp.spares ++ [{ rep := x.bySpare n }] }
         else quiet e { rp with unwritten := rp.unwritten ++ [{ x with detail := x.detail + (if x.kind = 5 then 0xFF000000 else 0) }], spareOutSeen := true }
       (∀ w unit row : Nat, fails (.sramRow w unit row)
         (takes { kind := 5, unit := unit, element := if w = 3 then 1 else if w = 4 then 2 else if w = 7 then 3 else 4, detail := row % 2 ^ 24 })) ∧
       (∀ (stack : Fin 24) (group lane : Nat), fails (.bondLane stack group lane)
         (takes { kind := 8, unit := stack.val / 2, element := stack.val, detail := group % 256 + lane % 128 * 256 })) ∧
       ∀ (stack : Fin 24) (slot row : Nat),
         let x : Repair := { kind := 6, unit := dieCode (dieIx (stack.val / 2)), element := stack.val, detail := row % 2 ^ 28 }
         let first := (48 - s.dev.tier.stackShare) * 512
         fails (.dramRow stack slot row) fun e =>
           (s.dev.sparesUsed x < x.poolSize → takes x e) ∧
           (¬ s.dev.sparesUsed x < x.poolSize → (stack.val, slot) ∈ e.repair.retired ∧ e.repair.spareOutSeen = true ∧
             noted { kind := 9, unit := dieCode (dieIx (stack.val / 2)), element := stack.val, detail := slot % 32768 + (if first ≤ slot then 32768 else 0) } e ∧
             (slot < first → quiet e { rp with unwritten := e.repair.unwritten, spareOutSeen := true, retired := e.repair.retired }))) ∧
      (∀ (p : Fin 128) (w : Fin 9),
        ((s.dev.port p).trained = false → exec (.elementFailure (.wavelength p w)) s = .next (s.act fun d => d)) ∧
        ((s.dev.port p).trained = true → fails (.wavelength p w) fun e =>
          noted { kind := 10, unit := dieCode (lanternDie (portLantern p)), element := p.val, detail := w.val } e ∧
          (e.port p).good.getLsbD w.val = false ∧ ((s.dev.port p).lanes.getLsbD w.val = true → (e.port p).retraining = true) ∧
          ∀ q, q ≠ p → e.port q = s.dev.port q)) ∧
      (∀ (l : Fin 4) (n : Fin 34), (l.val, n.val) ∉ s.dev.fabric.engineOut → fails (.engine l n) fun e =>
        (l.val, n.val) ∈ e.fabric.engineOut ∧ { kind := 11, unit := dieCode (lanternDie l), element := n.val + 64 * l.val, detail := 1 } ∈ e.repair.unwritten ∧
        e.link.events.getLsbD evRepair = true ∧
        ∀ p, portLantern p = l → (s.dev.port p).engine = n.val → (s.dev.port p).trained = true →
          (∀ q, portLantern q = l → (s.dev.port q).engine = n.val → q = p) →
          (s.dev.spareEngine l = none → (e.port p).state = psFailed) ∧
          ∀ m, s.dev.spareEngine l = some m → (e.port p).engine = m ∧ (e.port p).state = psTraining) ∧
      (∀ c : Fin 9, stops (.elementFailure (.lamplighter c)) c) ∧
      (∀ i : Fin 14, fails (.sequencer i) fun e =>
        noted { kind := 12, unit := dieCode (dieIx (if i.val < 12 then i.val else i.val + 4)), element := 15, detail := 1 } e ∧
        i.val ∈ e.repair.seqFailed ∧ e.repair.unitOutSeen = true ∧
        e = { s.dev with out := e.out, link := link' e, launches := e.launches,
                         repair := { rp with unwritten := e.repair.unwritten, unitOutSeen := true, seqFailed := e.repair.seqFailed } }) ∧
      (∀ stack : Fin 24, fails (.dramController stack) fun e =>
        noted { kind := 12, unit := stack.val / 2, element := 16 + stack.val % 2, detail := 1 } e ∧ stack ∈ e.repair.stacksFailed ∧
        e = { s.dev with out := e.out, link := link' e, launches := e.launches,
                         repair := { rp with unwritten := e.repair.unwritten, unitOutSeen := true, stacksFailed := e.repair.stacksFailed } }) ∧
      (∀ (w : Fin 2) (i : Fin 4), (∀ j ∈ s.dev.media.jobs, j.started = false) → fails (.codecCore w i) fun e =>
        noted { kind := 12, unit := dieCode (wheelDie w), element := 2 + i.val, detail := 1 } e ∧
        e = { s.dev with out := e.out, link := link' e,
                         wheels := s.dev.wheels.set w { s.dev.wheels.get w with codecOk := (s.dev.wheels.get w).codecOk.set i false },
                         repair := { rp with unwritten := e.repair.unwritten, unitOutSeen := true } }) ∧
      (∀ (w : Fin 2) (i : Fin 4) (j : MediaJob), (s.dev.media.jobs.find? fun j => j.started && j.cores.contains i.val &&
          (s.dev.session j.session).any fun x => x.desc.wheel == w) = some j → ∃ e : Dev,
        exec (.elementFailure (.codecCore w i)) s = .next (s.act fun _ => e.unitFails j) ∧ (e.wheels.get w).codecOk.get i = false ∧
        noted { kind := 12, unit := dieCode (wheelDie w), element := 2 + i.val, detail := 1 } e ∧ e.media = s.dev.media) ∧
      (∀ c : Fin 12, s.dev.tier.chOk.getLsbD c.val = true → fails (.ddrChannel c) fun e =>
        noted { kind := 12, unit := dieCode crockDie, element := c.val, detail := 1 } e ∧
        ((List.finRange 12).filter fun x : Fin 12 => x < c && s.dev.tier.chOk.getLsbD x.val).length ∈ e.mem.dead ∧
        e = { s.dev with out := e.out, link := link' e, mem := { s.dev.mem with dead := e.mem.dead, deadWin := e.mem.deadWin },
                         repair := { rp with unwritten := e.repair.unwritten, unitOutSeen := true } }) ∧
      held .timeUnit 16 ∧ held .hostPort 17)

-- Start and reset (R386, R474 to R478, R507, R540)

/-- R474, R475: a step that ends well, or is skipped, writes its outcome, and the next begins with a STARTED record; after S24 the device is
ready, and in recovery mode after S08. R476: a step that fails writes its outcome and, by its policy, holds the device, waits, or lets it start
itself, at most 8 times. R507: what steps find stands: identity, cores, stages, dies, stacks, board memory, units, feeds, ports. -/
def Obligations.StartStepsRunInOrder : Prop :=
  ∀ s : State,
    let st := s.dev.start
    let n := st.step
    let now := s.dev.startMs
    let ended (outcome method consec : Nat) (f : Findings) : Sherd :=
      { start := st.startNo, step := n, outcome := outcome, method := method, consec := consec, detail := f.detail, unit := f.unit, time := now }
    let begun (k : Nat) : Sherd := { start := st.startNo, step := k, outcome := 0, time := now }
    let failures := st.flash.failures n st.startNo
    let passes (i : Instr) (m : Method) (f : Findings) : Prop :=
      let e := s.dev.stepEffect n m f
      let alt := m == .alternate || (m == .probe && !f.primaryOk)
      ∃ t : State, exec i s = .next t ∧ t = { s with dev := { e with start := t.dev.start } } ∧
        t.dev.start = { e.start with
          step := t.dev.start.step, state := t.dev.start.state, flash := { e.start.flash with sherds := t.dev.start.flash.sherds },
          alternates := if alt then e.start.alternates ||| BitVec.ofNat 24 (2 ^ (n - 1)) else e.start.alternates,
          skips := if m == .skip then e.start.skips ||| BitVec.ofNat 24 (2 ^ (n - 1)) else e.start.skips } ∧
        (let log := e.start.flash.sherds ++ [ended (if m == .skip then 4 else if alt then 2 else 1) (b2n alt) 0 f]
         (n = 24 → t.dev.start.state = 1#3 ∧ t.dev.start.step = 24 ∧ (e.start.flash.sherds.length < 131072 → t.dev.start.flash.sherds = log)) ∧
         (n ≠ 24 → ¬ (e.start.recovery = true ∧ n = 8) →
           let next := if e.start.recovery = true ∧ n = 3 then 5 else n + 1
           t.dev.start.step = next ∧ t.dev.start.state = 0#3 ∧
           (e.start.flash.sherds.length < 131071 → t.dev.start.flash.sherds = log ++ [begun next])) ∧
         (n = 8 → e.start.recovery = true → t.dev.start.state = 3#3 ∧ t.dev.start.step = 8))
    (¬ (st.started = true ∧ st.state = 0#3 ∧ st.selfStartDue = false) → ∀ ok f, exec (.startStepComplete ok f) s = .next s) ∧
    (st.started = true → st.state = 0#3 → st.selfStartDue = false → 1 ≤ n → ∀ (ok : Bool) (f : Findings),
      let m := s.dev.methodOf n
      let logged (r : Sherd) (state : BitVec 3) (due : Bool) : Prop := ∃ t : State, exec (.startStepComplete ok f) s = .next t ∧
        t = { s with dev := { s.dev with start := { st with flash := t.dev.start.flash, state := state, selfStartDue := due } } } ∧
        t.dev.start.flash = { st.flash with sherds := t.dev.start.flash.sherds } ∧ t.dev.start.flash.sherds.getLast? = some r
      (s.dev.mustHold n m f = true → logged (ended 5 (b2n (m == .alternate)) (failures + 1) f) 2#3 false) ∧
      (s.dev.mustHold n m f = false → (ok = true ∨ m = .skip) → passes (.startStepComplete ok f) m f) ∧
      (s.dev.mustHold n m f = false → ok = false → m ≠ .skip →
        let alt := b2n (m == .alternate || m == .probe)
        (policyAt n (failures + 1) = .hold → logged (ended 5 alt (failures + 1) f) 2#3 false) ∧
        (policyAt n (failures + 1) = .wait → logged (ended 6 alt (failures + 1) f) 4#3 false) ∧
        (policyAt n (failures + 1) ≠ .hold → policyAt n (failures + 1) ≠ .wait →
          (st.selfStarts < 8 → logged (ended 3 alt (failures + 1) f) 0#3 true) ∧
          (8 ≤ st.selfStarts → logged (ended 3 alt (failures + 1) f) 2#3 false)))) ∧
    (∀ inlet flow : Byte,
      let t0 : State := { s with dev := { s.dev with power := { s.dev.power with inlet := inlet, flow := flow } } }
      (st.state ≠ 4#3 → exec (.coolantRecheck inlet flow) s = .next s) ∧
      (st.state = 4#3 → (100 < inlet.toNat ∨ flow.toNat < 30) → exec (.coolantRecheck inlet flow) s = .next t0) ∧
      (st.state = 4#3 → inlet.toNat ≤ 100 → 30 ≤ flow.toNat → n = 7 → st.recovery = false →
        ∃ t : State, exec (.coolantRecheck inlet flow) s = .next t ∧
          t = { t0 with dev := { t0.dev with start := { st with flash := t.dev.start.flash, state := 0#3, step := 8 } } } ∧
          t.dev.start.flash = { st.flash with sherds := t.dev.start.flash.sherds } ∧
          (st.flash.sherds.length < 131071 → t.dev.start.flash.sherds = st.flash.sherds ++ [ended 1 0 0 {}, begun 8]))) ∧
    (∀ (m : Method) (f : Findings), m ≠ .skip →
      let e (k : Nat) := s.dev.stepEffect k m f
      let up (x : DieIx) : Bool := !st.diesOut.contains x
      ((e 2).start.identityOk = f.identity) ∧
      ((∀ c : Fin 9, c.val < 8 → ((e 5).repair.lamps.get c).ok = !f.lampsFailed.contains c) ∧
        ((e 5).repair.lamps.get 8).spare = (!f.lampsFailed.contains 8 && (f.lampsFailed.filter fun c => c.val < 8).isEmpty)) ∧
      ((e 6).power.stages = ~~~f.stagesFailed ∧ (e 6).pins.pwrGood = true) ∧ (e 8).start.diesOut = f.diesFailed ∧
      (∀ (k : Fin 12) (i : Fin 2), ((e 12).kilns.get k).stackOk.get i =
        (up (kilnDie k) && !(st.stacksOut ++ f.stacksFailed).contains (Fin.ofNat 24 (2 * k.val + i.val)))) ∧
      (up crockDie = true → m ≠ .alternate → m ≠ .probe → ∀ v vs, f.crock.ladder = v :: vs → (e 14).tier.speed = v ∧ (e 14).tier.fallback = false ∧
        (∀ c : Fin 12, (e 14).tier.chOk.getLsbD c.val = (f.crock.served.contains c.val && !f.crock.failed.getLsbD c.val)) ∧
        ∀ c ∈ f.crock.served, channelGib (f.crock.channel c) = (e 14).tier.channelGib ∧ ∀ y ∈ f.crock.channel c, y.listed = true ∧ v ∈ y.speeds) ∧
      (∀ a, s.dev.inCrock a 1 = true → s.dev.tier.crockShare = 0 → ∀ b, (a, b) ∉ (e 15).mem.cells) ∧
      (m ≠ .alternate → m ≠ .probe → (e 16).tier.units = (e 16).tier.stackUnits + (e 16).tier.crockUnits - (e 16).tier.reserve) ∧
      (∀ (w : Fin 2) (i : Fin 4), ((e 17).wheels.get w).codecOk.get i = (up (wheelDie w) && !f.codecsFailed.contains (w, i))) ∧
      (e 19).pins.ethPhyRstN = true ∧
      (∀ l : Fin 4, ∀ k : Fin 9, ((e 20).fabric.lasers.get l).aFailed.getLsbD k.val = f.feedsFailed.any fun x => x.1 == l && x.2.val == k.val) ∧
      (∀ p : Fin 128, (∀ x ∈ f.ports, x.port ≠ p) → ((e 21).fabric.ports.get p).state = psDark) ∧
      (∀ p : Fin 128, (s.dev.port p).state = psTraining → st.identityOk = true → f.authOk.contains p = true →
        ((e 22).fabric.ports.get p).state = if ((List.finRange 9).filter fun w : Fin 9 => (s.dev.port p).lanes.getLsbD w.val).length = 4 then psHalf else psUp))

/-- R540: PERST_N low for at least a microsecond, and R476: a device that starts itself, leave it with nothing but flash, the value kept for
HUB_UNIFIED_CFG and its pins. R474: a start begins when PERST_N is released with the input in range. R386: a Function Level Reset and a link
that goes down disable the rings, end every command without a reply, release what the host loaded, and keep memory, the firing and the ledger;
a fabric member leaves. Otherwise than in the running state the reset waits for it. -/
def Obligations.ResetsLeaveWhatTheyKeep : Prop :=
  ∀ s : State,
    let d := s.dev
    let dark (t : State) : Prop :=
      t.rings = {} ∧ t.pending = s.pending ∧ t.dev.link = {} ∧ t.dev.num = {} ∧ t.dev.progs = {} ∧ t.dev.launches = [] ∧ t.dev.cx = {} ∧
      t.dev.fn = {} ∧ t.dev.tier = { cfgKept := d.tier.cfgKept } ∧ t.dev.kilns = State.reset.dev.kilns ∧ t.dev.wheels = State.reset.dev.wheels ∧
      t.dev.media = {} ∧ t.dev.fabric = {} ∧ t.dev.coll = {} ∧ t.dev.time = {} ∧ t.dev.candle = {} ∧ t.dev.repair = {} ∧ t.dev.ctrs = {} ∧
      t.dev.nowUs = d.nowUs ∧ t.dev.out = d.out ∧ t.dev.mem.poison = [] ∧ (∀ x ∈ t.dev.mem.cells, 2 ^ 48 ≤ x.1) ∧
      t.dev.power.inputLossLatch = d.power.inputLossLatch ∧ t.dev.power.tripRecorded = d.power.tripRecorded ∧
      t.dev.pins = { d.pins with
        pwrGood := false, wakeN := true, sbAlertN := true, ethPhyRstN := false, i3c := false, powered := false, perstN := t.dev.pins.perstN,
        thermTripN := t.dev.pins.thermTripN }
    let flashKept (f : Flash) : Prop := f.areaA = d.start.flash.areaA ∧ f.areaB = d.start.flash.areaB ∧ f.ledger = d.start.flash.ledger ∧
      (d.commitSlot = none → f.slots = d.start.flash.slots) ∧
      ∀ k, d.commitSlot = some k → f.slots = d.start.flash.slots ∨ f.slots = d.start.flash.slots.set k { primary := [0#8] }
    let starts (f : Flash) (self : Nat) (x : StartPart) : Prop :=
      let no := maxNat (f.sherds.map (·.start)) + 1
      x = { flash := { f with sherds := x.flash.sherds }, selfStarts := self, startNo := no, beganUs := d.nowUs, started := true, step := 1, state := 0#3 } ∧
      x.flash.sherds.getLast? = some { start := no, step := 1, outcome := 0, time := 0 }
    (exec (.perstNAssert 0) s = .next s) ∧
    (∀ us, 1 ≤ us → ∃ t : State, exec (.perstNAssert us) s = .next t ∧ dark t ∧ t.dev.pins.perstN = false ∧ t.dev.pins.thermTripN = true ∧
      t.dev.power.tripLatch = false ∧ flashKept t.dev.start.flash ∧ t.dev.start.flash.sherds = d.start.flash.sherds ∧ t.dev.start = { flash := t.dev.start.flash }) ∧
    (∀ straps : BitVec 2,
      (d.pins.perstN = true → exec (.perstNRelease straps) s = .next s) ∧
      (d.pins.perstN = false →
        (d.pins.input = true → d.pins.thermTripN = true → ∃ t : State, exec (.perstNRelease straps) s = .next t ∧
          t = { s with dev := { d with pins := { d.pins with perstN := true, sbAddr := straps }, start := t.dev.start } } ∧
          starts d.start.flash 0 t.dev.start) ∧
        (¬ (d.pins.input = true ∧ d.pins.thermTripN = true) → exec (.perstNRelease straps) s =
          .next { s with dev := { d with pins := { d.pins with perstN := true, sbAddr := straps } } }))) ∧
    ((d.start.selfStartDue = false → exec .selfStart s = .next s) ∧
     (d.start.selfStartDue = true → ∃ t : State, exec .selfStart s = .next t ∧ dark t ∧ t.dev.pins.perstN = d.pins.perstN ∧
       t.dev.power.tripLast = d.power.tripLast ∧ flashKept t.dev.start.flash ∧
       starts { t.dev.start.flash with sherds := d.start.flash.sherds } (d.start.selfStarts + 1) t.dev.start)) ∧
    ∀ i ∈ [Instr.functionLevelReset, .linkDown],
      (¬ (d.pins.perstN = true ∧ (d.ready = true ∨ 1 < d.start.step)) → exec i s = .next s) ∧
      (d.pins.perstN = true → (d.ready = true ∨ 1 < d.start.step) →
        (d.power.state = 1#2 → exec i s = .next (s.onDev fun d => { d with power := { d.power with
          flrPending := true, pendingWake := some (d.power.pendingWake.getD 1#2) } })) ∧
        (d.power.state = 2#2 → exec i s = .next (s.onDev fun d => { d with power := { d.power with
          flrPending := true, state := 3#2, wakeSource := 1 } })) ∧
        (d.power.state = 3#2 → exec i s = .next (s.onDev fun d => { d with power := { d.power with flrPending := true } })) ∧
        (d.power.state = 0#2 → ∃ t : State, exec i s = .next t ∧ t.rings = {} ∧ t.pending = s.pending ∧
          t.dev.link.cmds = [] ∧ t.dev.link.replies = [] ∧ t.dev.link.eventEnable = 0#8 ∧ t.dev.link.msix = {} ∧ t.dev.link.protoErrors = 0#16 ∧
          t.dev.ctrs.debugMode = false ∧ (∀ k : Fin 12, (t.dev.kilns.get k).halted = false) ∧
          t.dev.cx.ctxs = [] ∧ (∀ p ∈ t.dev.cx.pools.toList, p.pool = none) ∧ t.dev.media.sessions = [] ∧ t.dev.tier.windows = [] ∧
          (∀ x ∈ t.dev.candle.streams.toList, x = {}) ∧ t.dev.coll.groups = [] ∧ t.dev.coll.jobs = [] ∧ t.dev.coll.ops = [] ∧
          t.dev.num = d.num ∧ t.dev.time = d.time ∧ t.dev.power = d.power ∧ t.dev.start.active = d.start.active ∧
          t.dev.repair = d.repair ∧ t.dev.start.flash.ledger = d.start.flash.ledger ∧ t.dev.start.staged = Vector.replicate 8 none ∧
          (∀ p ∈ t.dev.progs.programs, p.retiring = true ∧ ∃ l ∈ t.dev.launches, l.handle = p.handle) ∧
          (d.launches = [] → t.dev.launches = [] ∧ t.dev.mem = d.mem ∧ t.dev.progs.programs = []) ∧
          (d.fabric.state = 2#2 → t.dev.fabric.state = 3#2) ∧
          (d.commitSlot = none → d.launches = [] → d.fabric.state ≠ 2#2 →
            t.dev.link = { nextId := d.link.nextId + 1 } ∧ t.dev.start = { d.start with staged := Vector.replicate 8 none } ∧
            t.dev.out = d.out ∧ t.dev.wheels = d.wheels ∧ t.dev.pins = d.pins)))

-- Time, the rings' invariant, the saggar code (R417, R499, R500, R522)

/-- DESIGN CHOICE (log 7): where no command waits, a step is a microsecond. R522: CYCLE of every powered die counts its clock. R417,
R419: the phase advances at NUM / DEN frames of 65,536 a second, the fraction kept for the next one. Counters of waits may count;
nothing else changes. -/
def Obligations.TimePassesOnAnEmptyQueue : Prop :=
  ∀ s : State, s.pending = [] →
    ∃ t : State, step s = .next t ∧
      t = { s with dev := { s.dev with nowUs := s.dev.nowUs + 1, time := t.dev.time,
                                       ctrs := { s.dev.ctrs with blocks := t.dev.ctrs.blocks, bwLeft := s.dev.ctrs.bwLeft - 1 } } } ∧
      (∀ x : DieIx, (t.dev.ctrs.blocks.get x).cycle =
        (s.dev.ctrs.blocks.get x).cycle + (if s.dev.dieUp x = true then BitVec.ofNat 64 (100 * s.dev.dieClock x) else 0#64)) ∧
      (s.dev.timeRuns = false → t.dev.time = s.dev.time) ∧
      (s.dev.timeRuns = true → s.dev.time.slew = 0 → 0 < s.dev.time.den →
        let unit := s.dev.time.den * 1000000000
        let sum := s.dev.time.acc + s.dev.time.num * 65536000
        t.dev.time = { s.dev.time with phase := s.dev.time.phase + BitVec.ofNat 48 (sum / unit), acc := sum % unit })

/-- R394 to R398: an enabled ring has a size of 6 to 16 with its indices below it, and an enabled submission ring names an enabled
completion ring. Every step, of whatever command, keeps this. -/
def Obligations.EveryStepKeepsTheRings : Prop :=
  ∀ s t : State, s.RingsOk → step s = .next t → t.RingsOk

/-- After reset every enabled ring has a size and indices below it: none is enabled. -/
def Obligations.ResetMeetsTheRingsInvariant : Prop := State.reset.RingsOk

/-- R499: M1 and M3 are the minimal polynomials of α and α^3; g is (x + 1)^2 · M1 · M3, of degree 16, with α^0 to α^4 among its roots; the
check bits of any 64 data bits are the remainder of the data, 16 places up, by g; they lie above the data in the codeword; and two
distinct codewords differ in at least 6 bits. -/
def Obligations.SaggarCodewordsLieSixApart : Prop :=
  (gfAt minPoly1 2 = 0 ∧ gfAt minPoly3 8 = 0 ∧ ∀ p, 0 < p → p < 128 → gfAt p 2 ≠ 0 ∧ gfAt p 8 ≠ 0) ∧
  (saggarGen = gfMul 8 (gfMul 8 (gfMul 2 3 3) minPoly1) minPoly3 ∧ 2 ^ 16 ≤ saggarGen ∧ saggarGen < 2 ^ 17 ∧
    ∀ i ≤ 4, gfAt saggarGen (2 ^ i) = 0) ∧
  (∀ data < 2 ^ 64, saggarCheck data < 2 ^ 16 ∧ saggarEncode data = data + 2 ^ 64 * saggarCheck data ∧
    ∃ q < 2 ^ 64, gfMul 17 q saggarGen = (data * 2 ^ 16) ^^^ saggarCheck data) ∧
  (∀ a < 2 ^ 64, ∀ b < 2 ^ 64, a ≠ b → 6 ≤ (bitsApart (saggarEncode a) (saggarEncode b)).length)

/-- R500: of a codeword of any 64 data bits, read with errors in any distinct bits among its 80, none is clean, one or two are
corrected and the corrected data is delivered, and three are reported uncorrectable. Zero data with zero check bits is a codeword. -/
def Obligations.SaggarCorrectsTwoAndReportsThree : Prop :=
  (∀ data < 2 ^ 64, ∀ bits : List Nat, bits.Nodup → (∀ i ∈ bits, i < 80) →
    (bits.length = 0 → saggarDecode (flipBits bits (saggarEncode data)) = .clean data) ∧
    (bits.length = 1 ∨ bits.length = 2 → ∃ found, saggarDecode (flipBits bits (saggarEncode data)) = .corrected data found) ∧
    (bits.length = 3 → saggarDecode (flipBits bits (saggarEncode data)) = .uncorrectable)) ∧
  saggarEncode 0 = 0 ∧ saggarDecode 0 = .clean 0
end

