-- ==== Sys2Proof/Laws/Memory.lean ====
section
/-! SUPPORT. Device memory: every operation keeps the canonical form, and what a byte reads as after a write. -/
namespace Sys2Proof.Machine

-- The canonical form as a proposition

theorem cellsWf_iff (cs : List Host.Cell) :
    cellsWf cs = true ↔ cs.Pairwise (fun c d => c.1 < d.1) ∧ ∀ c ∈ cs, c.2 ≠ blankByte := by
  induction cs with
  | nil => simp [cellsWf]
  | cons c r ih =>
    cases r with
    | nil => simp [cellsWf]
    | cons d r =>
      rw [cellsWf, Bool.and_eq_true, Bool.and_eq_true, ih]
      simp only [bne_iff_ne, decide_eq_true_eq, List.pairwise_cons, List.mem_cons, forall_eq_or_imp]
      constructor
      · rintro ⟨⟨hb, hlt⟩, ⟨hd, hr⟩, hdb, hrb⟩
        exact ⟨⟨⟨hlt, fun a ha => Nat.lt_trans hlt (hd a ha)⟩, hd, hr⟩, hb, hdb, hrb⟩
      · rintro ⟨⟨⟨hlt, -⟩, hd, hr⟩, hb, hdb, hrb⟩
        exact ⟨⟨hb, hlt⟩, ⟨hd, hr⟩, hdb, hrb⟩

theorem risingNat_iff (l : List Nat) : risingNat l = true ↔ l.Pairwise (· < ·) := by
  induction l with
  | nil => simp [risingNat]
  | cons a r ih =>
    cases r with
    | nil => simp [risingNat]
    | cons b r =>
      rw [risingNat, Bool.and_eq_true, ih]
      simp only [decide_eq_true_eq, List.pairwise_cons, List.mem_cons, forall_eq_or_imp]
      exact ⟨fun ⟨h, hb, hr⟩ => ⟨⟨h, fun c hc => Nat.lt_trans h (hb c hc)⟩, hb, hr⟩, fun ⟨⟨h, _⟩, hb, hr⟩ => ⟨h, hb, hr⟩⟩

/-- The three clauses of the canonical form. -/
theorem Memory.wf_iff (m : Mem) : Memory.wf m = true ↔
    cellsWf m.cells = true ∧ (∀ c ∈ m.cells, ∀ u ∈ m.undef, u.holds c.1 = false) ∧ risingNat m.poison = true := by
  simp [Memory.wf, and_assoc]

-- Lists of cells

theorem cellSet_mem (cs : List Host.Cell) (a : Nat) (b : Byte) (c : Host.Cell) (h : c ∈ cellSet cs a b) :
    c = (a, b) ∨ c ∈ cs := by
  induction cs with
  | nil =>
    unfold cellSet at h
    split at h <;> simp_all
  | cons d r ih =>
    obtain ⟨k, v⟩ := d
    unfold cellSet at h
    split at h
    · rcases List.mem_cons.mp h with h | h
      · exact .inr (h ▸ List.mem_cons_self ..)
      · exact (ih h).imp_right (List.mem_cons_of_mem _)
    · split at h <;> split at h <;> simp_all only [List.mem_cons] <;> rcases h with h | h <;> simp_all

/-- A byte put at an address keeps the list rising and free of blank bytes. -/
theorem cellSet_wf (cs : List Host.Cell) (a : Nat) (b : Byte) (h : cellsWf cs = true) : cellsWf (cellSet cs a b) = true := by
  rw [cellsWf_iff] at h ⊢
  induction cs with
  | nil =>
    unfold cellSet
    split <;> simp_all
  | cons d r ih =>
    obtain ⟨k, v⟩ := d
    obtain ⟨hp, hb⟩ := h
    rw [List.pairwise_cons] at hp
    have hr := ih ⟨hp.2, fun c hc => hb c (List.mem_cons_of_mem _ hc)⟩
    have hv : v ≠ blankByte := hb (k, v) (List.mem_cons_self ..)
    unfold cellSet
    split
    · refine ⟨List.pairwise_cons.mpr ⟨fun c hc => ?_, hr.1⟩, fun c hc => ?_⟩
      · rcases cellSet_mem _ _ _ _ hc with rfl | hc
        · assumption
        · exact hp.1 c hc
      · rcases List.mem_cons.mp hc with rfl | hc
        · exact hv
        · exact hr.2 c hc
    · split
      · next hk =>
        split
        · exact ⟨hp.2, fun c hc => hb c (List.mem_cons_of_mem _ hc)⟩
        · next hne =>
          refine ⟨List.pairwise_cons.mpr ⟨fun c hc => hk ▸ hp.1 c hc, hp.2⟩, fun c hc => ?_⟩
          rcases List.mem_cons.mp hc with rfl | hc
          · exact hne
          · exact hb c (List.mem_cons_of_mem _ hc)
      · next hlt hk =>
        split
        · exact ⟨List.pairwise_cons.mpr hp, hb⟩
        · next hne =>
          have hak : a < k := by omega
          refine ⟨List.pairwise_cons.mpr ⟨fun c hc => ?_, List.pairwise_cons.mpr hp⟩, fun c hc => ?_⟩
          · rcases List.mem_cons.mp hc with rfl | hc
            · exact hak
            · exact Nat.lt_trans hak (hp.1 c hc)
          · rcases List.mem_cons.mp hc with rfl | hc
            · exact hne
            · exact hb c hc

theorem cellGet_nil_of_lt (cs : List Host.Cell) (a : Nat) (h : ∀ c ∈ cs, a < c.1) : cellGet cs a = none := by
  have : cs.find? (fun c => c.1 == a) = none := by
    rw [List.find?_eq_none]
    intro c hc
    have := h c hc
    simp; omega
  simp [cellGet, this]

theorem cellGet_cons (k : Nat) (v : Byte) (r : List Host.Cell) (a : Nat) :
    cellGet ((k, v) :: r) a = if k = a then some v else cellGet r a := by
  by_cases h : k = a <;> simp [cellGet, h]

/-- The byte listed at an address after one is put there: that byte, or none where it is the blank byte. -/
theorem cellGet_cellSet_same (cs : List Host.Cell) (a : Nat) (b : Byte) (h : cellsWf cs = true) :
    cellGet (cellSet cs a b) a = if b = blankByte then none else some b := by
  rw [cellsWf_iff] at h
  replace h := h.1
  induction cs with
  | nil => by_cases hb : b = blankByte <;> simp [cellSet, hb, cellGet]
  | cons d r ih =>
    obtain ⟨k, v⟩ := d
    rw [List.pairwise_cons] at h
    unfold cellSet
    split
    · next hk =>
      rw [cellGet_cons, if_neg (by omega), ih h.2]
    · split
      · next hk =>
        have hn : cellGet r a = none := cellGet_nil_of_lt r a fun c hc => hk ▸ h.1 c hc
        split <;> simp_all [cellGet_cons]
      · next hk1 hk2 =>
        split
        · rw [cellGet_cons, if_neg hk2]
          exact cellGet_nil_of_lt r a fun c hc => by have := h.1 c hc; simp at this; omega
        · simp [cellGet_cons]

theorem cellGet_cellSet_other (cs : List Host.Cell) (a x : Nat) (b : Byte) (hx : x ≠ a) :
    cellGet (cellSet cs a b) x = cellGet cs x := by
  induction cs with
  | nil => by_cases hb : b = blankByte <;> simp [cellSet, hb, cellGet, Ne.symm hx]
  | cons d r ih =>
    obtain ⟨k, v⟩ := d
    unfold cellSet
    split
    · rw [cellGet_cons, cellGet_cons, ih]
    · split
      · next hk =>
        subst hk
        split <;> simp [cellGet_cons, Ne.symm hx]
      · split <;> simp [cellGet_cons, Ne.symm hx]

-- Undefined ranges

theorem URange.cut_holds (lo hi x : Nat) (u : URange) (v : URange) (h : v ∈ URange.cut lo hi u) (hx : v.holds x = true) :
    u.holds x = true ∧ ¬(lo ≤ x ∧ x < hi) ∧ v.epoch = u.epoch := by
  simp only [URange.cut, List.mem_append] at h
  rcases h with h | h <;> split at h <;> simp_all [URange.holds] <;> omega

theorem undefCut_holds (lo hi x : Nat) (us : List URange) (v : URange) (h : v ∈ undefCut lo hi us) (hx : v.holds x = true) :
    ¬(lo ≤ x ∧ x < hi) ∧ ∃ u ∈ us, u.holds x = true := by
  simp only [undefCut, List.mem_flatMap] at h
  obtain ⟨u, hu, hv⟩ := h
  have := URange.cut_holds lo hi x u v hv hx
  exact ⟨this.2.1, u, hu, this.1⟩

theorem URange.cut_none (lo hi x : Nat) (u : URange) (h : u.holds x = false) :
    (URange.cut lo hi u).find? (fun v => v.holds x) = none := by
  rw [List.find?_eq_none]
  intro v hv hc
  have := (URange.cut_holds lo hi x u v hv hc).1
  simp_all

theorem URange.cut_some (lo hi x : Nat) (u : URange) (h : u.holds x = true) (hx : ¬(lo ≤ x ∧ x < hi)) :
    ∃ v, (URange.cut lo hi u).find? (fun v => v.holds x) = some v ∧ v.epoch = u.epoch := by
  have hu : u.lo ≤ x ∧ x < u.hi := by simpa [URange.holds] using h
  rcases Nat.lt_or_ge x lo with hlo | hlo
  · have h1 : u.lo < min u.hi lo := by omega
    exact ⟨{ u with hi := min u.hi lo }, by simp [URange.cut, h1, URange.holds]; omega, rfl⟩
  · have h2 : max u.lo hi < u.hi := by omega
    refine ⟨{ u with lo := max u.lo hi }, ?_, rfl⟩
    by_cases h1 : u.lo < min u.hi lo
    · have : ({ u with hi := min u.hi lo } : URange).holds x = false := by simp [URange.holds]; omega
      have h3 : ({ u with lo := max u.lo hi } : URange).holds x = true := by simp [URange.holds]; omega
      simp [URange.cut, h1, h2, this, h3]
    · have h3 : ({ u with lo := max u.lo hi } : URange).holds x = true := by simp [URange.holds]; omega
      simp [URange.cut, h1, h2, h3]

/-- The event that left an address undefined, after a cut that does not take the address out. -/
theorem undefCut_find (lo hi x : Nat) (us : List URange) (hx : ¬(lo ≤ x ∧ x < hi)) :
    ((undefCut lo hi us).find? fun u => u.holds x).map (·.epoch) = (us.find? fun u => u.holds x).map (·.epoch) := by
  induction us with
  | nil => rfl
  | cons u us ih =>
    simp only [undefCut, List.flatMap_cons, List.find?_append, List.find?_cons] at ih ⊢
    cases hu : u.holds x with
    | false => simpa [URange.cut_none lo hi x u hu] using ih
    | true =>
      obtain ⟨v, hv, he⟩ := URange.cut_some lo hi x u hu hx
      simp [hv, he]

theorem undefCut_find_in (lo hi x : Nat) (us : List URange) (hx : lo ≤ x ∧ x < hi) :
    (undefCut lo hi us).find? (fun u => u.holds x) = none := by
  rw [List.find?_eq_none]
  intro v hv hc
  exact (undefCut_holds lo hi x us v hv hc).1 hx

-- The operations keep the canonical form

/-- No cell lies in an undefined range once the ranges are cut where a cell may be new. -/
theorem clear_of_undefCut (cs : List Host.Cell) (us : List URange) (lo hi : Nat)
    (h : ∀ c ∈ cs, (lo ≤ c.1 ∧ c.1 < hi) ∨ ∀ u ∈ us, u.holds c.1 = false) :
    ∀ c ∈ cs, ∀ u ∈ undefCut lo hi us, u.holds c.1 = false := by
  intro c hc u hu
  rw [← Bool.not_eq_true]
  intro hh
  obtain ⟨hn, v, hv, hvx⟩ := undefCut_holds lo hi c.1 us u hu hh
  rcases h c hc with hin | hno
  · exact hn hin
  · exact absurd (hno v hv) (by simp [hvx])

theorem Mem.write_wf (m : Mem) (a : Nat) (b : Byte) (h : Memory.wf m = true) : Memory.wf (m.write a b) = true := by
  rw [Memory.wf_iff] at h ⊢
  refine ⟨cellSet_wf _ _ _ h.1, clear_of_undefCut _ _ _ _ fun c hc => ?_, h.2.2⟩
  rcases cellSet_mem _ _ _ _ hc with rfl | hc
  · exact .inl ⟨Nat.le_refl _, Nat.lt_succ_self _⟩
  · exact .inr fun u hu => h.2.1 c hc u hu

theorem Mem.writeBytes_wf (m : Mem) (a : Nat) (bs : List Byte) (h : Memory.wf m = true) : Memory.wf (m.writeBytes a bs) = true := by
  induction bs generalizing m a with
  | nil => exact h
  | cons b bs ih => exact ih _ _ (m.write_wf a b h)

theorem cellsWf_filter (cs : List Host.Cell) (p : Host.Cell → Bool) (h : cellsWf cs = true) : cellsWf (cs.filter p) = true := by
  rw [cellsWf_iff] at h ⊢
  exact ⟨h.1.filter _, fun c hc => h.2 c (List.mem_filter.mp hc).1⟩

theorem risingNat_filter (l : List Nat) (p : Nat → Bool) (h : risingNat l = true) : risingNat (l.filter p) = true := by
  rw [risingNat_iff] at h ⊢
  exact h.filter _

theorem insertNat_mem (x : Nat) (l : List Nat) (y : Nat) (h : y ∈ insertNat x l) : y = x ∨ y ∈ l := by
  induction l with
  | nil => simpa [insertNat] using h
  | cons z l ih =>
    unfold insertNat at h
    split at h
    · rcases List.mem_cons.mp h with rfl | h
      · simp
      · exact (ih h).imp_right (List.mem_cons_of_mem _)
    · split at h <;> simp_all

theorem insertNat_rising (x : Nat) (l : List Nat) (h : risingNat l = true) : risingNat (insertNat x l) = true := by
  rw [risingNat_iff] at h ⊢
  induction l with
  | nil => simp [insertNat]
  | cons z l ih =>
    rw [List.pairwise_cons] at h
    unfold insertNat
    split
    · refine List.pairwise_cons.mpr ⟨fun y hy => ?_, ih h.2⟩
      rcases insertNat_mem _ _ _ hy with rfl | hy
      · assumption
      · exact h.1 y hy
    · split
      · exact List.pairwise_cons.mpr h
      · refine List.pairwise_cons.mpr ⟨fun y hy => ?_, List.pairwise_cons.mpr h⟩
        rcases List.mem_cons.mp hy with rfl | hy
        · omega
        · have := h.1 y hy; omega

theorem Mem.clear_wf (m : Mem) (a n : Nat) (h : Memory.wf m = true) : Memory.wf (m.clear a n) = true := by
  rw [Memory.wf_iff] at h ⊢
  exact ⟨cellsWf_filter _ _ h.1, clear_of_undefCut _ _ _ _ fun c hc => .inr (h.2.1 c (List.mem_filter.mp hc).1), h.2.2⟩

theorem Mem.forget_wf (m : Mem) (a n : Nat) (h : Memory.wf m = true) : Memory.wf (m.forget a n) = true := by
  unfold Mem.forget
  split
  · exact h
  · have hc := (Memory.wf_iff _).mp (m.clear_wf a n h)
    rw [Memory.wf_iff]
    refine ⟨hc.1, fun c hcm u hu => ?_, hc.2.2⟩
    rcases List.mem_cons.mp hu with rfl | hu
    · have := (List.mem_filter.mp hcm).2
      simp [URange.holds] at this ⊢
      omega
    · exact hc.2.1 c hcm u hu

theorem Mem.setPoison_wf (m : Mem) (a : Nat) (h : Memory.wf m = true) : Memory.wf (m.setPoison a) = true := by
  rw [Memory.wf_iff] at h ⊢
  exact ⟨h.1, h.2.1, insertNat_rising _ _ h.2.2⟩

theorem Mem.unpoisonWhole_wf (m : Mem) (a n : Nat) (h : Memory.wf m = true) : Memory.wf (m.unpoisonWhole a n) = true := by
  rw [Memory.wf_iff] at h ⊢
  exact ⟨h.1, h.2.1, risingNat_filter _ _ h.2.2⟩

/-- A fold of changes that each keep the canonical form keeps it. -/
theorem foldl_keeps_wf {α : Type} (l : List α) (f : Mem → α → Mem) (hf : ∀ m x, Memory.wf m = true → Memory.wf (f m x) = true)
    (m : Mem) (h : Memory.wf m = true) : Memory.wf (l.foldl f m) = true := by
  induction l generalizing m with
  | nil => exact h
  | cons x l ih => exact ih _ (hf _ _ h)

theorem Mem.store_wf (m : Mem) (a : Nat) (bs : List Byte) (h : Memory.wf m = true) : Memory.wf (m.store a bs) = true := by
  refine foldl_keeps_wf _ _ (fun acc p hacc => ?_) _ (m.unpoisonWhole_wf _ _ h)
  show Memory.wf (if _ then _ else _) = true
  split
  · exact hacc
  · exact acc.write_wf _ _ hacc

theorem Mem.move_wf (m : Mem) (src dst n : Nat) (h : Memory.wf m = true) : Memory.wf (m.move src dst n) = true :=
  foldl_keeps_wf _ _ (fun acc _ hacc => acc.setPoison_wf _ hacc) _ (Mem.writeBytes_wf _ _ _ (m.unpoisonWhole_wf _ _ h))

-- Reads

/-- The byte an address reads as, from its cell and the event that left it undefined. -/
theorem Mem.read_eq (m : Mem) (a : Nat) : m.read a =
    ((cellGet m.cells a).getD (((m.undef.find? fun u => u.holds a).map (·.epoch)).elim blankByte fun e => Config.freeByte e a)) := by
  unfold Mem.read
  cases cellGet m.cells a with
  | some b => rfl
  | none => cases m.undef.find? fun u => u.holds a <;> rfl

/-- A byte written is the byte read. -/
theorem Mem.read_write_same (m : Mem) (a : Nat) (b : Byte) (h : Memory.wf m = true) : (m.write a b).read a = b := by
  rw [Mem.read_eq]
  simp only [Mem.write, cellGet_cellSet_same _ _ _ ((Memory.wf_iff m).mp h).1,
    undefCut_find_in a (a + 1) a _ ⟨Nat.le_refl _, Nat.lt_succ_self _⟩]
  split <;> simp_all

/-- A byte written elsewhere changes nothing. -/
theorem Mem.read_write_other (m : Mem) (a x : Nat) (b : Byte) (hx : x ≠ a) : (m.write a b).read x = m.read x := by
  rw [Mem.read_eq, Mem.read_eq]
  simp only [Mem.write, cellGet_cellSet_other _ _ _ _ hx, undefCut_find a (a + 1) x _ (by omega)]

/-- Bytes written leave every address outside them as it was. -/
theorem Mem.read_writeBytes_outside (m : Mem) (a x : Nat) (bs : List Byte) (hx : x < a ∨ a + bs.length ≤ x) :
    (m.writeBytes a bs).read x = m.read x := by
  induction bs generalizing m a with
  | nil => rfl
  | cons b bs ih =>
    simp only [List.length_cons] at hx
    rw [Mem.writeBytes, ih _ _ (by omega), m.read_write_other _ _ _ (by omega)]

/-- Bytes written are the bytes read. -/
theorem Mem.read_writeBytes_inside (m : Mem) (a i : Nat) (bs : List Byte) (h : Memory.wf m = true) (hi : i < bs.length) :
    (m.writeBytes a bs).read (a + i) = bs[i] := by
  induction bs generalizing m a i with
  | nil => simp at hi
  | cons b bs ih =>
    cases i with
    | zero => simpa [Mem.writeBytes, Mem.read_writeBytes_outside _ (a + 1) a bs (by omega)] using m.read_write_same a b h
    | succ i =>
      have := ih (m.write a b) (a + 1) i (m.write_wf a b h) (by simpa using hi)
      simpa [Mem.writeBytes, Nat.add_assoc, Nat.add_comm 1 i] using this

end Sys2Proof.Machine
end

