-- ==== Sys2Proof/Laws/Contexts.lean ====
section
/-! SUPPORT. Context pages: every operation on the rows of frames, and on page tables, keeps memory's canonical form. -/
namespace Sys2Proof.Machine

theorem Mem.clearWhole_wf (m : Mem) (a n : Nat) (h : Memory.wf m = true) : Memory.wf ((m.clear a n).unpoisonWhole a n) = true :=
  Mem.unpoisonWhole_wf _ _ _ (Mem.clear_wf _ _ _ h)

theorem clearRows_wf (m : Mem) (da : Nat) (streams : List (Nat × Nat)) (r0 : Nat) (h : Memory.wf m = true) :
    Memory.wf (clearRows m da streams r0) = true :=
  foldl_keeps_wf _ _ (fun m _ h => Mem.clearWhole_wf m _ _ h) _ h

theorem copyRows_wf (m : Mem) (src dst : Nat) (streams : List (Nat × Nat)) (r : Nat) (h : Memory.wf m = true) :
    Memory.wf (copyRows m src dst streams r) = true :=
  foldl_keeps_wf _ _ (fun m _ h => Mem.move_wf m _ _ _ h) _ h

theorem forgetRows_wf (m : Mem) (da : Nat) (streams : List (Nat × Nat)) (r0 r1 : Nat) (h : Memory.wf m = true) :
    Memory.wf (forgetRows m da streams r0 r1) = true :=
  foldl_keeps_wf _ _ (fun m _ h => Mem.forget_wf m _ _ h) _ h

theorem Ctx.putTable_wf (a : Nat) (c : Ctx) (m : Mem) (h : Memory.wf m = true) : Memory.wf (c.putTable a m) = true :=
  foldl_keeps_wf _ _ (fun m _ h => Mem.writeBytes_wf m _ _ h) _ (Mem.clearWhole_wf m _ _ h)

theorem CtxPart.putTables_wf (x : CtxPart) (n : Fin 16) (m : Mem) (h : Memory.wf m = true) : Memory.wf (x.putTables n m) = true := by
  unfold CtxPart.putTables
  split
  · exact h
  · refine foldl_keeps_wf _ _ (fun m c h => ?_) _ h
    split
    · exact Ctx.putTable_wf _ _ _ h
    · exact h

/-- A new frame changes memory by clearing it. -/
theorem newFrame_wf (inStack : Nat → Bool) (c : Ctx) (key : Nat × Nat × Nat) (e : CtxEnv) (h : Memory.wf e.mem = true) :
    Memory.wf (newFrame inStack c key e).1.mem = true := by
  unfold newFrame
  split
  · exact h
  · exact Mem.clearWhole_wf _ _ _ h

/-- Preparing a page keeps the form. -/
theorem preparePage_wf (inStack : Nat → Bool) (n len : Nat) (key : Nat × Nat × Nat) (e : CtxEnv) (h : Memory.wf e.mem = true) :
    Memory.wf (preparePage inStack n len key e).mem = true := by
  unfold preparePage
  split
  · exact h
  · split
    · exact h
    · dsimp only
      split
      · exact newFrame_wf _ _ _ _ h
      · split
        · split
          · exact newFrame_wf _ _ _ _ h
          · exact copyRows_wf _ _ _ _ _ (newFrame_wf _ _ _ _ h)
        · exact clearRows_wf _ _ _ _ h

end Sys2Proof.Machine
end

