-- ==== Sys2Proof/Laws/State.lean ====
section
/-! SUPPORT. What each small update of the state leaves in every field: one lemma a field and update, so that no proof unfolds
a record update. -/
namespace Sys2Proof.Machine

-- One element of a vector

theorem vec_set_get_same {α : Type} {n : Nat} (v : Vector α n) (i : Fin n) (x : α) : (v.set i x).get i = x := by
  show (v.set i x)[i.val] = x
  simp
theorem vec_set_get_other {α : Type} {n : Nat} (v : Vector α n) (i j : Fin n) (x : α) (h : i ≠ j) : (v.set i x).get j = v.get j := by
  have hv : i.val ≠ j.val := fun e => h (Fin.ext e)
  show (v.set i x)[j.val] = v[j.val]
  simp [Vector.getElem_set, hv]
@[simp] theorem vmod_get_same {α : Type} {n : Nat} (v : Vector α n) (i : Fin n) (f : α → α) : (vmod v i f).get i = f (v.get i) :=
  vec_set_get_same v i _
theorem vmod_get_other {α : Type} {n : Nat} (v : Vector α n) (i j : Fin n) (f : α → α) (h : i ≠ j) : (vmod v i f).get j = v.get j :=
  vec_set_get_other v i j _ h

-- State under a change of the device, of a submission ring, of a completion ring

@[simp] theorem State.onDev_pending (f : Dev → Dev) (s : State) : (s.onDev f).pending = s.pending := rfl
@[simp] theorem State.onDev_rings (f : Dev → Dev) (s : State) : (s.onDev f).rings = s.rings := rfl
@[simp] theorem State.onDev_dev (f : Dev → Dev) (s : State) : (s.onDev f).dev = f s.dev := rfl
@[simp] theorem State.onDev_onDev (f g : Dev → Dev) (s : State) : (s.onDev f).onDev g = s.onDev (fun d => g (f d)) := rfl
@[simp] theorem State.onDev_id (s : State) : s.onDev (fun d => d) = s := rfl
@[simp] theorem State.setSq_pending (n : Fin 64) (q : Sq) (s : State) : (s.setSq n q).pending = s.pending := rfl
@[simp] theorem State.setSq_dev (n : Fin 64) (q : Sq) (s : State) : (s.setSq n q).dev = s.dev := rfl
@[simp] theorem State.setSq_cq (n m : Fin 64) (q : Sq) (s : State) : (s.setSq n q).cq m = s.cq m := rfl
@[simp] theorem State.setSq_sq_same (n : Fin 64) (q : Sq) (s : State) : (s.setSq n q).sq n = q := vec_set_get_same _ n q
theorem State.setSq_sq_other (n m : Fin 64) (q : Sq) (s : State) (h : n ≠ m) : (s.setSq n q).sq m = s.sq m := vec_set_get_other _ n m q h
@[simp] theorem State.setCq_pending (n : Fin 64) (q : Cq) (s : State) : (s.setCq n q).pending = s.pending := rfl
@[simp] theorem State.setCq_dev (n : Fin 64) (q : Cq) (s : State) : (s.setCq n q).dev = s.dev := rfl
@[simp] theorem State.setCq_sq (n m : Fin 64) (q : Cq) (s : State) : (s.setCq n q).sq m = s.sq m := rfl
@[simp] theorem State.setCq_cq_same (n : Fin 64) (q : Cq) (s : State) : (s.setCq n q).cq n = q := vec_set_get_same _ n q
theorem State.setCq_cq_other (n m : Fin 64) (q : Cq) (s : State) (h : n ≠ m) : (s.setCq n q).cq m = s.cq m := vec_set_get_other _ n m q h

-- Dev.emit

@[simp] theorem Dev.emit_out (o : Output) (d : Dev) : (d.emit o).out = o :: d.out := rfl
@[simp] theorem Dev.emit_nowUs (o : Output) (d : Dev) : (d.emit o).nowUs = d.nowUs := rfl
@[simp] theorem Dev.emit_freeCtr (o : Output) (d : Dev) : (d.emit o).freeCtr = d.freeCtr := rfl
@[simp] theorem Dev.emit_link (o : Output) (d : Dev) : (d.emit o).link = d.link := rfl
@[simp] theorem Dev.emit_mem (o : Output) (d : Dev) : (d.emit o).mem = d.mem := rfl
@[simp] theorem Dev.emit_num (o : Output) (d : Dev) : (d.emit o).num = d.num := rfl
@[simp] theorem Dev.emit_progs (o : Output) (d : Dev) : (d.emit o).progs = d.progs := rfl
@[simp] theorem Dev.emit_launches (o : Output) (d : Dev) : (d.emit o).launches = d.launches := rfl
@[simp] theorem Dev.emit_nextLaunch (o : Output) (d : Dev) : (d.emit o).nextLaunch = d.nextLaunch := rfl
@[simp] theorem Dev.emit_cx (o : Output) (d : Dev) : (d.emit o).cx = d.cx := rfl
@[simp] theorem Dev.emit_fn (o : Output) (d : Dev) : (d.emit o).fn = d.fn := rfl
@[simp] theorem Dev.emit_tier (o : Output) (d : Dev) : (d.emit o).tier = d.tier := rfl
@[simp] theorem Dev.emit_kilns (o : Output) (d : Dev) : (d.emit o).kilns = d.kilns := rfl
@[simp] theorem Dev.emit_wheels (o : Output) (d : Dev) : (d.emit o).wheels = d.wheels := rfl
@[simp] theorem Dev.emit_media (o : Output) (d : Dev) : (d.emit o).media = d.media := rfl
@[simp] theorem Dev.emit_fabric (o : Output) (d : Dev) : (d.emit o).fabric = d.fabric := rfl
@[simp] theorem Dev.emit_coll (o : Output) (d : Dev) : (d.emit o).coll = d.coll := rfl
@[simp] theorem Dev.emit_time (o : Output) (d : Dev) : (d.emit o).time = d.time := rfl
@[simp] theorem Dev.emit_candle (o : Output) (d : Dev) : (d.emit o).candle = d.candle := rfl
@[simp] theorem Dev.emit_power (o : Output) (d : Dev) : (d.emit o).power = d.power := rfl
@[simp] theorem Dev.emit_pins (o : Output) (d : Dev) : (d.emit o).pins = d.pins := rfl
@[simp] theorem Dev.emit_start (o : Output) (d : Dev) : (d.emit o).start = d.start := rfl
@[simp] theorem Dev.emit_repair (o : Output) (d : Dev) : (d.emit o).repair = d.repair := rfl
@[simp] theorem Dev.emit_ctrs (o : Output) (d : Dev) : (d.emit o).ctrs = d.ctrs := rfl

-- Dev.count

@[simp] theorem Dev.count_out (die : DieIx) (event ix n : Nat) (d : Dev) : (d.count die event ix n).out = d.out := rfl
@[simp] theorem Dev.count_nowUs (die : DieIx) (event ix n : Nat) (d : Dev) : (d.count die event ix n).nowUs = d.nowUs := rfl
@[simp] theorem Dev.count_freeCtr (die : DieIx) (event ix n : Nat) (d : Dev) : (d.count die event ix n).freeCtr = d.freeCtr := rfl
@[simp] theorem Dev.count_link (die : DieIx) (event ix n : Nat) (d : Dev) : (d.count die event ix n).link = d.link := rfl
@[simp] theorem Dev.count_mem (die : DieIx) (event ix n : Nat) (d : Dev) : (d.count die event ix n).mem = d.mem := rfl
@[simp] theorem Dev.count_num (die : DieIx) (event ix n : Nat) (d : Dev) : (d.count die event ix n).num = d.num := rfl
@[simp] theorem Dev.count_progs (die : DieIx) (event ix n : Nat) (d : Dev) : (d.count die event ix n).progs = d.progs := rfl
@[simp] theorem Dev.count_launches (die : DieIx) (event ix n : Nat) (d : Dev) : (d.count die event ix n).launches = d.launches := rfl
@[simp] theorem Dev.count_nextLaunch (die : DieIx) (event ix n : Nat) (d : Dev) : (d.count die event ix n).nextLaunch = d.nextLaunch := rfl
@[simp] theorem Dev.count_cx (die : DieIx) (event ix n : Nat) (d : Dev) : (d.count die event ix n).cx = d.cx := rfl
@[simp] theorem Dev.count_fn (die : DieIx) (event ix n : Nat) (d : Dev) : (d.count die event ix n).fn = d.fn := rfl
@[simp] theorem Dev.count_tier (die : DieIx) (event ix n : Nat) (d : Dev) : (d.count die event ix n).tier = d.tier := rfl
@[simp] theorem Dev.count_kilns (die : DieIx) (event ix n : Nat) (d : Dev) : (d.count die event ix n).kilns = d.kilns := rfl
@[simp] theorem Dev.count_wheels (die : DieIx) (event ix n : Nat) (d : Dev) : (d.count die event ix n).wheels = d.wheels := rfl
@[simp] theorem Dev.count_media (die : DieIx) (event ix n : Nat) (d : Dev) : (d.count die event ix n).media = d.media := rfl
@[simp] theorem Dev.count_fabric (die : DieIx) (event ix n : Nat) (d : Dev) : (d.count die event ix n).fabric = d.fabric := rfl
@[simp] theorem Dev.count_coll (die : DieIx) (event ix n : Nat) (d : Dev) : (d.count die event ix n).coll = d.coll := rfl
@[simp] theorem Dev.count_time (die : DieIx) (event ix n : Nat) (d : Dev) : (d.count die event ix n).time = d.time := rfl
@[simp] theorem Dev.count_candle (die : DieIx) (event ix n : Nat) (d : Dev) : (d.count die event ix n).candle = d.candle := rfl
@[simp] theorem Dev.count_power (die : DieIx) (event ix n : Nat) (d : Dev) : (d.count die event ix n).power = d.power := rfl
@[simp] theorem Dev.count_pins (die : DieIx) (event ix n : Nat) (d : Dev) : (d.count die event ix n).pins = d.pins := rfl
@[simp] theorem Dev.count_start (die : DieIx) (event ix n : Nat) (d : Dev) : (d.count die event ix n).start = d.start := rfl
@[simp] theorem Dev.count_repair (die : DieIx) (event ix n : Nat) (d : Dev) : (d.count die event ix n).repair = d.repair := rfl
@[simp] theorem Dev.count_ctrs (die : DieIx) (event ix n : Nat) (d : Dev) : (d.count die event ix n).ctrs = { d.ctrs with blocks := vmod d.ctrs.blocks die (CtrBlock.count event ix n) } := rfl

-- Dev.logUe

@[simp] theorem Dev.logUe_out (location unit w : Nat) (struck : Bool) (d : Dev) : (d.logUe location unit w struck).out = d.out := rfl
@[simp] theorem Dev.logUe_nowUs (location unit w : Nat) (struck : Bool) (d : Dev) : (d.logUe location unit w struck).nowUs = d.nowUs := rfl
@[simp] theorem Dev.logUe_freeCtr (location unit w : Nat) (struck : Bool) (d : Dev) : (d.logUe location unit w struck).freeCtr = d.freeCtr := rfl
@[simp] theorem Dev.logUe_link (location unit w : Nat) (struck : Bool) (d : Dev) : (d.logUe location unit w struck).link = d.link := rfl
@[simp] theorem Dev.logUe_mem (location unit w : Nat) (struck : Bool) (d : Dev) : (d.logUe location unit w struck).mem = d.mem := rfl
@[simp] theorem Dev.logUe_num (location unit w : Nat) (struck : Bool) (d : Dev) : (d.logUe location unit w struck).num = d.num := rfl
@[simp] theorem Dev.logUe_progs (location unit w : Nat) (struck : Bool) (d : Dev) : (d.logUe location unit w struck).progs = d.progs := rfl
@[simp] theorem Dev.logUe_launches (location unit w : Nat) (struck : Bool) (d : Dev) : (d.logUe location unit w struck).launches = d.launches := rfl
@[simp] theorem Dev.logUe_nextLaunch (location unit w : Nat) (struck : Bool) (d : Dev) : (d.logUe location unit w struck).nextLaunch = d.nextLaunch := rfl
@[simp] theorem Dev.logUe_cx (location unit w : Nat) (struck : Bool) (d : Dev) : (d.logUe location unit w struck).cx = d.cx := rfl
@[simp] theorem Dev.logUe_fn (location unit w : Nat) (struck : Bool) (d : Dev) : (d.logUe location unit w struck).fn = d.fn := rfl
@[simp] theorem Dev.logUe_tier (location unit w : Nat) (struck : Bool) (d : Dev) : (d.logUe location unit w struck).tier = d.tier := rfl
@[simp] theorem Dev.logUe_kilns (location unit w : Nat) (struck : Bool) (d : Dev) : (d.logUe location unit w struck).kilns = d.kilns := rfl
@[simp] theorem Dev.logUe_wheels (location unit w : Nat) (struck : Bool) (d : Dev) : (d.logUe location unit w struck).wheels = d.wheels := rfl
@[simp] theorem Dev.logUe_media (location unit w : Nat) (struck : Bool) (d : Dev) : (d.logUe location unit w struck).media = d.media := rfl
@[simp] theorem Dev.logUe_fabric (location unit w : Nat) (struck : Bool) (d : Dev) : (d.logUe location unit w struck).fabric = d.fabric := rfl
@[simp] theorem Dev.logUe_coll (location unit w : Nat) (struck : Bool) (d : Dev) : (d.logUe location unit w struck).coll = d.coll := rfl
@[simp] theorem Dev.logUe_time (location unit w : Nat) (struck : Bool) (d : Dev) : (d.logUe location unit w struck).time = d.time := rfl
@[simp] theorem Dev.logUe_candle (location unit w : Nat) (struck : Bool) (d : Dev) : (d.logUe location unit w struck).candle = d.candle := rfl
@[simp] theorem Dev.logUe_power (location unit w : Nat) (struck : Bool) (d : Dev) : (d.logUe location unit w struck).power = d.power := rfl
@[simp] theorem Dev.logUe_pins (location unit w : Nat) (struck : Bool) (d : Dev) : (d.logUe location unit w struck).pins = d.pins := rfl
@[simp] theorem Dev.logUe_start (location unit w : Nat) (struck : Bool) (d : Dev) : (d.logUe location unit w struck).start = d.start := rfl
@[simp] theorem Dev.logUe_ctrs (location unit w : Nat) (struck : Bool) (d : Dev) : (d.logUe location unit w struck).ctrs = d.ctrs := rfl

-- Dev.modCmd

@[simp] theorem Dev.modCmd_out (id : Nat) (f : Cmd → Cmd) (d : Dev) : (d.modCmd id f).out = d.out := rfl
@[simp] theorem Dev.modCmd_nowUs (id : Nat) (f : Cmd → Cmd) (d : Dev) : (d.modCmd id f).nowUs = d.nowUs := rfl
@[simp] theorem Dev.modCmd_freeCtr (id : Nat) (f : Cmd → Cmd) (d : Dev) : (d.modCmd id f).freeCtr = d.freeCtr := rfl
@[simp] theorem Dev.modCmd_link (id : Nat) (f : Cmd → Cmd) (d : Dev) : (d.modCmd id f).link = { d.link with cmds := updFirst (fun c => c.id == id) f d.link.cmds } := rfl
@[simp] theorem Dev.modCmd_mem (id : Nat) (f : Cmd → Cmd) (d : Dev) : (d.modCmd id f).mem = d.mem := rfl
@[simp] theorem Dev.modCmd_num (id : Nat) (f : Cmd → Cmd) (d : Dev) : (d.modCmd id f).num = d.num := rfl
@[simp] theorem Dev.modCmd_progs (id : Nat) (f : Cmd → Cmd) (d : Dev) : (d.modCmd id f).progs = d.progs := rfl
@[simp] theorem Dev.modCmd_launches (id : Nat) (f : Cmd → Cmd) (d : Dev) : (d.modCmd id f).launches = d.launches := rfl
@[simp] theorem Dev.modCmd_nextLaunch (id : Nat) (f : Cmd → Cmd) (d : Dev) : (d.modCmd id f).nextLaunch = d.nextLaunch := rfl
@[simp] theorem Dev.modCmd_cx (id : Nat) (f : Cmd → Cmd) (d : Dev) : (d.modCmd id f).cx = d.cx := rfl
@[simp] theorem Dev.modCmd_fn (id : Nat) (f : Cmd → Cmd) (d : Dev) : (d.modCmd id f).fn = d.fn := rfl
@[simp] theorem Dev.modCmd_tier (id : Nat) (f : Cmd → Cmd) (d : Dev) : (d.modCmd id f).tier = d.tier := rfl
@[simp] theorem Dev.modCmd_kilns (id : Nat) (f : Cmd → Cmd) (d : Dev) : (d.modCmd id f).kilns = d.kilns := rfl
@[simp] theorem Dev.modCmd_wheels (id : Nat) (f : Cmd → Cmd) (d : Dev) : (d.modCmd id f).wheels = d.wheels := rfl
@[simp] theorem Dev.modCmd_media (id : Nat) (f : Cmd → Cmd) (d : Dev) : (d.modCmd id f).media = d.media := rfl
@[simp] theorem Dev.modCmd_fabric (id : Nat) (f : Cmd → Cmd) (d : Dev) : (d.modCmd id f).fabric = d.fabric := rfl
@[simp] theorem Dev.modCmd_coll (id : Nat) (f : Cmd → Cmd) (d : Dev) : (d.modCmd id f).coll = d.coll := rfl
@[simp] theorem Dev.modCmd_time (id : Nat) (f : Cmd → Cmd) (d : Dev) : (d.modCmd id f).time = d.time := rfl
@[simp] theorem Dev.modCmd_candle (id : Nat) (f : Cmd → Cmd) (d : Dev) : (d.modCmd id f).candle = d.candle := rfl
@[simp] theorem Dev.modCmd_power (id : Nat) (f : Cmd → Cmd) (d : Dev) : (d.modCmd id f).power = d.power := rfl
@[simp] theorem Dev.modCmd_pins (id : Nat) (f : Cmd → Cmd) (d : Dev) : (d.modCmd id f).pins = d.pins := rfl
@[simp] theorem Dev.modCmd_start (id : Nat) (f : Cmd → Cmd) (d : Dev) : (d.modCmd id f).start = d.start := rfl
@[simp] theorem Dev.modCmd_repair (id : Nat) (f : Cmd → Cmd) (d : Dev) : (d.modCmd id f).repair = d.repair := rfl
@[simp] theorem Dev.modCmd_ctrs (id : Nat) (f : Cmd → Cmd) (d : Dev) : (d.modCmd id f).ctrs = d.ctrs := rfl

-- Dev.dropHold

@[simp] theorem Dev.dropHold_out (r : Reg) (d : Dev) : (d.dropHold r).out = d.out := rfl
@[simp] theorem Dev.dropHold_nowUs (r : Reg) (d : Dev) : (d.dropHold r).nowUs = d.nowUs := rfl
@[simp] theorem Dev.dropHold_freeCtr (r : Reg) (d : Dev) : (d.dropHold r).freeCtr = d.freeCtr := rfl
@[simp] theorem Dev.dropHold_link (r : Reg) (d : Dev) : (d.dropHold r).link = { d.link with holds := d.link.holds.filter fun h => h.1 != r } := rfl
@[simp] theorem Dev.dropHold_mem (r : Reg) (d : Dev) : (d.dropHold r).mem = d.mem := rfl
@[simp] theorem Dev.dropHold_num (r : Reg) (d : Dev) : (d.dropHold r).num = d.num := rfl
@[simp] theorem Dev.dropHold_progs (r : Reg) (d : Dev) : (d.dropHold r).progs = d.progs := rfl
@[simp] theorem Dev.dropHold_launches (r : Reg) (d : Dev) : (d.dropHold r).launches = d.launches := rfl
@[simp] theorem Dev.dropHold_nextLaunch (r : Reg) (d : Dev) : (d.dropHold r).nextLaunch = d.nextLaunch := rfl
@[simp] theorem Dev.dropHold_cx (r : Reg) (d : Dev) : (d.dropHold r).cx = d.cx := rfl
@[simp] theorem Dev.dropHold_fn (r : Reg) (d : Dev) : (d.dropHold r).fn = d.fn := rfl
@[simp] theorem Dev.dropHold_tier (r : Reg) (d : Dev) : (d.dropHold r).tier = d.tier := rfl
@[simp] theorem Dev.dropHold_kilns (r : Reg) (d : Dev) : (d.dropHold r).kilns = d.kilns := rfl
@[simp] theorem Dev.dropHold_wheels (r : Reg) (d : Dev) : (d.dropHold r).wheels = d.wheels := rfl
@[simp] theorem Dev.dropHold_media (r : Reg) (d : Dev) : (d.dropHold r).media = d.media := rfl
@[simp] theorem Dev.dropHold_fabric (r : Reg) (d : Dev) : (d.dropHold r).fabric = d.fabric := rfl
@[simp] theorem Dev.dropHold_coll (r : Reg) (d : Dev) : (d.dropHold r).coll = d.coll := rfl
@[simp] theorem Dev.dropHold_time (r : Reg) (d : Dev) : (d.dropHold r).time = d.time := rfl
@[simp] theorem Dev.dropHold_candle (r : Reg) (d : Dev) : (d.dropHold r).candle = d.candle := rfl
@[simp] theorem Dev.dropHold_power (r : Reg) (d : Dev) : (d.dropHold r).power = d.power := rfl
@[simp] theorem Dev.dropHold_pins (r : Reg) (d : Dev) : (d.dropHold r).pins = d.pins := rfl
@[simp] theorem Dev.dropHold_start (r : Reg) (d : Dev) : (d.dropHold r).start = d.start := rfl
@[simp] theorem Dev.dropHold_repair (r : Reg) (d : Dev) : (d.dropHold r).repair = d.repair := rfl
@[simp] theorem Dev.dropHold_ctrs (r : Reg) (d : Dev) : (d.dropHold r).ctrs = d.ctrs := rfl

-- Dev.modStart

@[simp] theorem Dev.modStart_out (f : StartPart → StartPart) (d : Dev) : (d.modStart f).out = d.out := rfl
@[simp] theorem Dev.modStart_nowUs (f : StartPart → StartPart) (d : Dev) : (d.modStart f).nowUs = d.nowUs := rfl
@[simp] theorem Dev.modStart_freeCtr (f : StartPart → StartPart) (d : Dev) : (d.modStart f).freeCtr = d.freeCtr := rfl
@[simp] theorem Dev.modStart_link (f : StartPart → StartPart) (d : Dev) : (d.modStart f).link = d.link := rfl
@[simp] theorem Dev.modStart_mem (f : StartPart → StartPart) (d : Dev) : (d.modStart f).mem = d.mem := rfl
@[simp] theorem Dev.modStart_num (f : StartPart → StartPart) (d : Dev) : (d.modStart f).num = d.num := rfl
@[simp] theorem Dev.modStart_progs (f : StartPart → StartPart) (d : Dev) : (d.modStart f).progs = d.progs := rfl
@[simp] theorem Dev.modStart_launches (f : StartPart → StartPart) (d : Dev) : (d.modStart f).launches = d.launches := rfl
@[simp] theorem Dev.modStart_nextLaunch (f : StartPart → StartPart) (d : Dev) : (d.modStart f).nextLaunch = d.nextLaunch := rfl
@[simp] theorem Dev.modStart_cx (f : StartPart → StartPart) (d : Dev) : (d.modStart f).cx = d.cx := rfl
@[simp] theorem Dev.modStart_fn (f : StartPart → StartPart) (d : Dev) : (d.modStart f).fn = d.fn := rfl
@[simp] theorem Dev.modStart_tier (f : StartPart → StartPart) (d : Dev) : (d.modStart f).tier = d.tier := rfl
@[simp] theorem Dev.modStart_kilns (f : StartPart → StartPart) (d : Dev) : (d.modStart f).kilns = d.kilns := rfl
@[simp] theorem Dev.modStart_wheels (f : StartPart → StartPart) (d : Dev) : (d.modStart f).wheels = d.wheels := rfl
@[simp] theorem Dev.modStart_media (f : StartPart → StartPart) (d : Dev) : (d.modStart f).media = d.media := rfl
@[simp] theorem Dev.modStart_fabric (f : StartPart → StartPart) (d : Dev) : (d.modStart f).fabric = d.fabric := rfl
@[simp] theorem Dev.modStart_coll (f : StartPart → StartPart) (d : Dev) : (d.modStart f).coll = d.coll := rfl
@[simp] theorem Dev.modStart_time (f : StartPart → StartPart) (d : Dev) : (d.modStart f).time = d.time := rfl
@[simp] theorem Dev.modStart_candle (f : StartPart → StartPart) (d : Dev) : (d.modStart f).candle = d.candle := rfl
@[simp] theorem Dev.modStart_power (f : StartPart → StartPart) (d : Dev) : (d.modStart f).power = d.power := rfl
@[simp] theorem Dev.modStart_pins (f : StartPart → StartPart) (d : Dev) : (d.modStart f).pins = d.pins := rfl
@[simp] theorem Dev.modStart_start (f : StartPart → StartPart) (d : Dev) : (d.modStart f).start = f d.start := rfl
@[simp] theorem Dev.modStart_repair (f : StartPart → StartPart) (d : Dev) : (d.modStart f).repair = d.repair := rfl
@[simp] theorem Dev.modStart_ctrs (f : StartPart → StartPart) (d : Dev) : (d.modStart f).ctrs = d.ctrs := rfl

-- Dev.modPower

@[simp] theorem Dev.modPower_out (f : PowerPart → PowerPart) (d : Dev) : (d.modPower f).out = d.out := rfl
@[simp] theorem Dev.modPower_nowUs (f : PowerPart → PowerPart) (d : Dev) : (d.modPower f).nowUs = d.nowUs := rfl
@[simp] theorem Dev.modPower_freeCtr (f : PowerPart → PowerPart) (d : Dev) : (d.modPower f).freeCtr = d.freeCtr := rfl
@[simp] theorem Dev.modPower_link (f : PowerPart → PowerPart) (d : Dev) : (d.modPower f).link = d.link := rfl
@[simp] theorem Dev.modPower_mem (f : PowerPart → PowerPart) (d : Dev) : (d.modPower f).mem = d.mem := rfl
@[simp] theorem Dev.modPower_num (f : PowerPart → PowerPart) (d : Dev) : (d.modPower f).num = d.num := rfl
@[simp] theorem Dev.modPower_progs (f : PowerPart → PowerPart) (d : Dev) : (d.modPower f).progs = d.progs := rfl
@[simp] theorem Dev.modPower_launches (f : PowerPart → PowerPart) (d : Dev) : (d.modPower f).launches = d.launches := rfl
@[simp] theorem Dev.modPower_nextLaunch (f : PowerPart → PowerPart) (d : Dev) : (d.modPower f).nextLaunch = d.nextLaunch := rfl
@[simp] theorem Dev.modPower_cx (f : PowerPart → PowerPart) (d : Dev) : (d.modPower f).cx = d.cx := rfl
@[simp] theorem Dev.modPower_fn (f : PowerPart → PowerPart) (d : Dev) : (d.modPower f).fn = d.fn := rfl
@[simp] theorem Dev.modPower_tier (f : PowerPart → PowerPart) (d : Dev) : (d.modPower f).tier = d.tier := rfl
@[simp] theorem Dev.modPower_kilns (f : PowerPart → PowerPart) (d : Dev) : (d.modPower f).kilns = d.kilns := rfl
@[simp] theorem Dev.modPower_wheels (f : PowerPart → PowerPart) (d : Dev) : (d.modPower f).wheels = d.wheels := rfl
@[simp] theorem Dev.modPower_media (f : PowerPart → PowerPart) (d : Dev) : (d.modPower f).media = d.media := rfl
@[simp] theorem Dev.modPower_fabric (f : PowerPart → PowerPart) (d : Dev) : (d.modPower f).fabric = d.fabric := rfl
@[simp] theorem Dev.modPower_coll (f : PowerPart → PowerPart) (d : Dev) : (d.modPower f).coll = d.coll := rfl
@[simp] theorem Dev.modPower_time (f : PowerPart → PowerPart) (d : Dev) : (d.modPower f).time = d.time := rfl
@[simp] theorem Dev.modPower_candle (f : PowerPart → PowerPart) (d : Dev) : (d.modPower f).candle = d.candle := rfl
@[simp] theorem Dev.modPower_power (f : PowerPart → PowerPart) (d : Dev) : (d.modPower f).power = f d.power := rfl
@[simp] theorem Dev.modPower_pins (f : PowerPart → PowerPart) (d : Dev) : (d.modPower f).pins = d.pins := rfl
@[simp] theorem Dev.modPower_start (f : PowerPart → PowerPart) (d : Dev) : (d.modPower f).start = d.start := rfl
@[simp] theorem Dev.modPower_repair (f : PowerPart → PowerPart) (d : Dev) : (d.modPower f).repair = d.repair := rfl
@[simp] theorem Dev.modPower_ctrs (f : PowerPart → PowerPart) (d : Dev) : (d.modPower f).ctrs = d.ctrs := rfl

-- Dev.modPins

@[simp] theorem Dev.modPins_out (f : Pins → Pins) (d : Dev) : (d.modPins f).out = d.out := rfl
@[simp] theorem Dev.modPins_nowUs (f : Pins → Pins) (d : Dev) : (d.modPins f).nowUs = d.nowUs := rfl
@[simp] theorem Dev.modPins_freeCtr (f : Pins → Pins) (d : Dev) : (d.modPins f).freeCtr = d.freeCtr := rfl
@[simp] theorem Dev.modPins_link (f : Pins → Pins) (d : Dev) : (d.modPins f).link = d.link := rfl
@[simp] theorem Dev.modPins_mem (f : Pins → Pins) (d : Dev) : (d.modPins f).mem = d.mem := rfl
@[simp] theorem Dev.modPins_num (f : Pins → Pins) (d : Dev) : (d.modPins f).num = d.num := rfl
@[simp] theorem Dev.modPins_progs (f : Pins → Pins) (d : Dev) : (d.modPins f).progs = d.progs := rfl
@[simp] theorem Dev.modPins_launches (f : Pins → Pins) (d : Dev) : (d.modPins f).launches = d.launches := rfl
@[simp] theorem Dev.modPins_nextLaunch (f : Pins → Pins) (d : Dev) : (d.modPins f).nextLaunch = d.nextLaunch := rfl
@[simp] theorem Dev.modPins_cx (f : Pins → Pins) (d : Dev) : (d.modPins f).cx = d.cx := rfl
@[simp] theorem Dev.modPins_fn (f : Pins → Pins) (d : Dev) : (d.modPins f).fn = d.fn := rfl
@[simp] theorem Dev.modPins_tier (f : Pins → Pins) (d : Dev) : (d.modPins f).tier = d.tier := rfl
@[simp] theorem Dev.modPins_kilns (f : Pins → Pins) (d : Dev) : (d.modPins f).kilns = d.kilns := rfl
@[simp] theorem Dev.modPins_wheels (f : Pins → Pins) (d : Dev) : (d.modPins f).wheels = d.wheels := rfl
@[simp] theorem Dev.modPins_media (f : Pins → Pins) (d : Dev) : (d.modPins f).media = d.media := rfl
@[simp] theorem Dev.modPins_fabric (f : Pins → Pins) (d : Dev) : (d.modPins f).fabric = d.fabric := rfl
@[simp] theorem Dev.modPins_coll (f : Pins → Pins) (d : Dev) : (d.modPins f).coll = d.coll := rfl
@[simp] theorem Dev.modPins_time (f : Pins → Pins) (d : Dev) : (d.modPins f).time = d.time := rfl
@[simp] theorem Dev.modPins_candle (f : Pins → Pins) (d : Dev) : (d.modPins f).candle = d.candle := rfl
@[simp] theorem Dev.modPins_power (f : Pins → Pins) (d : Dev) : (d.modPins f).power = d.power := rfl
@[simp] theorem Dev.modPins_pins (f : Pins → Pins) (d : Dev) : (d.modPins f).pins = f d.pins := rfl
@[simp] theorem Dev.modPins_start (f : Pins → Pins) (d : Dev) : (d.modPins f).start = d.start := rfl
@[simp] theorem Dev.modPins_repair (f : Pins → Pins) (d : Dev) : (d.modPins f).repair = d.repair := rfl
@[simp] theorem Dev.modPins_ctrs (f : Pins → Pins) (d : Dev) : (d.modPins f).ctrs = d.ctrs := rfl

-- Dev.modTime

@[simp] theorem Dev.modTime_out (f : TimePart → TimePart) (d : Dev) : (d.modTime f).out = d.out := rfl
@[simp] theorem Dev.modTime_nowUs (f : TimePart → TimePart) (d : Dev) : (d.modTime f).nowUs = d.nowUs := rfl
@[simp] theorem Dev.modTime_freeCtr (f : TimePart → TimePart) (d : Dev) : (d.modTime f).freeCtr = d.freeCtr := rfl
@[simp] theorem Dev.modTime_link (f : TimePart → TimePart) (d : Dev) : (d.modTime f).link = d.link := rfl
@[simp] theorem Dev.modTime_mem (f : TimePart → TimePart) (d : Dev) : (d.modTime f).mem = d.mem := rfl
@[simp] theorem Dev.modTime_num (f : TimePart → TimePart) (d : Dev) : (d.modTime f).num = d.num := rfl
@[simp] theorem Dev.modTime_progs (f : TimePart → TimePart) (d : Dev) : (d.modTime f).progs = d.progs := rfl
@[simp] theorem Dev.modTime_launches (f : TimePart → TimePart) (d : Dev) : (d.modTime f).launches = d.launches := rfl
@[simp] theorem Dev.modTime_nextLaunch (f : TimePart → TimePart) (d : Dev) : (d.modTime f).nextLaunch = d.nextLaunch := rfl
@[simp] theorem Dev.modTime_cx (f : TimePart → TimePart) (d : Dev) : (d.modTime f).cx = d.cx := rfl
@[simp] theorem Dev.modTime_fn (f : TimePart → TimePart) (d : Dev) : (d.modTime f).fn = d.fn := rfl
@[simp] theorem Dev.modTime_tier (f : TimePart → TimePart) (d : Dev) : (d.modTime f).tier = d.tier := rfl
@[simp] theorem Dev.modTime_kilns (f : TimePart → TimePart) (d : Dev) : (d.modTime f).kilns = d.kilns := rfl
@[simp] theorem Dev.modTime_wheels (f : TimePart → TimePart) (d : Dev) : (d.modTime f).wheels = d.wheels := rfl
@[simp] theorem Dev.modTime_media (f : TimePart → TimePart) (d : Dev) : (d.modTime f).media = d.media := rfl
@[simp] theorem Dev.modTime_fabric (f : TimePart → TimePart) (d : Dev) : (d.modTime f).fabric = d.fabric := rfl
@[simp] theorem Dev.modTime_coll (f : TimePart → TimePart) (d : Dev) : (d.modTime f).coll = d.coll := rfl
@[simp] theorem Dev.modTime_time (f : TimePart → TimePart) (d : Dev) : (d.modTime f).time = f d.time := rfl
@[simp] theorem Dev.modTime_candle (f : TimePart → TimePart) (d : Dev) : (d.modTime f).candle = d.candle := rfl
@[simp] theorem Dev.modTime_power (f : TimePart → TimePart) (d : Dev) : (d.modTime f).power = d.power := rfl
@[simp] theorem Dev.modTime_pins (f : TimePart → TimePart) (d : Dev) : (d.modTime f).pins = d.pins := rfl
@[simp] theorem Dev.modTime_start (f : TimePart → TimePart) (d : Dev) : (d.modTime f).start = d.start := rfl
@[simp] theorem Dev.modTime_repair (f : TimePart → TimePart) (d : Dev) : (d.modTime f).repair = d.repair := rfl
@[simp] theorem Dev.modTime_ctrs (f : TimePart → TimePart) (d : Dev) : (d.modTime f).ctrs = d.ctrs := rfl

-- Dev.modKiln

@[simp] theorem Dev.modKiln_out (k : Fin 12) (f : Kiln → Kiln) (d : Dev) : (d.modKiln k f).out = d.out := rfl
@[simp] theorem Dev.modKiln_nowUs (k : Fin 12) (f : Kiln → Kiln) (d : Dev) : (d.modKiln k f).nowUs = d.nowUs := rfl
@[simp] theorem Dev.modKiln_freeCtr (k : Fin 12) (f : Kiln → Kiln) (d : Dev) : (d.modKiln k f).freeCtr = d.freeCtr := rfl
@[simp] theorem Dev.modKiln_link (k : Fin 12) (f : Kiln → Kiln) (d : Dev) : (d.modKiln k f).link = d.link := rfl
@[simp] theorem Dev.modKiln_mem (k : Fin 12) (f : Kiln → Kiln) (d : Dev) : (d.modKiln k f).mem = d.mem := rfl
@[simp] theorem Dev.modKiln_num (k : Fin 12) (f : Kiln → Kiln) (d : Dev) : (d.modKiln k f).num = d.num := rfl
@[simp] theorem Dev.modKiln_progs (k : Fin 12) (f : Kiln → Kiln) (d : Dev) : (d.modKiln k f).progs = d.progs := rfl
@[simp] theorem Dev.modKiln_launches (k : Fin 12) (f : Kiln → Kiln) (d : Dev) : (d.modKiln k f).launches = d.launches := rfl
@[simp] theorem Dev.modKiln_nextLaunch (k : Fin 12) (f : Kiln → Kiln) (d : Dev) : (d.modKiln k f).nextLaunch = d.nextLaunch := rfl
@[simp] theorem Dev.modKiln_cx (k : Fin 12) (f : Kiln → Kiln) (d : Dev) : (d.modKiln k f).cx = d.cx := rfl
@[simp] theorem Dev.modKiln_fn (k : Fin 12) (f : Kiln → Kiln) (d : Dev) : (d.modKiln k f).fn = d.fn := rfl
@[simp] theorem Dev.modKiln_tier (k : Fin 12) (f : Kiln → Kiln) (d : Dev) : (d.modKiln k f).tier = d.tier := rfl
@[simp] theorem Dev.modKiln_kilns (k : Fin 12) (f : Kiln → Kiln) (d : Dev) : (d.modKiln k f).kilns = vmod d.kilns k f := rfl
@[simp] theorem Dev.modKiln_wheels (k : Fin 12) (f : Kiln → Kiln) (d : Dev) : (d.modKiln k f).wheels = d.wheels := rfl
@[simp] theorem Dev.modKiln_media (k : Fin 12) (f : Kiln → Kiln) (d : Dev) : (d.modKiln k f).media = d.media := rfl
@[simp] theorem Dev.modKiln_fabric (k : Fin 12) (f : Kiln → Kiln) (d : Dev) : (d.modKiln k f).fabric = d.fabric := rfl
@[simp] theorem Dev.modKiln_coll (k : Fin 12) (f : Kiln → Kiln) (d : Dev) : (d.modKiln k f).coll = d.coll := rfl
@[simp] theorem Dev.modKiln_time (k : Fin 12) (f : Kiln → Kiln) (d : Dev) : (d.modKiln k f).time = d.time := rfl
@[simp] theorem Dev.modKiln_candle (k : Fin 12) (f : Kiln → Kiln) (d : Dev) : (d.modKiln k f).candle = d.candle := rfl
@[simp] theorem Dev.modKiln_power (k : Fin 12) (f : Kiln → Kiln) (d : Dev) : (d.modKiln k f).power = d.power := rfl
@[simp] theorem Dev.modKiln_pins (k : Fin 12) (f : Kiln → Kiln) (d : Dev) : (d.modKiln k f).pins = d.pins := rfl
@[simp] theorem Dev.modKiln_start (k : Fin 12) (f : Kiln → Kiln) (d : Dev) : (d.modKiln k f).start = d.start := rfl
@[simp] theorem Dev.modKiln_repair (k : Fin 12) (f : Kiln → Kiln) (d : Dev) : (d.modKiln k f).repair = d.repair := rfl
@[simp] theorem Dev.modKiln_ctrs (k : Fin 12) (f : Kiln → Kiln) (d : Dev) : (d.modKiln k f).ctrs = d.ctrs := rfl

-- Dev.modTile

@[simp] theorem Dev.modTile_out (k : Fin 12) (t : Fin 16) (f : TileSt → TileSt) (d : Dev) : (d.modTile k t f).out = d.out := rfl
@[simp] theorem Dev.modTile_nowUs (k : Fin 12) (t : Fin 16) (f : TileSt → TileSt) (d : Dev) : (d.modTile k t f).nowUs = d.nowUs := rfl
@[simp] theorem Dev.modTile_freeCtr (k : Fin 12) (t : Fin 16) (f : TileSt → TileSt) (d : Dev) : (d.modTile k t f).freeCtr = d.freeCtr := rfl
@[simp] theorem Dev.modTile_link (k : Fin 12) (t : Fin 16) (f : TileSt → TileSt) (d : Dev) : (d.modTile k t f).link = d.link := rfl
@[simp] theorem Dev.modTile_mem (k : Fin 12) (t : Fin 16) (f : TileSt → TileSt) (d : Dev) : (d.modTile k t f).mem = d.mem := rfl
@[simp] theorem Dev.modTile_num (k : Fin 12) (t : Fin 16) (f : TileSt → TileSt) (d : Dev) : (d.modTile k t f).num = d.num := rfl
@[simp] theorem Dev.modTile_progs (k : Fin 12) (t : Fin 16) (f : TileSt → TileSt) (d : Dev) : (d.modTile k t f).progs = d.progs := rfl
@[simp] theorem Dev.modTile_launches (k : Fin 12) (t : Fin 16) (f : TileSt → TileSt) (d : Dev) : (d.modTile k t f).launches = d.launches := rfl
@[simp] theorem Dev.modTile_nextLaunch (k : Fin 12) (t : Fin 16) (f : TileSt → TileSt) (d : Dev) : (d.modTile k t f).nextLaunch = d.nextLaunch := rfl
@[simp] theorem Dev.modTile_cx (k : Fin 12) (t : Fin 16) (f : TileSt → TileSt) (d : Dev) : (d.modTile k t f).cx = d.cx := rfl
@[simp] theorem Dev.modTile_fn (k : Fin 12) (t : Fin 16) (f : TileSt → TileSt) (d : Dev) : (d.modTile k t f).fn = d.fn := rfl
@[simp] theorem Dev.modTile_tier (k : Fin 12) (t : Fin 16) (f : TileSt → TileSt) (d : Dev) : (d.modTile k t f).tier = d.tier := rfl
@[simp] theorem Dev.modTile_wheels (k : Fin 12) (t : Fin 16) (f : TileSt → TileSt) (d : Dev) : (d.modTile k t f).wheels = d.wheels := rfl
@[simp] theorem Dev.modTile_media (k : Fin 12) (t : Fin 16) (f : TileSt → TileSt) (d : Dev) : (d.modTile k t f).media = d.media := rfl
@[simp] theorem Dev.modTile_fabric (k : Fin 12) (t : Fin 16) (f : TileSt → TileSt) (d : Dev) : (d.modTile k t f).fabric = d.fabric := rfl
@[simp] theorem Dev.modTile_coll (k : Fin 12) (t : Fin 16) (f : TileSt → TileSt) (d : Dev) : (d.modTile k t f).coll = d.coll := rfl
@[simp] theorem Dev.modTile_time (k : Fin 12) (t : Fin 16) (f : TileSt → TileSt) (d : Dev) : (d.modTile k t f).time = d.time := rfl
@[simp] theorem Dev.modTile_candle (k : Fin 12) (t : Fin 16) (f : TileSt → TileSt) (d : Dev) : (d.modTile k t f).candle = d.candle := rfl
@[simp] theorem Dev.modTile_power (k : Fin 12) (t : Fin 16) (f : TileSt → TileSt) (d : Dev) : (d.modTile k t f).power = d.power := rfl
@[simp] theorem Dev.modTile_pins (k : Fin 12) (t : Fin 16) (f : TileSt → TileSt) (d : Dev) : (d.modTile k t f).pins = d.pins := rfl
@[simp] theorem Dev.modTile_start (k : Fin 12) (t : Fin 16) (f : TileSt → TileSt) (d : Dev) : (d.modTile k t f).start = d.start := rfl
@[simp] theorem Dev.modTile_repair (k : Fin 12) (t : Fin 16) (f : TileSt → TileSt) (d : Dev) : (d.modTile k t f).repair = d.repair := rfl
@[simp] theorem Dev.modTile_ctrs (k : Fin 12) (t : Fin 16) (f : TileSt → TileSt) (d : Dev) : (d.modTile k t f).ctrs = d.ctrs := rfl

-- Dev.modWheel

@[simp] theorem Dev.modWheel_out (w : Fin 2) (f : Wheel → Wheel) (d : Dev) : (d.modWheel w f).out = d.out := rfl
@[simp] theorem Dev.modWheel_nowUs (w : Fin 2) (f : Wheel → Wheel) (d : Dev) : (d.modWheel w f).nowUs = d.nowUs := rfl
@[simp] theorem Dev.modWheel_freeCtr (w : Fin 2) (f : Wheel → Wheel) (d : Dev) : (d.modWheel w f).freeCtr = d.freeCtr := rfl
@[simp] theorem Dev.modWheel_link (w : Fin 2) (f : Wheel → Wheel) (d : Dev) : (d.modWheel w f).link = d.link := rfl
@[simp] theorem Dev.modWheel_mem (w : Fin 2) (f : Wheel → Wheel) (d : Dev) : (d.modWheel w f).mem = d.mem := rfl
@[simp] theorem Dev.modWheel_num (w : Fin 2) (f : Wheel → Wheel) (d : Dev) : (d.modWheel w f).num = d.num := rfl
@[simp] theorem Dev.modWheel_progs (w : Fin 2) (f : Wheel → Wheel) (d : Dev) : (d.modWheel w f).progs = d.progs := rfl
@[simp] theorem Dev.modWheel_launches (w : Fin 2) (f : Wheel → Wheel) (d : Dev) : (d.modWheel w f).launches = d.launches := rfl
@[simp] theorem Dev.modWheel_nextLaunch (w : Fin 2) (f : Wheel → Wheel) (d : Dev) : (d.modWheel w f).nextLaunch = d.nextLaunch := rfl
@[simp] theorem Dev.modWheel_cx (w : Fin 2) (f : Wheel → Wheel) (d : Dev) : (d.modWheel w f).cx = d.cx := rfl
@[simp] theorem Dev.modWheel_fn (w : Fin 2) (f : Wheel → Wheel) (d : Dev) : (d.modWheel w f).fn = d.fn := rfl
@[simp] theorem Dev.modWheel_tier (w : Fin 2) (f : Wheel → Wheel) (d : Dev) : (d.modWheel w f).tier = d.tier := rfl
@[simp] theorem Dev.modWheel_kilns (w : Fin 2) (f : Wheel → Wheel) (d : Dev) : (d.modWheel w f).kilns = d.kilns := rfl
@[simp] theorem Dev.modWheel_wheels (w : Fin 2) (f : Wheel → Wheel) (d : Dev) : (d.modWheel w f).wheels = vmod d.wheels w f := rfl
@[simp] theorem Dev.modWheel_media (w : Fin 2) (f : Wheel → Wheel) (d : Dev) : (d.modWheel w f).media = d.media := rfl
@[simp] theorem Dev.modWheel_fabric (w : Fin 2) (f : Wheel → Wheel) (d : Dev) : (d.modWheel w f).fabric = d.fabric := rfl
@[simp] theorem Dev.modWheel_coll (w : Fin 2) (f : Wheel → Wheel) (d : Dev) : (d.modWheel w f).coll = d.coll := rfl
@[simp] theorem Dev.modWheel_time (w : Fin 2) (f : Wheel → Wheel) (d : Dev) : (d.modWheel w f).time = d.time := rfl
@[simp] theorem Dev.modWheel_candle (w : Fin 2) (f : Wheel → Wheel) (d : Dev) : (d.modWheel w f).candle = d.candle := rfl
@[simp] theorem Dev.modWheel_power (w : Fin 2) (f : Wheel → Wheel) (d : Dev) : (d.modWheel w f).power = d.power := rfl
@[simp] theorem Dev.modWheel_pins (w : Fin 2) (f : Wheel → Wheel) (d : Dev) : (d.modWheel w f).pins = d.pins := rfl
@[simp] theorem Dev.modWheel_start (w : Fin 2) (f : Wheel → Wheel) (d : Dev) : (d.modWheel w f).start = d.start := rfl
@[simp] theorem Dev.modWheel_repair (w : Fin 2) (f : Wheel → Wheel) (d : Dev) : (d.modWheel w f).repair = d.repair := rfl
@[simp] theorem Dev.modWheel_ctrs (w : Fin 2) (f : Wheel → Wheel) (d : Dev) : (d.modWheel w f).ctrs = d.ctrs := rfl

-- Dev.modBlock

@[simp] theorem Dev.modBlock_out (b : DieIx) (f : CtrBlock → CtrBlock) (d : Dev) : (d.modBlock b f).out = d.out := rfl
@[simp] theorem Dev.modBlock_nowUs (b : DieIx) (f : CtrBlock → CtrBlock) (d : Dev) : (d.modBlock b f).nowUs = d.nowUs := rfl
@[simp] theorem Dev.modBlock_freeCtr (b : DieIx) (f : CtrBlock → CtrBlock) (d : Dev) : (d.modBlock b f).freeCtr = d.freeCtr := rfl
@[simp] theorem Dev.modBlock_link (b : DieIx) (f : CtrBlock → CtrBlock) (d : Dev) : (d.modBlock b f).link = d.link := rfl
@[simp] theorem Dev.modBlock_mem (b : DieIx) (f : CtrBlock → CtrBlock) (d : Dev) : (d.modBlock b f).mem = d.mem := rfl
@[simp] theorem Dev.modBlock_num (b : DieIx) (f : CtrBlock → CtrBlock) (d : Dev) : (d.modBlock b f).num = d.num := rfl
@[simp] theorem Dev.modBlock_progs (b : DieIx) (f : CtrBlock → CtrBlock) (d : Dev) : (d.modBlock b f).progs = d.progs := rfl
@[simp] theorem Dev.modBlock_launches (b : DieIx) (f : CtrBlock → CtrBlock) (d : Dev) : (d.modBlock b f).launches = d.launches := rfl
@[simp] theorem Dev.modBlock_nextLaunch (b : DieIx) (f : CtrBlock → CtrBlock) (d : Dev) : (d.modBlock b f).nextLaunch = d.nextLaunch := rfl
@[simp] theorem Dev.modBlock_cx (b : DieIx) (f : CtrBlock → CtrBlock) (d : Dev) : (d.modBlock b f).cx = d.cx := rfl
@[simp] theorem Dev.modBlock_fn (b : DieIx) (f : CtrBlock → CtrBlock) (d : Dev) : (d.modBlock b f).fn = d.fn := rfl
@[simp] theorem Dev.modBlock_tier (b : DieIx) (f : CtrBlock → CtrBlock) (d : Dev) : (d.modBlock b f).tier = d.tier := rfl
@[simp] theorem Dev.modBlock_kilns (b : DieIx) (f : CtrBlock → CtrBlock) (d : Dev) : (d.modBlock b f).kilns = d.kilns := rfl
@[simp] theorem Dev.modBlock_wheels (b : DieIx) (f : CtrBlock → CtrBlock) (d : Dev) : (d.modBlock b f).wheels = d.wheels := rfl
@[simp] theorem Dev.modBlock_media (b : DieIx) (f : CtrBlock → CtrBlock) (d : Dev) : (d.modBlock b f).media = d.media := rfl
@[simp] theorem Dev.modBlock_fabric (b : DieIx) (f : CtrBlock → CtrBlock) (d : Dev) : (d.modBlock b f).fabric = d.fabric := rfl
@[simp] theorem Dev.modBlock_coll (b : DieIx) (f : CtrBlock → CtrBlock) (d : Dev) : (d.modBlock b f).coll = d.coll := rfl
@[simp] theorem Dev.modBlock_time (b : DieIx) (f : CtrBlock → CtrBlock) (d : Dev) : (d.modBlock b f).time = d.time := rfl
@[simp] theorem Dev.modBlock_candle (b : DieIx) (f : CtrBlock → CtrBlock) (d : Dev) : (d.modBlock b f).candle = d.candle := rfl
@[simp] theorem Dev.modBlock_power (b : DieIx) (f : CtrBlock → CtrBlock) (d : Dev) : (d.modBlock b f).power = d.power := rfl
@[simp] theorem Dev.modBlock_pins (b : DieIx) (f : CtrBlock → CtrBlock) (d : Dev) : (d.modBlock b f).pins = d.pins := rfl
@[simp] theorem Dev.modBlock_start (b : DieIx) (f : CtrBlock → CtrBlock) (d : Dev) : (d.modBlock b f).start = d.start := rfl
@[simp] theorem Dev.modBlock_repair (b : DieIx) (f : CtrBlock → CtrBlock) (d : Dev) : (d.modBlock b f).repair = d.repair := rfl
@[simp] theorem Dev.modBlock_ctrs (b : DieIx) (f : CtrBlock → CtrBlock) (d : Dev) : (d.modBlock b f).ctrs = { d.ctrs with blocks := vmod d.ctrs.blocks b f } := rfl

-- Dev.modLaunch

@[simp] theorem Dev.modLaunch_out (id : Nat) (f : Launch → Launch) (d : Dev) : (d.modLaunch id f).out = d.out := rfl
@[simp] theorem Dev.modLaunch_nowUs (id : Nat) (f : Launch → Launch) (d : Dev) : (d.modLaunch id f).nowUs = d.nowUs := rfl
@[simp] theorem Dev.modLaunch_freeCtr (id : Nat) (f : Launch → Launch) (d : Dev) : (d.modLaunch id f).freeCtr = d.freeCtr := rfl
@[simp] theorem Dev.modLaunch_link (id : Nat) (f : Launch → Launch) (d : Dev) : (d.modLaunch id f).link = d.link := rfl
@[simp] theorem Dev.modLaunch_mem (id : Nat) (f : Launch → Launch) (d : Dev) : (d.modLaunch id f).mem = d.mem := rfl
@[simp] theorem Dev.modLaunch_num (id : Nat) (f : Launch → Launch) (d : Dev) : (d.modLaunch id f).num = d.num := rfl
@[simp] theorem Dev.modLaunch_progs (id : Nat) (f : Launch → Launch) (d : Dev) : (d.modLaunch id f).progs = d.progs := rfl
@[simp] theorem Dev.modLaunch_launches (id : Nat) (f : Launch → Launch) (d : Dev) : (d.modLaunch id f).launches = updFirst (fun l => l.id == id) f d.launches := rfl
@[simp] theorem Dev.modLaunch_nextLaunch (id : Nat) (f : Launch → Launch) (d : Dev) : (d.modLaunch id f).nextLaunch = d.nextLaunch := rfl
@[simp] theorem Dev.modLaunch_cx (id : Nat) (f : Launch → Launch) (d : Dev) : (d.modLaunch id f).cx = d.cx := rfl
@[simp] theorem Dev.modLaunch_fn (id : Nat) (f : Launch → Launch) (d : Dev) : (d.modLaunch id f).fn = d.fn := rfl
@[simp] theorem Dev.modLaunch_tier (id : Nat) (f : Launch → Launch) (d : Dev) : (d.modLaunch id f).tier = d.tier := rfl
@[simp] theorem Dev.modLaunch_kilns (id : Nat) (f : Launch → Launch) (d : Dev) : (d.modLaunch id f).kilns = d.kilns := rfl
@[simp] theorem Dev.modLaunch_wheels (id : Nat) (f : Launch → Launch) (d : Dev) : (d.modLaunch id f).wheels = d.wheels := rfl
@[simp] theorem Dev.modLaunch_media (id : Nat) (f : Launch → Launch) (d : Dev) : (d.modLaunch id f).media = d.media := rfl
@[simp] theorem Dev.modLaunch_fabric (id : Nat) (f : Launch → Launch) (d : Dev) : (d.modLaunch id f).fabric = d.fabric := rfl
@[simp] theorem Dev.modLaunch_coll (id : Nat) (f : Launch → Launch) (d : Dev) : (d.modLaunch id f).coll = d.coll := rfl
@[simp] theorem Dev.modLaunch_time (id : Nat) (f : Launch → Launch) (d : Dev) : (d.modLaunch id f).time = d.time := rfl
@[simp] theorem Dev.modLaunch_candle (id : Nat) (f : Launch → Launch) (d : Dev) : (d.modLaunch id f).candle = d.candle := rfl
@[simp] theorem Dev.modLaunch_power (id : Nat) (f : Launch → Launch) (d : Dev) : (d.modLaunch id f).power = d.power := rfl
@[simp] theorem Dev.modLaunch_pins (id : Nat) (f : Launch → Launch) (d : Dev) : (d.modLaunch id f).pins = d.pins := rfl
@[simp] theorem Dev.modLaunch_start (id : Nat) (f : Launch → Launch) (d : Dev) : (d.modLaunch id f).start = d.start := rfl
@[simp] theorem Dev.modLaunch_repair (id : Nat) (f : Launch → Launch) (d : Dev) : (d.modLaunch id f).repair = d.repair := rfl
@[simp] theorem Dev.modLaunch_ctrs (id : Nat) (f : Launch → Launch) (d : Dev) : (d.modLaunch id f).ctrs = d.ctrs := rfl

-- Dev.setPort

@[simp] theorem Dev.setPort_out (p : Fin 128) (x : Port) (d : Dev) : (d.setPort p x).out = d.out := rfl
@[simp] theorem Dev.setPort_nowUs (p : Fin 128) (x : Port) (d : Dev) : (d.setPort p x).nowUs = d.nowUs := rfl
@[simp] theorem Dev.setPort_freeCtr (p : Fin 128) (x : Port) (d : Dev) : (d.setPort p x).freeCtr = d.freeCtr := rfl
@[simp] theorem Dev.setPort_link (p : Fin 128) (x : Port) (d : Dev) : (d.setPort p x).link = d.link := rfl
@[simp] theorem Dev.setPort_mem (p : Fin 128) (x : Port) (d : Dev) : (d.setPort p x).mem = d.mem := rfl
@[simp] theorem Dev.setPort_num (p : Fin 128) (x : Port) (d : Dev) : (d.setPort p x).num = d.num := rfl
@[simp] theorem Dev.setPort_progs (p : Fin 128) (x : Port) (d : Dev) : (d.setPort p x).progs = d.progs := rfl
@[simp] theorem Dev.setPort_launches (p : Fin 128) (x : Port) (d : Dev) : (d.setPort p x).launches = d.launches := rfl
@[simp] theorem Dev.setPort_nextLaunch (p : Fin 128) (x : Port) (d : Dev) : (d.setPort p x).nextLaunch = d.nextLaunch := rfl
@[simp] theorem Dev.setPort_cx (p : Fin 128) (x : Port) (d : Dev) : (d.setPort p x).cx = d.cx := rfl
@[simp] theorem Dev.setPort_fn (p : Fin 128) (x : Port) (d : Dev) : (d.setPort p x).fn = d.fn := rfl
@[simp] theorem Dev.setPort_tier (p : Fin 128) (x : Port) (d : Dev) : (d.setPort p x).tier = d.tier := rfl
@[simp] theorem Dev.setPort_kilns (p : Fin 128) (x : Port) (d : Dev) : (d.setPort p x).kilns = d.kilns := rfl
@[simp] theorem Dev.setPort_wheels (p : Fin 128) (x : Port) (d : Dev) : (d.setPort p x).wheels = d.wheels := rfl
@[simp] theorem Dev.setPort_media (p : Fin 128) (x : Port) (d : Dev) : (d.setPort p x).media = d.media := rfl
@[simp] theorem Dev.setPort_fabric (p : Fin 128) (x : Port) (d : Dev) : (d.setPort p x).fabric = { d.fabric with ports := d.fabric.ports.set p x } := rfl
@[simp] theorem Dev.setPort_coll (p : Fin 128) (x : Port) (d : Dev) : (d.setPort p x).coll = d.coll := rfl
@[simp] theorem Dev.setPort_time (p : Fin 128) (x : Port) (d : Dev) : (d.setPort p x).time = d.time := rfl
@[simp] theorem Dev.setPort_candle (p : Fin 128) (x : Port) (d : Dev) : (d.setPort p x).candle = d.candle := rfl
@[simp] theorem Dev.setPort_power (p : Fin 128) (x : Port) (d : Dev) : (d.setPort p x).power = d.power := rfl
@[simp] theorem Dev.setPort_pins (p : Fin 128) (x : Port) (d : Dev) : (d.setPort p x).pins = d.pins := rfl
@[simp] theorem Dev.setPort_start (p : Fin 128) (x : Port) (d : Dev) : (d.setPort p x).start = d.start := rfl
@[simp] theorem Dev.setPort_repair (p : Fin 128) (x : Port) (d : Dev) : (d.setPort p x).repair = d.repair := rfl
@[simp] theorem Dev.setPort_ctrs (p : Fin 128) (x : Port) (d : Dev) : (d.setPort p x).ctrs = d.ctrs := rfl

-- Dev.setStream

@[simp] theorem Dev.setStream_out (k : Fin 32) (x : Stream) (d : Dev) : (d.setStream k x).out = d.out := rfl
@[simp] theorem Dev.setStream_nowUs (k : Fin 32) (x : Stream) (d : Dev) : (d.setStream k x).nowUs = d.nowUs := rfl
@[simp] theorem Dev.setStream_freeCtr (k : Fin 32) (x : Stream) (d : Dev) : (d.setStream k x).freeCtr = d.freeCtr := rfl
@[simp] theorem Dev.setStream_link (k : Fin 32) (x : Stream) (d : Dev) : (d.setStream k x).link = d.link := rfl
@[simp] theorem Dev.setStream_mem (k : Fin 32) (x : Stream) (d : Dev) : (d.setStream k x).mem = d.mem := rfl
@[simp] theorem Dev.setStream_num (k : Fin 32) (x : Stream) (d : Dev) : (d.setStream k x).num = d.num := rfl
@[simp] theorem Dev.setStream_progs (k : Fin 32) (x : Stream) (d : Dev) : (d.setStream k x).progs = d.progs := rfl
@[simp] theorem Dev.setStream_launches (k : Fin 32) (x : Stream) (d : Dev) : (d.setStream k x).launches = d.launches := rfl
@[simp] theorem Dev.setStream_nextLaunch (k : Fin 32) (x : Stream) (d : Dev) : (d.setStream k x).nextLaunch = d.nextLaunch := rfl
@[simp] theorem Dev.setStream_cx (k : Fin 32) (x : Stream) (d : Dev) : (d.setStream k x).cx = d.cx := rfl
@[simp] theorem Dev.setStream_fn (k : Fin 32) (x : Stream) (d : Dev) : (d.setStream k x).fn = d.fn := rfl
@[simp] theorem Dev.setStream_tier (k : Fin 32) (x : Stream) (d : Dev) : (d.setStream k x).tier = d.tier := rfl
@[simp] theorem Dev.setStream_kilns (k : Fin 32) (x : Stream) (d : Dev) : (d.setStream k x).kilns = d.kilns := rfl
@[simp] theorem Dev.setStream_wheels (k : Fin 32) (x : Stream) (d : Dev) : (d.setStream k x).wheels = d.wheels := rfl
@[simp] theorem Dev.setStream_media (k : Fin 32) (x : Stream) (d : Dev) : (d.setStream k x).media = d.media := rfl
@[simp] theorem Dev.setStream_fabric (k : Fin 32) (x : Stream) (d : Dev) : (d.setStream k x).fabric = d.fabric := rfl
@[simp] theorem Dev.setStream_coll (k : Fin 32) (x : Stream) (d : Dev) : (d.setStream k x).coll = d.coll := rfl
@[simp] theorem Dev.setStream_time (k : Fin 32) (x : Stream) (d : Dev) : (d.setStream k x).time = d.time := rfl
@[simp] theorem Dev.setStream_candle (k : Fin 32) (x : Stream) (d : Dev) : (d.setStream k x).candle = { d.candle with streams := d.candle.streams.set k x } := rfl
@[simp] theorem Dev.setStream_power (k : Fin 32) (x : Stream) (d : Dev) : (d.setStream k x).power = d.power := rfl
@[simp] theorem Dev.setStream_pins (k : Fin 32) (x : Stream) (d : Dev) : (d.setStream k x).pins = d.pins := rfl
@[simp] theorem Dev.setStream_start (k : Fin 32) (x : Stream) (d : Dev) : (d.setStream k x).start = d.start := rfl
@[simp] theorem Dev.setStream_repair (k : Fin 32) (x : Stream) (d : Dev) : (d.setStream k x).repair = d.repair := rfl
@[simp] theorem Dev.setStream_ctrs (k : Fin 32) (x : Stream) (d : Dev) : (d.setStream k x).ctrs = d.ctrs := rfl

-- Dev.setFnSlot

@[simp] theorem Dev.setFnSlot_out (k : Fin 8) (x : FnSlot) (d : Dev) : (d.setFnSlot k x).out = d.out := rfl
@[simp] theorem Dev.setFnSlot_nowUs (k : Fin 8) (x : FnSlot) (d : Dev) : (d.setFnSlot k x).nowUs = d.nowUs := rfl
@[simp] theorem Dev.setFnSlot_freeCtr (k : Fin 8) (x : FnSlot) (d : Dev) : (d.setFnSlot k x).freeCtr = d.freeCtr := rfl
@[simp] theorem Dev.setFnSlot_link (k : Fin 8) (x : FnSlot) (d : Dev) : (d.setFnSlot k x).link = d.link := rfl
@[simp] theorem Dev.setFnSlot_mem (k : Fin 8) (x : FnSlot) (d : Dev) : (d.setFnSlot k x).mem = d.mem := rfl
@[simp] theorem Dev.setFnSlot_num (k : Fin 8) (x : FnSlot) (d : Dev) : (d.setFnSlot k x).num = d.num := rfl
@[simp] theorem Dev.setFnSlot_progs (k : Fin 8) (x : FnSlot) (d : Dev) : (d.setFnSlot k x).progs = d.progs := rfl
@[simp] theorem Dev.setFnSlot_launches (k : Fin 8) (x : FnSlot) (d : Dev) : (d.setFnSlot k x).launches = d.launches := rfl
@[simp] theorem Dev.setFnSlot_nextLaunch (k : Fin 8) (x : FnSlot) (d : Dev) : (d.setFnSlot k x).nextLaunch = d.nextLaunch := rfl
@[simp] theorem Dev.setFnSlot_cx (k : Fin 8) (x : FnSlot) (d : Dev) : (d.setFnSlot k x).cx = d.cx := rfl
@[simp] theorem Dev.setFnSlot_fn (k : Fin 8) (x : FnSlot) (d : Dev) : (d.setFnSlot k x).fn = { d.fn with slots := d.fn.slots.set k x } := rfl
@[simp] theorem Dev.setFnSlot_tier (k : Fin 8) (x : FnSlot) (d : Dev) : (d.setFnSlot k x).tier = d.tier := rfl
@[simp] theorem Dev.setFnSlot_kilns (k : Fin 8) (x : FnSlot) (d : Dev) : (d.setFnSlot k x).kilns = d.kilns := rfl
@[simp] theorem Dev.setFnSlot_wheels (k : Fin 8) (x : FnSlot) (d : Dev) : (d.setFnSlot k x).wheels = d.wheels := rfl
@[simp] theorem Dev.setFnSlot_media (k : Fin 8) (x : FnSlot) (d : Dev) : (d.setFnSlot k x).media = d.media := rfl
@[simp] theorem Dev.setFnSlot_fabric (k : Fin 8) (x : FnSlot) (d : Dev) : (d.setFnSlot k x).fabric = d.fabric := rfl
@[simp] theorem Dev.setFnSlot_coll (k : Fin 8) (x : FnSlot) (d : Dev) : (d.setFnSlot k x).coll = d.coll := rfl
@[simp] theorem Dev.setFnSlot_time (k : Fin 8) (x : FnSlot) (d : Dev) : (d.setFnSlot k x).time = d.time := rfl
@[simp] theorem Dev.setFnSlot_candle (k : Fin 8) (x : FnSlot) (d : Dev) : (d.setFnSlot k x).candle = d.candle := rfl
@[simp] theorem Dev.setFnSlot_power (k : Fin 8) (x : FnSlot) (d : Dev) : (d.setFnSlot k x).power = d.power := rfl
@[simp] theorem Dev.setFnSlot_pins (k : Fin 8) (x : FnSlot) (d : Dev) : (d.setFnSlot k x).pins = d.pins := rfl
@[simp] theorem Dev.setFnSlot_start (k : Fin 8) (x : FnSlot) (d : Dev) : (d.setFnSlot k x).start = d.start := rfl
@[simp] theorem Dev.setFnSlot_repair (k : Fin 8) (x : FnSlot) (d : Dev) : (d.setFnSlot k x).repair = d.repair := rfl
@[simp] theorem Dev.setFnSlot_ctrs (k : Fin 8) (x : FnSlot) (d : Dev) : (d.setFnSlot k x).ctrs = d.ctrs := rfl

-- Dev.modSession

@[simp] theorem Dev.modSession_out (n : Nat) (f : Session → Session) (d : Dev) : (d.modSession n f).out = d.out := rfl
@[simp] theorem Dev.modSession_nowUs (n : Nat) (f : Session → Session) (d : Dev) : (d.modSession n f).nowUs = d.nowUs := rfl
@[simp] theorem Dev.modSession_freeCtr (n : Nat) (f : Session → Session) (d : Dev) : (d.modSession n f).freeCtr = d.freeCtr := rfl
@[simp] theorem Dev.modSession_link (n : Nat) (f : Session → Session) (d : Dev) : (d.modSession n f).link = d.link := rfl
@[simp] theorem Dev.modSession_mem (n : Nat) (f : Session → Session) (d : Dev) : (d.modSession n f).mem = d.mem := rfl
@[simp] theorem Dev.modSession_num (n : Nat) (f : Session → Session) (d : Dev) : (d.modSession n f).num = d.num := rfl
@[simp] theorem Dev.modSession_progs (n : Nat) (f : Session → Session) (d : Dev) : (d.modSession n f).progs = d.progs := rfl
@[simp] theorem Dev.modSession_launches (n : Nat) (f : Session → Session) (d : Dev) : (d.modSession n f).launches = d.launches := rfl
@[simp] theorem Dev.modSession_nextLaunch (n : Nat) (f : Session → Session) (d : Dev) : (d.modSession n f).nextLaunch = d.nextLaunch := rfl
@[simp] theorem Dev.modSession_cx (n : Nat) (f : Session → Session) (d : Dev) : (d.modSession n f).cx = d.cx := rfl
@[simp] theorem Dev.modSession_fn (n : Nat) (f : Session → Session) (d : Dev) : (d.modSession n f).fn = d.fn := rfl
@[simp] theorem Dev.modSession_tier (n : Nat) (f : Session → Session) (d : Dev) : (d.modSession n f).tier = d.tier := rfl
@[simp] theorem Dev.modSession_kilns (n : Nat) (f : Session → Session) (d : Dev) : (d.modSession n f).kilns = d.kilns := rfl
@[simp] theorem Dev.modSession_wheels (n : Nat) (f : Session → Session) (d : Dev) : (d.modSession n f).wheels = d.wheels := rfl
@[simp] theorem Dev.modSession_media (n : Nat) (f : Session → Session) (d : Dev) : (d.modSession n f).media = { d.media with sessions := updFirst (fun s => s.num == n) f d.media.sessions } := rfl
@[simp] theorem Dev.modSession_fabric (n : Nat) (f : Session → Session) (d : Dev) : (d.modSession n f).fabric = d.fabric := rfl
@[simp] theorem Dev.modSession_coll (n : Nat) (f : Session → Session) (d : Dev) : (d.modSession n f).coll = d.coll := rfl
@[simp] theorem Dev.modSession_time (n : Nat) (f : Session → Session) (d : Dev) : (d.modSession n f).time = d.time := rfl
@[simp] theorem Dev.modSession_candle (n : Nat) (f : Session → Session) (d : Dev) : (d.modSession n f).candle = d.candle := rfl
@[simp] theorem Dev.modSession_power (n : Nat) (f : Session → Session) (d : Dev) : (d.modSession n f).power = d.power := rfl
@[simp] theorem Dev.modSession_pins (n : Nat) (f : Session → Session) (d : Dev) : (d.modSession n f).pins = d.pins := rfl
@[simp] theorem Dev.modSession_start (n : Nat) (f : Session → Session) (d : Dev) : (d.modSession n f).start = d.start := rfl
@[simp] theorem Dev.modSession_repair (n : Nat) (f : Session → Session) (d : Dev) : (d.modSession n f).repair = d.repair := rfl
@[simp] theorem Dev.modSession_ctrs (n : Nat) (f : Session → Session) (d : Dev) : (d.modSession n f).ctrs = d.ctrs := rfl

-- Dev.modGroup

@[simp] theorem Dev.modGroup_out (h : Nat) (f : Group → Group) (d : Dev) : (d.modGroup h f).out = d.out := rfl
@[simp] theorem Dev.modGroup_nowUs (h : Nat) (f : Group → Group) (d : Dev) : (d.modGroup h f).nowUs = d.nowUs := rfl
@[simp] theorem Dev.modGroup_freeCtr (h : Nat) (f : Group → Group) (d : Dev) : (d.modGroup h f).freeCtr = d.freeCtr := rfl
@[simp] theorem Dev.modGroup_link (h : Nat) (f : Group → Group) (d : Dev) : (d.modGroup h f).link = d.link := rfl
@[simp] theorem Dev.modGroup_mem (h : Nat) (f : Group → Group) (d : Dev) : (d.modGroup h f).mem = d.mem := rfl
@[simp] theorem Dev.modGroup_num (h : Nat) (f : Group → Group) (d : Dev) : (d.modGroup h f).num = d.num := rfl
@[simp] theorem Dev.modGroup_progs (h : Nat) (f : Group → Group) (d : Dev) : (d.modGroup h f).progs = d.progs := rfl
@[simp] theorem Dev.modGroup_launches (h : Nat) (f : Group → Group) (d : Dev) : (d.modGroup h f).launches = d.launches := rfl
@[simp] theorem Dev.modGroup_nextLaunch (h : Nat) (f : Group → Group) (d : Dev) : (d.modGroup h f).nextLaunch = d.nextLaunch := rfl
@[simp] theorem Dev.modGroup_cx (h : Nat) (f : Group → Group) (d : Dev) : (d.modGroup h f).cx = d.cx := rfl
@[simp] theorem Dev.modGroup_fn (h : Nat) (f : Group → Group) (d : Dev) : (d.modGroup h f).fn = d.fn := rfl
@[simp] theorem Dev.modGroup_tier (h : Nat) (f : Group → Group) (d : Dev) : (d.modGroup h f).tier = d.tier := rfl
@[simp] theorem Dev.modGroup_kilns (h : Nat) (f : Group → Group) (d : Dev) : (d.modGroup h f).kilns = d.kilns := rfl
@[simp] theorem Dev.modGroup_wheels (h : Nat) (f : Group → Group) (d : Dev) : (d.modGroup h f).wheels = d.wheels := rfl
@[simp] theorem Dev.modGroup_media (h : Nat) (f : Group → Group) (d : Dev) : (d.modGroup h f).media = d.media := rfl
@[simp] theorem Dev.modGroup_fabric (h : Nat) (f : Group → Group) (d : Dev) : (d.modGroup h f).fabric = d.fabric := rfl
@[simp] theorem Dev.modGroup_coll (h : Nat) (f : Group → Group) (d : Dev) : (d.modGroup h f).coll = { d.coll with groups := updFirst (fun g => g.handle == h) f d.coll.groups } := rfl
@[simp] theorem Dev.modGroup_time (h : Nat) (f : Group → Group) (d : Dev) : (d.modGroup h f).time = d.time := rfl
@[simp] theorem Dev.modGroup_candle (h : Nat) (f : Group → Group) (d : Dev) : (d.modGroup h f).candle = d.candle := rfl
@[simp] theorem Dev.modGroup_power (h : Nat) (f : Group → Group) (d : Dev) : (d.modGroup h f).power = d.power := rfl
@[simp] theorem Dev.modGroup_pins (h : Nat) (f : Group → Group) (d : Dev) : (d.modGroup h f).pins = d.pins := rfl
@[simp] theorem Dev.modGroup_start (h : Nat) (f : Group → Group) (d : Dev) : (d.modGroup h f).start = d.start := rfl
@[simp] theorem Dev.modGroup_repair (h : Nat) (f : Group → Group) (d : Dev) : (d.modGroup h f).repair = d.repair := rfl
@[simp] theorem Dev.modGroup_ctrs (h : Nat) (f : Group → Group) (d : Dev) : (d.modGroup h f).ctrs = d.ctrs := rfl

-- Dev.modWindow

@[simp] theorem Dev.modWindow_out (n : Fin 8) (f : Window → Window) (d : Dev) : (d.modWindow n f).out = d.out := rfl
@[simp] theorem Dev.modWindow_nowUs (n : Fin 8) (f : Window → Window) (d : Dev) : (d.modWindow n f).nowUs = d.nowUs := rfl
@[simp] theorem Dev.modWindow_freeCtr (n : Fin 8) (f : Window → Window) (d : Dev) : (d.modWindow n f).freeCtr = d.freeCtr := rfl
@[simp] theorem Dev.modWindow_link (n : Fin 8) (f : Window → Window) (d : Dev) : (d.modWindow n f).link = d.link := rfl
@[simp] theorem Dev.modWindow_mem (n : Fin 8) (f : Window → Window) (d : Dev) : (d.modWindow n f).mem = d.mem := rfl
@[simp] theorem Dev.modWindow_num (n : Fin 8) (f : Window → Window) (d : Dev) : (d.modWindow n f).num = d.num := rfl
@[simp] theorem Dev.modWindow_progs (n : Fin 8) (f : Window → Window) (d : Dev) : (d.modWindow n f).progs = d.progs := rfl
@[simp] theorem Dev.modWindow_launches (n : Fin 8) (f : Window → Window) (d : Dev) : (d.modWindow n f).launches = d.launches := rfl
@[simp] theorem Dev.modWindow_nextLaunch (n : Fin 8) (f : Window → Window) (d : Dev) : (d.modWindow n f).nextLaunch = d.nextLaunch := rfl
@[simp] theorem Dev.modWindow_cx (n : Fin 8) (f : Window → Window) (d : Dev) : (d.modWindow n f).cx = d.cx := rfl
@[simp] theorem Dev.modWindow_fn (n : Fin 8) (f : Window → Window) (d : Dev) : (d.modWindow n f).fn = d.fn := rfl
@[simp] theorem Dev.modWindow_tier (n : Fin 8) (f : Window → Window) (d : Dev) : (d.modWindow n f).tier = { d.tier with windows := updFirst (fun (w : Window) => w.num == n) f d.tier.windows } := rfl
@[simp] theorem Dev.modWindow_kilns (n : Fin 8) (f : Window → Window) (d : Dev) : (d.modWindow n f).kilns = d.kilns := rfl
@[simp] theorem Dev.modWindow_wheels (n : Fin 8) (f : Window → Window) (d : Dev) : (d.modWindow n f).wheels = d.wheels := rfl
@[simp] theorem Dev.modWindow_media (n : Fin 8) (f : Window → Window) (d : Dev) : (d.modWindow n f).media = d.media := rfl
@[simp] theorem Dev.modWindow_fabric (n : Fin 8) (f : Window → Window) (d : Dev) : (d.modWindow n f).fabric = d.fabric := rfl
@[simp] theorem Dev.modWindow_coll (n : Fin 8) (f : Window → Window) (d : Dev) : (d.modWindow n f).coll = d.coll := rfl
@[simp] theorem Dev.modWindow_time (n : Fin 8) (f : Window → Window) (d : Dev) : (d.modWindow n f).time = d.time := rfl
@[simp] theorem Dev.modWindow_candle (n : Fin 8) (f : Window → Window) (d : Dev) : (d.modWindow n f).candle = d.candle := rfl
@[simp] theorem Dev.modWindow_power (n : Fin 8) (f : Window → Window) (d : Dev) : (d.modWindow n f).power = d.power := rfl
@[simp] theorem Dev.modWindow_pins (n : Fin 8) (f : Window → Window) (d : Dev) : (d.modWindow n f).pins = d.pins := rfl
@[simp] theorem Dev.modWindow_start (n : Fin 8) (f : Window → Window) (d : Dev) : (d.modWindow n f).start = d.start := rfl
@[simp] theorem Dev.modWindow_repair (n : Fin 8) (f : Window → Window) (d : Dev) : (d.modWindow n f).repair = d.repair := rfl
@[simp] theorem Dev.modWindow_ctrs (n : Fin 8) (f : Window → Window) (d : Dev) : (d.modWindow n f).ctrs = d.ctrs := rfl

-- Dev.modFlash

@[simp] theorem Dev.modFlash_out (f : Flash → Flash) (d : Dev) : (d.modFlash f).out = d.out := rfl
@[simp] theorem Dev.modFlash_nowUs (f : Flash → Flash) (d : Dev) : (d.modFlash f).nowUs = d.nowUs := rfl
@[simp] theorem Dev.modFlash_freeCtr (f : Flash → Flash) (d : Dev) : (d.modFlash f).freeCtr = d.freeCtr := rfl
@[simp] theorem Dev.modFlash_link (f : Flash → Flash) (d : Dev) : (d.modFlash f).link = d.link := rfl
@[simp] theorem Dev.modFlash_mem (f : Flash → Flash) (d : Dev) : (d.modFlash f).mem = d.mem := rfl
@[simp] theorem Dev.modFlash_num (f : Flash → Flash) (d : Dev) : (d.modFlash f).num = d.num := rfl
@[simp] theorem Dev.modFlash_progs (f : Flash → Flash) (d : Dev) : (d.modFlash f).progs = d.progs := rfl
@[simp] theorem Dev.modFlash_launches (f : Flash → Flash) (d : Dev) : (d.modFlash f).launches = d.launches := rfl
@[simp] theorem Dev.modFlash_nextLaunch (f : Flash → Flash) (d : Dev) : (d.modFlash f).nextLaunch = d.nextLaunch := rfl
@[simp] theorem Dev.modFlash_cx (f : Flash → Flash) (d : Dev) : (d.modFlash f).cx = d.cx := rfl
@[simp] theorem Dev.modFlash_fn (f : Flash → Flash) (d : Dev) : (d.modFlash f).fn = d.fn := rfl
@[simp] theorem Dev.modFlash_tier (f : Flash → Flash) (d : Dev) : (d.modFlash f).tier = d.tier := rfl
@[simp] theorem Dev.modFlash_kilns (f : Flash → Flash) (d : Dev) : (d.modFlash f).kilns = d.kilns := rfl
@[simp] theorem Dev.modFlash_wheels (f : Flash → Flash) (d : Dev) : (d.modFlash f).wheels = d.wheels := rfl
@[simp] theorem Dev.modFlash_media (f : Flash → Flash) (d : Dev) : (d.modFlash f).media = d.media := rfl
@[simp] theorem Dev.modFlash_fabric (f : Flash → Flash) (d : Dev) : (d.modFlash f).fabric = d.fabric := rfl
@[simp] theorem Dev.modFlash_coll (f : Flash → Flash) (d : Dev) : (d.modFlash f).coll = d.coll := rfl
@[simp] theorem Dev.modFlash_time (f : Flash → Flash) (d : Dev) : (d.modFlash f).time = d.time := rfl
@[simp] theorem Dev.modFlash_candle (f : Flash → Flash) (d : Dev) : (d.modFlash f).candle = d.candle := rfl
@[simp] theorem Dev.modFlash_power (f : Flash → Flash) (d : Dev) : (d.modFlash f).power = d.power := rfl
@[simp] theorem Dev.modFlash_pins (f : Flash → Flash) (d : Dev) : (d.modFlash f).pins = d.pins := rfl
@[simp] theorem Dev.modFlash_start (f : Flash → Flash) (d : Dev) : (d.modFlash f).start = { d.start with flash := f d.start.flash } := rfl
@[simp] theorem Dev.modFlash_repair (f : Flash → Flash) (d : Dev) : (d.modFlash f).repair = d.repair := rfl
@[simp] theorem Dev.modFlash_ctrs (f : Flash → Flash) (d : Dev) : (d.modFlash f).ctrs = d.ctrs := rfl

-- Dev.setLamp

@[simp] theorem Dev.setLamp_out (c : Fin 9) (l : Lamp) (d : Dev) : (d.setLamp c l).out = d.out := rfl
@[simp] theorem Dev.setLamp_nowUs (c : Fin 9) (l : Lamp) (d : Dev) : (d.setLamp c l).nowUs = d.nowUs := rfl
@[simp] theorem Dev.setLamp_freeCtr (c : Fin 9) (l : Lamp) (d : Dev) : (d.setLamp c l).freeCtr = d.freeCtr := rfl
@[simp] theorem Dev.setLamp_link (c : Fin 9) (l : Lamp) (d : Dev) : (d.setLamp c l).link = d.link := rfl
@[simp] theorem Dev.setLamp_mem (c : Fin 9) (l : Lamp) (d : Dev) : (d.setLamp c l).mem = d.mem := rfl
@[simp] theorem Dev.setLamp_num (c : Fin 9) (l : Lamp) (d : Dev) : (d.setLamp c l).num = d.num := rfl
@[simp] theorem Dev.setLamp_progs (c : Fin 9) (l : Lamp) (d : Dev) : (d.setLamp c l).progs = d.progs := rfl
@[simp] theorem Dev.setLamp_launches (c : Fin 9) (l : Lamp) (d : Dev) : (d.setLamp c l).launches = d.launches := rfl
@[simp] theorem Dev.setLamp_nextLaunch (c : Fin 9) (l : Lamp) (d : Dev) : (d.setLamp c l).nextLaunch = d.nextLaunch := rfl
@[simp] theorem Dev.setLamp_cx (c : Fin 9) (l : Lamp) (d : Dev) : (d.setLamp c l).cx = d.cx := rfl
@[simp] theorem Dev.setLamp_fn (c : Fin 9) (l : Lamp) (d : Dev) : (d.setLamp c l).fn = d.fn := rfl
@[simp] theorem Dev.setLamp_tier (c : Fin 9) (l : Lamp) (d : Dev) : (d.setLamp c l).tier = d.tier := rfl
@[simp] theorem Dev.setLamp_kilns (c : Fin 9) (l : Lamp) (d : Dev) : (d.setLamp c l).kilns = d.kilns := rfl
@[simp] theorem Dev.setLamp_wheels (c : Fin 9) (l : Lamp) (d : Dev) : (d.setLamp c l).wheels = d.wheels := rfl
@[simp] theorem Dev.setLamp_media (c : Fin 9) (l : Lamp) (d : Dev) : (d.setLamp c l).media = d.media := rfl
@[simp] theorem Dev.setLamp_fabric (c : Fin 9) (l : Lamp) (d : Dev) : (d.setLamp c l).fabric = d.fabric := rfl
@[simp] theorem Dev.setLamp_coll (c : Fin 9) (l : Lamp) (d : Dev) : (d.setLamp c l).coll = d.coll := rfl
@[simp] theorem Dev.setLamp_time (c : Fin 9) (l : Lamp) (d : Dev) : (d.setLamp c l).time = d.time := rfl
@[simp] theorem Dev.setLamp_candle (c : Fin 9) (l : Lamp) (d : Dev) : (d.setLamp c l).candle = d.candle := rfl
@[simp] theorem Dev.setLamp_power (c : Fin 9) (l : Lamp) (d : Dev) : (d.setLamp c l).power = d.power := rfl
@[simp] theorem Dev.setLamp_pins (c : Fin 9) (l : Lamp) (d : Dev) : (d.setLamp c l).pins = d.pins := rfl
@[simp] theorem Dev.setLamp_start (c : Fin 9) (l : Lamp) (d : Dev) : (d.setLamp c l).start = d.start := rfl
@[simp] theorem Dev.setLamp_repair (c : Fin 9) (l : Lamp) (d : Dev) : (d.setLamp c l).repair = { d.repair with lamps := d.repair.lamps.set c l } := rfl
@[simp] theorem Dev.setLamp_ctrs (c : Fin 9) (l : Lamp) (d : Dev) : (d.setLamp c l).ctrs = d.ctrs := rfl

-- Dev.modPort

@[simp] theorem Dev.modPort_out (p : Fin 128) (f : Port → Port) (d : Dev) : (d.modPort p f).out = d.out := rfl
@[simp] theorem Dev.modPort_nowUs (p : Fin 128) (f : Port → Port) (d : Dev) : (d.modPort p f).nowUs = d.nowUs := rfl
@[simp] theorem Dev.modPort_freeCtr (p : Fin 128) (f : Port → Port) (d : Dev) : (d.modPort p f).freeCtr = d.freeCtr := rfl
@[simp] theorem Dev.modPort_link (p : Fin 128) (f : Port → Port) (d : Dev) : (d.modPort p f).link = d.link := rfl
@[simp] theorem Dev.modPort_mem (p : Fin 128) (f : Port → Port) (d : Dev) : (d.modPort p f).mem = d.mem := rfl
@[simp] theorem Dev.modPort_num (p : Fin 128) (f : Port → Port) (d : Dev) : (d.modPort p f).num = d.num := rfl
@[simp] theorem Dev.modPort_progs (p : Fin 128) (f : Port → Port) (d : Dev) : (d.modPort p f).progs = d.progs := rfl
@[simp] theorem Dev.modPort_launches (p : Fin 128) (f : Port → Port) (d : Dev) : (d.modPort p f).launches = d.launches := rfl
@[simp] theorem Dev.modPort_nextLaunch (p : Fin 128) (f : Port → Port) (d : Dev) : (d.modPort p f).nextLaunch = d.nextLaunch := rfl
@[simp] theorem Dev.modPort_cx (p : Fin 128) (f : Port → Port) (d : Dev) : (d.modPort p f).cx = d.cx := rfl
@[simp] theorem Dev.modPort_fn (p : Fin 128) (f : Port → Port) (d : Dev) : (d.modPort p f).fn = d.fn := rfl
@[simp] theorem Dev.modPort_tier (p : Fin 128) (f : Port → Port) (d : Dev) : (d.modPort p f).tier = d.tier := rfl
@[simp] theorem Dev.modPort_kilns (p : Fin 128) (f : Port → Port) (d : Dev) : (d.modPort p f).kilns = d.kilns := rfl
@[simp] theorem Dev.modPort_wheels (p : Fin 128) (f : Port → Port) (d : Dev) : (d.modPort p f).wheels = d.wheels := rfl
@[simp] theorem Dev.modPort_media (p : Fin 128) (f : Port → Port) (d : Dev) : (d.modPort p f).media = d.media := rfl
@[simp] theorem Dev.modPort_fabric (p : Fin 128) (f : Port → Port) (d : Dev) : (d.modPort p f).fabric = { d.fabric with ports := d.fabric.ports.set p (f (d.port p)) } := rfl
@[simp] theorem Dev.modPort_coll (p : Fin 128) (f : Port → Port) (d : Dev) : (d.modPort p f).coll = d.coll := rfl
@[simp] theorem Dev.modPort_time (p : Fin 128) (f : Port → Port) (d : Dev) : (d.modPort p f).time = d.time := rfl
@[simp] theorem Dev.modPort_candle (p : Fin 128) (f : Port → Port) (d : Dev) : (d.modPort p f).candle = d.candle := rfl
@[simp] theorem Dev.modPort_power (p : Fin 128) (f : Port → Port) (d : Dev) : (d.modPort p f).power = d.power := rfl
@[simp] theorem Dev.modPort_pins (p : Fin 128) (f : Port → Port) (d : Dev) : (d.modPort p f).pins = d.pins := rfl
@[simp] theorem Dev.modPort_start (p : Fin 128) (f : Port → Port) (d : Dev) : (d.modPort p f).start = d.start := rfl
@[simp] theorem Dev.modPort_repair (p : Fin 128) (f : Port → Port) (d : Dev) : (d.modPort p f).repair = d.repair := rfl
@[simp] theorem Dev.modPort_ctrs (p : Fin 128) (f : Port → Port) (d : Dev) : (d.modPort p f).ctrs = d.ctrs := rfl

-- Dev.modStream

@[simp] theorem Dev.modStream_out (k : Fin 32) (f : Stream → Stream) (d : Dev) : (d.modStream k f).out = d.out := rfl
@[simp] theorem Dev.modStream_nowUs (k : Fin 32) (f : Stream → Stream) (d : Dev) : (d.modStream k f).nowUs = d.nowUs := rfl
@[simp] theorem Dev.modStream_freeCtr (k : Fin 32) (f : Stream → Stream) (d : Dev) : (d.modStream k f).freeCtr = d.freeCtr := rfl
@[simp] theorem Dev.modStream_link (k : Fin 32) (f : Stream → Stream) (d : Dev) : (d.modStream k f).link = d.link := rfl
@[simp] theorem Dev.modStream_mem (k : Fin 32) (f : Stream → Stream) (d : Dev) : (d.modStream k f).mem = d.mem := rfl
@[simp] theorem Dev.modStream_num (k : Fin 32) (f : Stream → Stream) (d : Dev) : (d.modStream k f).num = d.num := rfl
@[simp] theorem Dev.modStream_progs (k : Fin 32) (f : Stream → Stream) (d : Dev) : (d.modStream k f).progs = d.progs := rfl
@[simp] theorem Dev.modStream_launches (k : Fin 32) (f : Stream → Stream) (d : Dev) : (d.modStream k f).launches = d.launches := rfl
@[simp] theorem Dev.modStream_nextLaunch (k : Fin 32) (f : Stream → Stream) (d : Dev) : (d.modStream k f).nextLaunch = d.nextLaunch := rfl
@[simp] theorem Dev.modStream_cx (k : Fin 32) (f : Stream → Stream) (d : Dev) : (d.modStream k f).cx = d.cx := rfl
@[simp] theorem Dev.modStream_fn (k : Fin 32) (f : Stream → Stream) (d : Dev) : (d.modStream k f).fn = d.fn := rfl
@[simp] theorem Dev.modStream_tier (k : Fin 32) (f : Stream → Stream) (d : Dev) : (d.modStream k f).tier = d.tier := rfl
@[simp] theorem Dev.modStream_kilns (k : Fin 32) (f : Stream → Stream) (d : Dev) : (d.modStream k f).kilns = d.kilns := rfl
@[simp] theorem Dev.modStream_wheels (k : Fin 32) (f : Stream → Stream) (d : Dev) : (d.modStream k f).wheels = d.wheels := rfl
@[simp] theorem Dev.modStream_media (k : Fin 32) (f : Stream → Stream) (d : Dev) : (d.modStream k f).media = d.media := rfl
@[simp] theorem Dev.modStream_fabric (k : Fin 32) (f : Stream → Stream) (d : Dev) : (d.modStream k f).fabric = d.fabric := rfl
@[simp] theorem Dev.modStream_coll (k : Fin 32) (f : Stream → Stream) (d : Dev) : (d.modStream k f).coll = d.coll := rfl
@[simp] theorem Dev.modStream_time (k : Fin 32) (f : Stream → Stream) (d : Dev) : (d.modStream k f).time = d.time := rfl
@[simp] theorem Dev.modStream_candle (k : Fin 32) (f : Stream → Stream) (d : Dev) : (d.modStream k f).candle = { d.candle with streams := d.candle.streams.set k (f (d.stream k)) } := rfl
@[simp] theorem Dev.modStream_power (k : Fin 32) (f : Stream → Stream) (d : Dev) : (d.modStream k f).power = d.power := rfl
@[simp] theorem Dev.modStream_pins (k : Fin 32) (f : Stream → Stream) (d : Dev) : (d.modStream k f).pins = d.pins := rfl
@[simp] theorem Dev.modStream_start (k : Fin 32) (f : Stream → Stream) (d : Dev) : (d.modStream k f).start = d.start := rfl
@[simp] theorem Dev.modStream_repair (k : Fin 32) (f : Stream → Stream) (d : Dev) : (d.modStream k f).repair = d.repair := rfl
@[simp] theorem Dev.modStream_ctrs (k : Fin 32) (f : Stream → Stream) (d : Dev) : (d.modStream k f).ctrs = d.ctrs := rfl

-- Dev.modOp

@[simp] theorem Dev.modOp_out (id : Nat) (f : CollOp → CollOp) (d : Dev) : (d.modOp id f).out = d.out := rfl
@[simp] theorem Dev.modOp_nowUs (id : Nat) (f : CollOp → CollOp) (d : Dev) : (d.modOp id f).nowUs = d.nowUs := rfl
@[simp] theorem Dev.modOp_freeCtr (id : Nat) (f : CollOp → CollOp) (d : Dev) : (d.modOp id f).freeCtr = d.freeCtr := rfl
@[simp] theorem Dev.modOp_link (id : Nat) (f : CollOp → CollOp) (d : Dev) : (d.modOp id f).link = d.link := rfl
@[simp] theorem Dev.modOp_mem (id : Nat) (f : CollOp → CollOp) (d : Dev) : (d.modOp id f).mem = d.mem := rfl
@[simp] theorem Dev.modOp_num (id : Nat) (f : CollOp → CollOp) (d : Dev) : (d.modOp id f).num = d.num := rfl
@[simp] theorem Dev.modOp_progs (id : Nat) (f : CollOp → CollOp) (d : Dev) : (d.modOp id f).progs = d.progs := rfl
@[simp] theorem Dev.modOp_launches (id : Nat) (f : CollOp → CollOp) (d : Dev) : (d.modOp id f).launches = d.launches := rfl
@[simp] theorem Dev.modOp_nextLaunch (id : Nat) (f : CollOp → CollOp) (d : Dev) : (d.modOp id f).nextLaunch = d.nextLaunch := rfl
@[simp] theorem Dev.modOp_cx (id : Nat) (f : CollOp → CollOp) (d : Dev) : (d.modOp id f).cx = d.cx := rfl
@[simp] theorem Dev.modOp_fn (id : Nat) (f : CollOp → CollOp) (d : Dev) : (d.modOp id f).fn = d.fn := rfl
@[simp] theorem Dev.modOp_tier (id : Nat) (f : CollOp → CollOp) (d : Dev) : (d.modOp id f).tier = d.tier := rfl
@[simp] theorem Dev.modOp_kilns (id : Nat) (f : CollOp → CollOp) (d : Dev) : (d.modOp id f).kilns = d.kilns := rfl
@[simp] theorem Dev.modOp_wheels (id : Nat) (f : CollOp → CollOp) (d : Dev) : (d.modOp id f).wheels = d.wheels := rfl
@[simp] theorem Dev.modOp_media (id : Nat) (f : CollOp → CollOp) (d : Dev) : (d.modOp id f).media = d.media := rfl
@[simp] theorem Dev.modOp_fabric (id : Nat) (f : CollOp → CollOp) (d : Dev) : (d.modOp id f).fabric = d.fabric := rfl
@[simp] theorem Dev.modOp_coll (id : Nat) (f : CollOp → CollOp) (d : Dev) : (d.modOp id f).coll = { d.coll with ops := updFirst (fun o => o.id == id) f d.coll.ops } := rfl
@[simp] theorem Dev.modOp_time (id : Nat) (f : CollOp → CollOp) (d : Dev) : (d.modOp id f).time = d.time := rfl
@[simp] theorem Dev.modOp_candle (id : Nat) (f : CollOp → CollOp) (d : Dev) : (d.modOp id f).candle = d.candle := rfl
@[simp] theorem Dev.modOp_power (id : Nat) (f : CollOp → CollOp) (d : Dev) : (d.modOp id f).power = d.power := rfl
@[simp] theorem Dev.modOp_pins (id : Nat) (f : CollOp → CollOp) (d : Dev) : (d.modOp id f).pins = d.pins := rfl
@[simp] theorem Dev.modOp_start (id : Nat) (f : CollOp → CollOp) (d : Dev) : (d.modOp id f).start = d.start := rfl
@[simp] theorem Dev.modOp_repair (id : Nat) (f : CollOp → CollOp) (d : Dev) : (d.modOp id f).repair = d.repair := rfl
@[simp] theorem Dev.modOp_ctrs (id : Nat) (f : CollOp → CollOp) (d : Dev) : (d.modOp id f).ctrs = d.ctrs := rfl

-- Dev.modJob

@[simp] theorem Dev.modJob_out (id : Nat) (f : GradJob → GradJob) (d : Dev) : (d.modJob id f).out = d.out := rfl
@[simp] theorem Dev.modJob_nowUs (id : Nat) (f : GradJob → GradJob) (d : Dev) : (d.modJob id f).nowUs = d.nowUs := rfl
@[simp] theorem Dev.modJob_freeCtr (id : Nat) (f : GradJob → GradJob) (d : Dev) : (d.modJob id f).freeCtr = d.freeCtr := rfl
@[simp] theorem Dev.modJob_link (id : Nat) (f : GradJob → GradJob) (d : Dev) : (d.modJob id f).link = d.link := rfl
@[simp] theorem Dev.modJob_mem (id : Nat) (f : GradJob → GradJob) (d : Dev) : (d.modJob id f).mem = d.mem := rfl
@[simp] theorem Dev.modJob_num (id : Nat) (f : GradJob → GradJob) (d : Dev) : (d.modJob id f).num = d.num := rfl
@[simp] theorem Dev.modJob_progs (id : Nat) (f : GradJob → GradJob) (d : Dev) : (d.modJob id f).progs = d.progs := rfl
@[simp] theorem Dev.modJob_launches (id : Nat) (f : GradJob → GradJob) (d : Dev) : (d.modJob id f).launches = d.launches := rfl
@[simp] theorem Dev.modJob_nextLaunch (id : Nat) (f : GradJob → GradJob) (d : Dev) : (d.modJob id f).nextLaunch = d.nextLaunch := rfl
@[simp] theorem Dev.modJob_cx (id : Nat) (f : GradJob → GradJob) (d : Dev) : (d.modJob id f).cx = d.cx := rfl
@[simp] theorem Dev.modJob_fn (id : Nat) (f : GradJob → GradJob) (d : Dev) : (d.modJob id f).fn = d.fn := rfl
@[simp] theorem Dev.modJob_tier (id : Nat) (f : GradJob → GradJob) (d : Dev) : (d.modJob id f).tier = d.tier := rfl
@[simp] theorem Dev.modJob_kilns (id : Nat) (f : GradJob → GradJob) (d : Dev) : (d.modJob id f).kilns = d.kilns := rfl
@[simp] theorem Dev.modJob_wheels (id : Nat) (f : GradJob → GradJob) (d : Dev) : (d.modJob id f).wheels = d.wheels := rfl
@[simp] theorem Dev.modJob_media (id : Nat) (f : GradJob → GradJob) (d : Dev) : (d.modJob id f).media = d.media := rfl
@[simp] theorem Dev.modJob_fabric (id : Nat) (f : GradJob → GradJob) (d : Dev) : (d.modJob id f).fabric = d.fabric := rfl
@[simp] theorem Dev.modJob_coll (id : Nat) (f : GradJob → GradJob) (d : Dev) : (d.modJob id f).coll = { d.coll with jobs := updFirst (fun j => j.id == id) f d.coll.jobs } := rfl
@[simp] theorem Dev.modJob_time (id : Nat) (f : GradJob → GradJob) (d : Dev) : (d.modJob id f).time = d.time := rfl
@[simp] theorem Dev.modJob_candle (id : Nat) (f : GradJob → GradJob) (d : Dev) : (d.modJob id f).candle = d.candle := rfl
@[simp] theorem Dev.modJob_power (id : Nat) (f : GradJob → GradJob) (d : Dev) : (d.modJob id f).power = d.power := rfl
@[simp] theorem Dev.modJob_pins (id : Nat) (f : GradJob → GradJob) (d : Dev) : (d.modJob id f).pins = d.pins := rfl
@[simp] theorem Dev.modJob_start (id : Nat) (f : GradJob → GradJob) (d : Dev) : (d.modJob id f).start = d.start := rfl
@[simp] theorem Dev.modJob_repair (id : Nat) (f : GradJob → GradJob) (d : Dev) : (d.modJob id f).repair = d.repair := rfl
@[simp] theorem Dev.modJob_ctrs (id : Nat) (f : GradJob → GradJob) (d : Dev) : (d.modJob id f).ctrs = d.ctrs := rfl

-- Dev.modRed

@[simp] theorem Dev.modRed_out (l : Fin 4) (f : RedUnit → RedUnit) (d : Dev) : (d.modRed l f).out = d.out := rfl
@[simp] theorem Dev.modRed_nowUs (l : Fin 4) (f : RedUnit → RedUnit) (d : Dev) : (d.modRed l f).nowUs = d.nowUs := rfl
@[simp] theorem Dev.modRed_freeCtr (l : Fin 4) (f : RedUnit → RedUnit) (d : Dev) : (d.modRed l f).freeCtr = d.freeCtr := rfl
@[simp] theorem Dev.modRed_link (l : Fin 4) (f : RedUnit → RedUnit) (d : Dev) : (d.modRed l f).link = d.link := rfl
@[simp] theorem Dev.modRed_mem (l : Fin 4) (f : RedUnit → RedUnit) (d : Dev) : (d.modRed l f).mem = d.mem := rfl
@[simp] theorem Dev.modRed_num (l : Fin 4) (f : RedUnit → RedUnit) (d : Dev) : (d.modRed l f).num = d.num := rfl
@[simp] theorem Dev.modRed_progs (l : Fin 4) (f : RedUnit → RedUnit) (d : Dev) : (d.modRed l f).progs = d.progs := rfl
@[simp] theorem Dev.modRed_launches (l : Fin 4) (f : RedUnit → RedUnit) (d : Dev) : (d.modRed l f).launches = d.launches := rfl
@[simp] theorem Dev.modRed_nextLaunch (l : Fin 4) (f : RedUnit → RedUnit) (d : Dev) : (d.modRed l f).nextLaunch = d.nextLaunch := rfl
@[simp] theorem Dev.modRed_cx (l : Fin 4) (f : RedUnit → RedUnit) (d : Dev) : (d.modRed l f).cx = d.cx := rfl
@[simp] theorem Dev.modRed_fn (l : Fin 4) (f : RedUnit → RedUnit) (d : Dev) : (d.modRed l f).fn = d.fn := rfl
@[simp] theorem Dev.modRed_tier (l : Fin 4) (f : RedUnit → RedUnit) (d : Dev) : (d.modRed l f).tier = d.tier := rfl
@[simp] theorem Dev.modRed_kilns (l : Fin 4) (f : RedUnit → RedUnit) (d : Dev) : (d.modRed l f).kilns = d.kilns := rfl
@[simp] theorem Dev.modRed_wheels (l : Fin 4) (f : RedUnit → RedUnit) (d : Dev) : (d.modRed l f).wheels = d.wheels := rfl
@[simp] theorem Dev.modRed_media (l : Fin 4) (f : RedUnit → RedUnit) (d : Dev) : (d.modRed l f).media = d.media := rfl
@[simp] theorem Dev.modRed_fabric (l : Fin 4) (f : RedUnit → RedUnit) (d : Dev) : (d.modRed l f).fabric = d.fabric := rfl
@[simp] theorem Dev.modRed_coll (l : Fin 4) (f : RedUnit → RedUnit) (d : Dev) : (d.modRed l f).coll = { d.coll with red := vmod d.coll.red l f } := rfl
@[simp] theorem Dev.modRed_time (l : Fin 4) (f : RedUnit → RedUnit) (d : Dev) : (d.modRed l f).time = d.time := rfl
@[simp] theorem Dev.modRed_candle (l : Fin 4) (f : RedUnit → RedUnit) (d : Dev) : (d.modRed l f).candle = d.candle := rfl
@[simp] theorem Dev.modRed_power (l : Fin 4) (f : RedUnit → RedUnit) (d : Dev) : (d.modRed l f).power = d.power := rfl
@[simp] theorem Dev.modRed_pins (l : Fin 4) (f : RedUnit → RedUnit) (d : Dev) : (d.modRed l f).pins = d.pins := rfl
@[simp] theorem Dev.modRed_start (l : Fin 4) (f : RedUnit → RedUnit) (d : Dev) : (d.modRed l f).start = d.start := rfl
@[simp] theorem Dev.modRed_repair (l : Fin 4) (f : RedUnit → RedUnit) (d : Dev) : (d.modRed l f).repair = d.repair := rfl
@[simp] theorem Dev.modRed_ctrs (l : Fin 4) (f : RedUnit → RedUnit) (d : Dev) : (d.modRed l f).ctrs = d.ctrs := rfl

-- Dev.putSlot

@[simp] theorem Dev.putSlot_out (s : RedSlot) (d : Dev) : (d.putSlot s).out = d.out := rfl
@[simp] theorem Dev.putSlot_nowUs (s : RedSlot) (d : Dev) : (d.putSlot s).nowUs = d.nowUs := rfl
@[simp] theorem Dev.putSlot_freeCtr (s : RedSlot) (d : Dev) : (d.putSlot s).freeCtr = d.freeCtr := rfl
@[simp] theorem Dev.putSlot_link (s : RedSlot) (d : Dev) : (d.putSlot s).link = d.link := rfl
@[simp] theorem Dev.putSlot_mem (s : RedSlot) (d : Dev) : (d.putSlot s).mem = d.mem := rfl
@[simp] theorem Dev.putSlot_num (s : RedSlot) (d : Dev) : (d.putSlot s).num = d.num := rfl
@[simp] theorem Dev.putSlot_progs (s : RedSlot) (d : Dev) : (d.putSlot s).progs = d.progs := rfl
@[simp] theorem Dev.putSlot_launches (s : RedSlot) (d : Dev) : (d.putSlot s).launches = d.launches := rfl
@[simp] theorem Dev.putSlot_nextLaunch (s : RedSlot) (d : Dev) : (d.putSlot s).nextLaunch = d.nextLaunch := rfl
@[simp] theorem Dev.putSlot_cx (s : RedSlot) (d : Dev) : (d.putSlot s).cx = d.cx := rfl
@[simp] theorem Dev.putSlot_fn (s : RedSlot) (d : Dev) : (d.putSlot s).fn = d.fn := rfl
@[simp] theorem Dev.putSlot_tier (s : RedSlot) (d : Dev) : (d.putSlot s).tier = d.tier := rfl
@[simp] theorem Dev.putSlot_kilns (s : RedSlot) (d : Dev) : (d.putSlot s).kilns = d.kilns := rfl
@[simp] theorem Dev.putSlot_wheels (s : RedSlot) (d : Dev) : (d.putSlot s).wheels = d.wheels := rfl
@[simp] theorem Dev.putSlot_media (s : RedSlot) (d : Dev) : (d.putSlot s).media = d.media := rfl
@[simp] theorem Dev.putSlot_fabric (s : RedSlot) (d : Dev) : (d.putSlot s).fabric = d.fabric := rfl
@[simp] theorem Dev.putSlot_time (s : RedSlot) (d : Dev) : (d.putSlot s).time = d.time := rfl
@[simp] theorem Dev.putSlot_candle (s : RedSlot) (d : Dev) : (d.putSlot s).candle = d.candle := rfl
@[simp] theorem Dev.putSlot_power (s : RedSlot) (d : Dev) : (d.putSlot s).power = d.power := rfl
@[simp] theorem Dev.putSlot_pins (s : RedSlot) (d : Dev) : (d.putSlot s).pins = d.pins := rfl
@[simp] theorem Dev.putSlot_start (s : RedSlot) (d : Dev) : (d.putSlot s).start = d.start := rfl
@[simp] theorem Dev.putSlot_repair (s : RedSlot) (d : Dev) : (d.putSlot s).repair = d.repair := rfl
@[simp] theorem Dev.putSlot_ctrs (s : RedSlot) (d : Dev) : (d.putSlot s).ctrs = d.ctrs := rfl

-- Dev.modMediaJob

@[simp] theorem Dev.modMediaJob_out (id : Nat) (f : MediaJob → MediaJob) (d : Dev) : (d.modMediaJob id f).out = d.out := rfl
@[simp] theorem Dev.modMediaJob_nowUs (id : Nat) (f : MediaJob → MediaJob) (d : Dev) : (d.modMediaJob id f).nowUs = d.nowUs := rfl
@[simp] theorem Dev.modMediaJob_freeCtr (id : Nat) (f : MediaJob → MediaJob) (d : Dev) : (d.modMediaJob id f).freeCtr = d.freeCtr := rfl
@[simp] theorem Dev.modMediaJob_link (id : Nat) (f : MediaJob → MediaJob) (d : Dev) : (d.modMediaJob id f).link = d.link := rfl
@[simp] theorem Dev.modMediaJob_mem (id : Nat) (f : MediaJob → MediaJob) (d : Dev) : (d.modMediaJob id f).mem = d.mem := rfl
@[simp] theorem Dev.modMediaJob_num (id : Nat) (f : MediaJob → MediaJob) (d : Dev) : (d.modMediaJob id f).num = d.num := rfl
@[simp] theorem Dev.modMediaJob_progs (id : Nat) (f : MediaJob → MediaJob) (d : Dev) : (d.modMediaJob id f).progs = d.progs := rfl
@[simp] theorem Dev.modMediaJob_launches (id : Nat) (f : MediaJob → MediaJob) (d : Dev) : (d.modMediaJob id f).launches = d.launches := rfl
@[simp] theorem Dev.modMediaJob_nextLaunch (id : Nat) (f : MediaJob → MediaJob) (d : Dev) : (d.modMediaJob id f).nextLaunch = d.nextLaunch := rfl
@[simp] theorem Dev.modMediaJob_cx (id : Nat) (f : MediaJob → MediaJob) (d : Dev) : (d.modMediaJob id f).cx = d.cx := rfl
@[simp] theorem Dev.modMediaJob_fn (id : Nat) (f : MediaJob → MediaJob) (d : Dev) : (d.modMediaJob id f).fn = d.fn := rfl
@[simp] theorem Dev.modMediaJob_tier (id : Nat) (f : MediaJob → MediaJob) (d : Dev) : (d.modMediaJob id f).tier = d.tier := rfl
@[simp] theorem Dev.modMediaJob_kilns (id : Nat) (f : MediaJob → MediaJob) (d : Dev) : (d.modMediaJob id f).kilns = d.kilns := rfl
@[simp] theorem Dev.modMediaJob_wheels (id : Nat) (f : MediaJob → MediaJob) (d : Dev) : (d.modMediaJob id f).wheels = d.wheels := rfl
@[simp] theorem Dev.modMediaJob_media (id : Nat) (f : MediaJob → MediaJob) (d : Dev) : (d.modMediaJob id f).media = { d.media with jobs := updFirst (fun j => j.id == id) f d.media.jobs } := rfl
@[simp] theorem Dev.modMediaJob_fabric (id : Nat) (f : MediaJob → MediaJob) (d : Dev) : (d.modMediaJob id f).fabric = d.fabric := rfl
@[simp] theorem Dev.modMediaJob_coll (id : Nat) (f : MediaJob → MediaJob) (d : Dev) : (d.modMediaJob id f).coll = d.coll := rfl
@[simp] theorem Dev.modMediaJob_time (id : Nat) (f : MediaJob → MediaJob) (d : Dev) : (d.modMediaJob id f).time = d.time := rfl
@[simp] theorem Dev.modMediaJob_candle (id : Nat) (f : MediaJob → MediaJob) (d : Dev) : (d.modMediaJob id f).candle = d.candle := rfl
@[simp] theorem Dev.modMediaJob_power (id : Nat) (f : MediaJob → MediaJob) (d : Dev) : (d.modMediaJob id f).power = d.power := rfl
@[simp] theorem Dev.modMediaJob_pins (id : Nat) (f : MediaJob → MediaJob) (d : Dev) : (d.modMediaJob id f).pins = d.pins := rfl
@[simp] theorem Dev.modMediaJob_start (id : Nat) (f : MediaJob → MediaJob) (d : Dev) : (d.modMediaJob id f).start = d.start := rfl
@[simp] theorem Dev.modMediaJob_repair (id : Nat) (f : MediaJob → MediaJob) (d : Dev) : (d.modMediaJob id f).repair = d.repair := rfl
@[simp] theorem Dev.modMediaJob_ctrs (id : Nat) (f : MediaJob → MediaJob) (d : Dev) : (d.modMediaJob id f).ctrs = d.ctrs := rfl

-- Dev.modList

@[simp] theorem Dev.modList_out (cmd : Nat) (f : ListRun → ListRun) (d : Dev) : (d.modList cmd f).out = d.out := rfl
@[simp] theorem Dev.modList_nowUs (cmd : Nat) (f : ListRun → ListRun) (d : Dev) : (d.modList cmd f).nowUs = d.nowUs := rfl
@[simp] theorem Dev.modList_freeCtr (cmd : Nat) (f : ListRun → ListRun) (d : Dev) : (d.modList cmd f).freeCtr = d.freeCtr := rfl
@[simp] theorem Dev.modList_link (cmd : Nat) (f : ListRun → ListRun) (d : Dev) : (d.modList cmd f).link = d.link := rfl
@[simp] theorem Dev.modList_mem (cmd : Nat) (f : ListRun → ListRun) (d : Dev) : (d.modList cmd f).mem = d.mem := rfl
@[simp] theorem Dev.modList_num (cmd : Nat) (f : ListRun → ListRun) (d : Dev) : (d.modList cmd f).num = d.num := rfl
@[simp] theorem Dev.modList_progs (cmd : Nat) (f : ListRun → ListRun) (d : Dev) : (d.modList cmd f).progs = { d.progs with lists := updFirst (fun x => x.cmd == cmd) f d.progs.lists } := rfl
@[simp] theorem Dev.modList_launches (cmd : Nat) (f : ListRun → ListRun) (d : Dev) : (d.modList cmd f).launches = d.launches := rfl
@[simp] theorem Dev.modList_nextLaunch (cmd : Nat) (f : ListRun → ListRun) (d : Dev) : (d.modList cmd f).nextLaunch = d.nextLaunch := rfl
@[simp] theorem Dev.modList_cx (cmd : Nat) (f : ListRun → ListRun) (d : Dev) : (d.modList cmd f).cx = d.cx := rfl
@[simp] theorem Dev.modList_fn (cmd : Nat) (f : ListRun → ListRun) (d : Dev) : (d.modList cmd f).fn = d.fn := rfl
@[simp] theorem Dev.modList_tier (cmd : Nat) (f : ListRun → ListRun) (d : Dev) : (d.modList cmd f).tier = d.tier := rfl
@[simp] theorem Dev.modList_kilns (cmd : Nat) (f : ListRun → ListRun) (d : Dev) : (d.modList cmd f).kilns = d.kilns := rfl
@[simp] theorem Dev.modList_wheels (cmd : Nat) (f : ListRun → ListRun) (d : Dev) : (d.modList cmd f).wheels = d.wheels := rfl
@[simp] theorem Dev.modList_media (cmd : Nat) (f : ListRun → ListRun) (d : Dev) : (d.modList cmd f).media = d.media := rfl
@[simp] theorem Dev.modList_fabric (cmd : Nat) (f : ListRun → ListRun) (d : Dev) : (d.modList cmd f).fabric = d.fabric := rfl
@[simp] theorem Dev.modList_coll (cmd : Nat) (f : ListRun → ListRun) (d : Dev) : (d.modList cmd f).coll = d.coll := rfl
@[simp] theorem Dev.modList_time (cmd : Nat) (f : ListRun → ListRun) (d : Dev) : (d.modList cmd f).time = d.time := rfl
@[simp] theorem Dev.modList_candle (cmd : Nat) (f : ListRun → ListRun) (d : Dev) : (d.modList cmd f).candle = d.candle := rfl
@[simp] theorem Dev.modList_power (cmd : Nat) (f : ListRun → ListRun) (d : Dev) : (d.modList cmd f).power = d.power := rfl
@[simp] theorem Dev.modList_pins (cmd : Nat) (f : ListRun → ListRun) (d : Dev) : (d.modList cmd f).pins = d.pins := rfl
@[simp] theorem Dev.modList_start (cmd : Nat) (f : ListRun → ListRun) (d : Dev) : (d.modList cmd f).start = d.start := rfl
@[simp] theorem Dev.modList_repair (cmd : Nat) (f : ListRun → ListRun) (d : Dev) : (d.modList cmd f).repair = d.repair := rfl
@[simp] theorem Dev.modList_ctrs (cmd : Nat) (f : ListRun → ListRun) (d : Dev) : (d.modList cmd f).ctrs = d.ctrs := rfl

-- Dev.modPhys

@[simp] theorem Dev.modPhys_out (k : Fin 12) (p : Nat) (f : PhysTile → PhysTile) (d : Dev) : (d.modPhys k p f).out = d.out := rfl
@[simp] theorem Dev.modPhys_nowUs (k : Fin 12) (p : Nat) (f : PhysTile → PhysTile) (d : Dev) : (d.modPhys k p f).nowUs = d.nowUs := rfl
@[simp] theorem Dev.modPhys_freeCtr (k : Fin 12) (p : Nat) (f : PhysTile → PhysTile) (d : Dev) : (d.modPhys k p f).freeCtr = d.freeCtr := rfl
@[simp] theorem Dev.modPhys_link (k : Fin 12) (p : Nat) (f : PhysTile → PhysTile) (d : Dev) : (d.modPhys k p f).link = d.link := rfl
@[simp] theorem Dev.modPhys_mem (k : Fin 12) (p : Nat) (f : PhysTile → PhysTile) (d : Dev) : (d.modPhys k p f).mem = d.mem := rfl
@[simp] theorem Dev.modPhys_num (k : Fin 12) (p : Nat) (f : PhysTile → PhysTile) (d : Dev) : (d.modPhys k p f).num = d.num := rfl
@[simp] theorem Dev.modPhys_progs (k : Fin 12) (p : Nat) (f : PhysTile → PhysTile) (d : Dev) : (d.modPhys k p f).progs = d.progs := rfl
@[simp] theorem Dev.modPhys_launches (k : Fin 12) (p : Nat) (f : PhysTile → PhysTile) (d : Dev) : (d.modPhys k p f).launches = d.launches := rfl
@[simp] theorem Dev.modPhys_nextLaunch (k : Fin 12) (p : Nat) (f : PhysTile → PhysTile) (d : Dev) : (d.modPhys k p f).nextLaunch = d.nextLaunch := rfl
@[simp] theorem Dev.modPhys_cx (k : Fin 12) (p : Nat) (f : PhysTile → PhysTile) (d : Dev) : (d.modPhys k p f).cx = d.cx := rfl
@[simp] theorem Dev.modPhys_fn (k : Fin 12) (p : Nat) (f : PhysTile → PhysTile) (d : Dev) : (d.modPhys k p f).fn = d.fn := rfl
@[simp] theorem Dev.modPhys_tier (k : Fin 12) (p : Nat) (f : PhysTile → PhysTile) (d : Dev) : (d.modPhys k p f).tier = d.tier := rfl
@[simp] theorem Dev.modPhys_wheels (k : Fin 12) (p : Nat) (f : PhysTile → PhysTile) (d : Dev) : (d.modPhys k p f).wheels = d.wheels := rfl
@[simp] theorem Dev.modPhys_media (k : Fin 12) (p : Nat) (f : PhysTile → PhysTile) (d : Dev) : (d.modPhys k p f).media = d.media := rfl
@[simp] theorem Dev.modPhys_fabric (k : Fin 12) (p : Nat) (f : PhysTile → PhysTile) (d : Dev) : (d.modPhys k p f).fabric = d.fabric := rfl
@[simp] theorem Dev.modPhys_coll (k : Fin 12) (p : Nat) (f : PhysTile → PhysTile) (d : Dev) : (d.modPhys k p f).coll = d.coll := rfl
@[simp] theorem Dev.modPhys_time (k : Fin 12) (p : Nat) (f : PhysTile → PhysTile) (d : Dev) : (d.modPhys k p f).time = d.time := rfl
@[simp] theorem Dev.modPhys_candle (k : Fin 12) (p : Nat) (f : PhysTile → PhysTile) (d : Dev) : (d.modPhys k p f).candle = d.candle := rfl
@[simp] theorem Dev.modPhys_power (k : Fin 12) (p : Nat) (f : PhysTile → PhysTile) (d : Dev) : (d.modPhys k p f).power = d.power := rfl
@[simp] theorem Dev.modPhys_pins (k : Fin 12) (p : Nat) (f : PhysTile → PhysTile) (d : Dev) : (d.modPhys k p f).pins = d.pins := rfl
@[simp] theorem Dev.modPhys_start (k : Fin 12) (p : Nat) (f : PhysTile → PhysTile) (d : Dev) : (d.modPhys k p f).start = d.start := rfl
@[simp] theorem Dev.modPhys_repair (k : Fin 12) (p : Nat) (f : PhysTile → PhysTile) (d : Dev) : (d.modPhys k p f).repair = d.repair := rfl
@[simp] theorem Dev.modPhys_ctrs (k : Fin 12) (p : Nat) (f : PhysTile → PhysTile) (d : Dev) : (d.modPhys k p f).ctrs = d.ctrs := rfl

-- Dev.setSlip

@[simp] theorem Dev.setSlip_out (k : Fin 12) (x : SlipPart) (d : Dev) : (d.setSlip k x).out = d.out := rfl
@[simp] theorem Dev.setSlip_nowUs (k : Fin 12) (x : SlipPart) (d : Dev) : (d.setSlip k x).nowUs = d.nowUs := rfl
@[simp] theorem Dev.setSlip_freeCtr (k : Fin 12) (x : SlipPart) (d : Dev) : (d.setSlip k x).freeCtr = d.freeCtr := rfl
@[simp] theorem Dev.setSlip_link (k : Fin 12) (x : SlipPart) (d : Dev) : (d.setSlip k x).link = d.link := rfl
@[simp] theorem Dev.setSlip_mem (k : Fin 12) (x : SlipPart) (d : Dev) : (d.setSlip k x).mem = d.mem := rfl
@[simp] theorem Dev.setSlip_num (k : Fin 12) (x : SlipPart) (d : Dev) : (d.setSlip k x).num = d.num := rfl
@[simp] theorem Dev.setSlip_progs (k : Fin 12) (x : SlipPart) (d : Dev) : (d.setSlip k x).progs = d.progs := rfl
@[simp] theorem Dev.setSlip_launches (k : Fin 12) (x : SlipPart) (d : Dev) : (d.setSlip k x).launches = d.launches := rfl
@[simp] theorem Dev.setSlip_nextLaunch (k : Fin 12) (x : SlipPart) (d : Dev) : (d.setSlip k x).nextLaunch = d.nextLaunch := rfl
@[simp] theorem Dev.setSlip_cx (k : Fin 12) (x : SlipPart) (d : Dev) : (d.setSlip k x).cx = d.cx := rfl
@[simp] theorem Dev.setSlip_fn (k : Fin 12) (x : SlipPart) (d : Dev) : (d.setSlip k x).fn = d.fn := rfl
@[simp] theorem Dev.setSlip_tier (k : Fin 12) (x : SlipPart) (d : Dev) : (d.setSlip k x).tier = d.tier := rfl
@[simp] theorem Dev.setSlip_wheels (k : Fin 12) (x : SlipPart) (d : Dev) : (d.setSlip k x).wheels = d.wheels := rfl
@[simp] theorem Dev.setSlip_media (k : Fin 12) (x : SlipPart) (d : Dev) : (d.setSlip k x).media = d.media := rfl
@[simp] theorem Dev.setSlip_fabric (k : Fin 12) (x : SlipPart) (d : Dev) : (d.setSlip k x).fabric = d.fabric := rfl
@[simp] theorem Dev.setSlip_coll (k : Fin 12) (x : SlipPart) (d : Dev) : (d.setSlip k x).coll = d.coll := rfl
@[simp] theorem Dev.setSlip_time (k : Fin 12) (x : SlipPart) (d : Dev) : (d.setSlip k x).time = d.time := rfl
@[simp] theorem Dev.setSlip_candle (k : Fin 12) (x : SlipPart) (d : Dev) : (d.setSlip k x).candle = d.candle := rfl
@[simp] theorem Dev.setSlip_power (k : Fin 12) (x : SlipPart) (d : Dev) : (d.setSlip k x).power = d.power := rfl
@[simp] theorem Dev.setSlip_pins (k : Fin 12) (x : SlipPart) (d : Dev) : (d.setSlip k x).pins = d.pins := rfl
@[simp] theorem Dev.setSlip_start (k : Fin 12) (x : SlipPart) (d : Dev) : (d.setSlip k x).start = d.start := rfl
@[simp] theorem Dev.setSlip_repair (k : Fin 12) (x : SlipPart) (d : Dev) : (d.setSlip k x).repair = d.repair := rfl
@[simp] theorem Dev.setSlip_ctrs (k : Fin 12) (x : SlipPart) (d : Dev) : (d.setSlip k x).ctrs = d.ctrs := rfl

-- Dev.putStream

@[simp] theorem Dev.putStream_out (k : Fin 12) (s : SlipStream) (d : Dev) : (d.putStream k s).out = d.out := rfl
@[simp] theorem Dev.putStream_nowUs (k : Fin 12) (s : SlipStream) (d : Dev) : (d.putStream k s).nowUs = d.nowUs := rfl
@[simp] theorem Dev.putStream_freeCtr (k : Fin 12) (s : SlipStream) (d : Dev) : (d.putStream k s).freeCtr = d.freeCtr := rfl
@[simp] theorem Dev.putStream_link (k : Fin 12) (s : SlipStream) (d : Dev) : (d.putStream k s).link = d.link := rfl
@[simp] theorem Dev.putStream_mem (k : Fin 12) (s : SlipStream) (d : Dev) : (d.putStream k s).mem = d.mem := rfl
@[simp] theorem Dev.putStream_num (k : Fin 12) (s : SlipStream) (d : Dev) : (d.putStream k s).num = d.num := rfl
@[simp] theorem Dev.putStream_progs (k : Fin 12) (s : SlipStream) (d : Dev) : (d.putStream k s).progs = d.progs := rfl
@[simp] theorem Dev.putStream_launches (k : Fin 12) (s : SlipStream) (d : Dev) : (d.putStream k s).launches = d.launches := rfl
@[simp] theorem Dev.putStream_nextLaunch (k : Fin 12) (s : SlipStream) (d : Dev) : (d.putStream k s).nextLaunch = d.nextLaunch := rfl
@[simp] theorem Dev.putStream_cx (k : Fin 12) (s : SlipStream) (d : Dev) : (d.putStream k s).cx = d.cx := rfl
@[simp] theorem Dev.putStream_fn (k : Fin 12) (s : SlipStream) (d : Dev) : (d.putStream k s).fn = d.fn := rfl
@[simp] theorem Dev.putStream_tier (k : Fin 12) (s : SlipStream) (d : Dev) : (d.putStream k s).tier = d.tier := rfl
@[simp] theorem Dev.putStream_wheels (k : Fin 12) (s : SlipStream) (d : Dev) : (d.putStream k s).wheels = d.wheels := rfl
@[simp] theorem Dev.putStream_media (k : Fin 12) (s : SlipStream) (d : Dev) : (d.putStream k s).media = d.media := rfl
@[simp] theorem Dev.putStream_fabric (k : Fin 12) (s : SlipStream) (d : Dev) : (d.putStream k s).fabric = d.fabric := rfl
@[simp] theorem Dev.putStream_coll (k : Fin 12) (s : SlipStream) (d : Dev) : (d.putStream k s).coll = d.coll := rfl
@[simp] theorem Dev.putStream_time (k : Fin 12) (s : SlipStream) (d : Dev) : (d.putStream k s).time = d.time := rfl
@[simp] theorem Dev.putStream_candle (k : Fin 12) (s : SlipStream) (d : Dev) : (d.putStream k s).candle = d.candle := rfl
@[simp] theorem Dev.putStream_power (k : Fin 12) (s : SlipStream) (d : Dev) : (d.putStream k s).power = d.power := rfl
@[simp] theorem Dev.putStream_pins (k : Fin 12) (s : SlipStream) (d : Dev) : (d.putStream k s).pins = d.pins := rfl
@[simp] theorem Dev.putStream_start (k : Fin 12) (s : SlipStream) (d : Dev) : (d.putStream k s).start = d.start := rfl
@[simp] theorem Dev.putStream_repair (k : Fin 12) (s : SlipStream) (d : Dev) : (d.putStream k s).repair = d.repair := rfl
@[simp] theorem Dev.putStream_ctrs (k : Fin 12) (s : SlipStream) (d : Dev) : (d.putStream k s).ctrs = d.ctrs := rfl

-- Dev.setPipe

@[simp] theorem Dev.setPipe_out (k : Fin 12) (lp launch : Nat) (s : Option PipeSt) (d : Dev) : (d.setPipe k lp launch s).out = d.out := rfl
@[simp] theorem Dev.setPipe_nowUs (k : Fin 12) (lp launch : Nat) (s : Option PipeSt) (d : Dev) : (d.setPipe k lp launch s).nowUs = d.nowUs := rfl
@[simp] theorem Dev.setPipe_freeCtr (k : Fin 12) (lp launch : Nat) (s : Option PipeSt) (d : Dev) : (d.setPipe k lp launch s).freeCtr = d.freeCtr := rfl
@[simp] theorem Dev.setPipe_link (k : Fin 12) (lp launch : Nat) (s : Option PipeSt) (d : Dev) : (d.setPipe k lp launch s).link = d.link := rfl
@[simp] theorem Dev.setPipe_mem (k : Fin 12) (lp launch : Nat) (s : Option PipeSt) (d : Dev) : (d.setPipe k lp launch s).mem = d.mem := rfl
@[simp] theorem Dev.setPipe_num (k : Fin 12) (lp launch : Nat) (s : Option PipeSt) (d : Dev) : (d.setPipe k lp launch s).num = d.num := rfl
@[simp] theorem Dev.setPipe_progs (k : Fin 12) (lp launch : Nat) (s : Option PipeSt) (d : Dev) : (d.setPipe k lp launch s).progs = d.progs := rfl
@[simp] theorem Dev.setPipe_launches (k : Fin 12) (lp launch : Nat) (s : Option PipeSt) (d : Dev) : (d.setPipe k lp launch s).launches = d.launches := rfl
@[simp] theorem Dev.setPipe_nextLaunch (k : Fin 12) (lp launch : Nat) (s : Option PipeSt) (d : Dev) : (d.setPipe k lp launch s).nextLaunch = d.nextLaunch := rfl
@[simp] theorem Dev.setPipe_cx (k : Fin 12) (lp launch : Nat) (s : Option PipeSt) (d : Dev) : (d.setPipe k lp launch s).cx = d.cx := rfl
@[simp] theorem Dev.setPipe_fn (k : Fin 12) (lp launch : Nat) (s : Option PipeSt) (d : Dev) : (d.setPipe k lp launch s).fn = d.fn := rfl
@[simp] theorem Dev.setPipe_tier (k : Fin 12) (lp launch : Nat) (s : Option PipeSt) (d : Dev) : (d.setPipe k lp launch s).tier = d.tier := rfl
@[simp] theorem Dev.setPipe_wheels (k : Fin 12) (lp launch : Nat) (s : Option PipeSt) (d : Dev) : (d.setPipe k lp launch s).wheels = d.wheels := rfl
@[simp] theorem Dev.setPipe_media (k : Fin 12) (lp launch : Nat) (s : Option PipeSt) (d : Dev) : (d.setPipe k lp launch s).media = d.media := rfl
@[simp] theorem Dev.setPipe_fabric (k : Fin 12) (lp launch : Nat) (s : Option PipeSt) (d : Dev) : (d.setPipe k lp launch s).fabric = d.fabric := rfl
@[simp] theorem Dev.setPipe_coll (k : Fin 12) (lp launch : Nat) (s : Option PipeSt) (d : Dev) : (d.setPipe k lp launch s).coll = d.coll := rfl
@[simp] theorem Dev.setPipe_time (k : Fin 12) (lp launch : Nat) (s : Option PipeSt) (d : Dev) : (d.setPipe k lp launch s).time = d.time := rfl
@[simp] theorem Dev.setPipe_candle (k : Fin 12) (lp launch : Nat) (s : Option PipeSt) (d : Dev) : (d.setPipe k lp launch s).candle = d.candle := rfl
@[simp] theorem Dev.setPipe_power (k : Fin 12) (lp launch : Nat) (s : Option PipeSt) (d : Dev) : (d.setPipe k lp launch s).power = d.power := rfl
@[simp] theorem Dev.setPipe_pins (k : Fin 12) (lp launch : Nat) (s : Option PipeSt) (d : Dev) : (d.setPipe k lp launch s).pins = d.pins := rfl
@[simp] theorem Dev.setPipe_start (k : Fin 12) (lp launch : Nat) (s : Option PipeSt) (d : Dev) : (d.setPipe k lp launch s).start = d.start := rfl
@[simp] theorem Dev.setPipe_repair (k : Fin 12) (lp launch : Nat) (s : Option PipeSt) (d : Dev) : (d.setPipe k lp launch s).repair = d.repair := rfl
@[simp] theorem Dev.setPipe_ctrs (k : Fin 12) (lp launch : Nat) (s : Option PipeSt) (d : Dev) : (d.setPipe k lp launch s).ctrs = d.ctrs := rfl

-- Dev.putTables

@[simp] theorem Dev.putTables_out (n : Fin 16) (d : Dev) : (d.putTables n).out = d.out := rfl
@[simp] theorem Dev.putTables_nowUs (n : Fin 16) (d : Dev) : (d.putTables n).nowUs = d.nowUs := rfl
@[simp] theorem Dev.putTables_freeCtr (n : Fin 16) (d : Dev) : (d.putTables n).freeCtr = d.freeCtr := rfl
@[simp] theorem Dev.putTables_link (n : Fin 16) (d : Dev) : (d.putTables n).link = d.link := rfl
@[simp] theorem Dev.putTables_mem (n : Fin 16) (d : Dev) : (d.putTables n).mem = d.cx.putTables n d.mem := rfl
@[simp] theorem Dev.putTables_num (n : Fin 16) (d : Dev) : (d.putTables n).num = d.num := rfl
@[simp] theorem Dev.putTables_progs (n : Fin 16) (d : Dev) : (d.putTables n).progs = d.progs := rfl
@[simp] theorem Dev.putTables_launches (n : Fin 16) (d : Dev) : (d.putTables n).launches = d.launches := rfl
@[simp] theorem Dev.putTables_nextLaunch (n : Fin 16) (d : Dev) : (d.putTables n).nextLaunch = d.nextLaunch := rfl
@[simp] theorem Dev.putTables_cx (n : Fin 16) (d : Dev) : (d.putTables n).cx = d.cx := rfl
@[simp] theorem Dev.putTables_fn (n : Fin 16) (d : Dev) : (d.putTables n).fn = d.fn := rfl
@[simp] theorem Dev.putTables_tier (n : Fin 16) (d : Dev) : (d.putTables n).tier = d.tier := rfl
@[simp] theorem Dev.putTables_kilns (n : Fin 16) (d : Dev) : (d.putTables n).kilns = d.kilns := rfl
@[simp] theorem Dev.putTables_wheels (n : Fin 16) (d : Dev) : (d.putTables n).wheels = d.wheels := rfl
@[simp] theorem Dev.putTables_media (n : Fin 16) (d : Dev) : (d.putTables n).media = d.media := rfl
@[simp] theorem Dev.putTables_fabric (n : Fin 16) (d : Dev) : (d.putTables n).fabric = d.fabric := rfl
@[simp] theorem Dev.putTables_coll (n : Fin 16) (d : Dev) : (d.putTables n).coll = d.coll := rfl
@[simp] theorem Dev.putTables_time (n : Fin 16) (d : Dev) : (d.putTables n).time = d.time := rfl
@[simp] theorem Dev.putTables_candle (n : Fin 16) (d : Dev) : (d.putTables n).candle = d.candle := rfl
@[simp] theorem Dev.putTables_power (n : Fin 16) (d : Dev) : (d.putTables n).power = d.power := rfl
@[simp] theorem Dev.putTables_pins (n : Fin 16) (d : Dev) : (d.putTables n).pins = d.pins := rfl
@[simp] theorem Dev.putTables_start (n : Fin 16) (d : Dev) : (d.putTables n).start = d.start := rfl
@[simp] theorem Dev.putTables_repair (n : Fin 16) (d : Dev) : (d.putTables n).repair = d.repair := rfl
@[simp] theorem Dev.putTables_ctrs (n : Fin 16) (d : Dev) : (d.putTables n).ctrs = d.ctrs := rfl

-- Dev.noteRepair

@[simp] theorem Dev.noteRepair_out (kind unit element detail : Nat) (d : Dev) : (d.noteRepair kind unit element detail).out = d.out := rfl
@[simp] theorem Dev.noteRepair_nowUs (kind unit element detail : Nat) (d : Dev) : (d.noteRepair kind unit element detail).nowUs = d.nowUs := rfl
@[simp] theorem Dev.noteRepair_freeCtr (kind unit element detail : Nat) (d : Dev) : (d.noteRepair kind unit element detail).freeCtr = d.freeCtr := rfl
@[simp] theorem Dev.noteRepair_link (kind unit element detail : Nat) (d : Dev) : (d.noteRepair kind unit element detail).link = d.link := rfl
@[simp] theorem Dev.noteRepair_mem (kind unit element detail : Nat) (d : Dev) : (d.noteRepair kind unit element detail).mem = d.mem := rfl
@[simp] theorem Dev.noteRepair_num (kind unit element detail : Nat) (d : Dev) : (d.noteRepair kind unit element detail).num = d.num := rfl
@[simp] theorem Dev.noteRepair_progs (kind unit element detail : Nat) (d : Dev) : (d.noteRepair kind unit element detail).progs = d.progs := rfl
@[simp] theorem Dev.noteRepair_launches (kind unit element detail : Nat) (d : Dev) : (d.noteRepair kind unit element detail).launches = d.launches := rfl
@[simp] theorem Dev.noteRepair_nextLaunch (kind unit element detail : Nat) (d : Dev) : (d.noteRepair kind unit element detail).nextLaunch = d.nextLaunch := rfl
@[simp] theorem Dev.noteRepair_cx (kind unit element detail : Nat) (d : Dev) : (d.noteRepair kind unit element detail).cx = d.cx := rfl
@[simp] theorem Dev.noteRepair_fn (kind unit element detail : Nat) (d : Dev) : (d.noteRepair kind unit element detail).fn = d.fn := rfl
@[simp] theorem Dev.noteRepair_tier (kind unit element detail : Nat) (d : Dev) : (d.noteRepair kind unit element detail).tier = d.tier := rfl
@[simp] theorem Dev.noteRepair_kilns (kind unit element detail : Nat) (d : Dev) : (d.noteRepair kind unit element detail).kilns = d.kilns := rfl
@[simp] theorem Dev.noteRepair_wheels (kind unit element detail : Nat) (d : Dev) : (d.noteRepair kind unit element detail).wheels = d.wheels := rfl
@[simp] theorem Dev.noteRepair_media (kind unit element detail : Nat) (d : Dev) : (d.noteRepair kind unit element detail).media = d.media := rfl
@[simp] theorem Dev.noteRepair_fabric (kind unit element detail : Nat) (d : Dev) : (d.noteRepair kind unit element detail).fabric = d.fabric := rfl
@[simp] theorem Dev.noteRepair_coll (kind unit element detail : Nat) (d : Dev) : (d.noteRepair kind unit element detail).coll = d.coll := rfl
@[simp] theorem Dev.noteRepair_time (kind unit element detail : Nat) (d : Dev) : (d.noteRepair kind unit element detail).time = d.time := rfl
@[simp] theorem Dev.noteRepair_candle (kind unit element detail : Nat) (d : Dev) : (d.noteRepair kind unit element detail).candle = d.candle := rfl
@[simp] theorem Dev.noteRepair_power (kind unit element detail : Nat) (d : Dev) : (d.noteRepair kind unit element detail).power = d.power := rfl
@[simp] theorem Dev.noteRepair_pins (kind unit element detail : Nat) (d : Dev) : (d.noteRepair kind unit element detail).pins = d.pins := rfl
@[simp] theorem Dev.noteRepair_start (kind unit element detail : Nat) (d : Dev) : (d.noteRepair kind unit element detail).start = d.start := rfl
@[simp] theorem Dev.noteRepair_ctrs (kind unit element detail : Nat) (d : Dev) : (d.noteRepair kind unit element detail).ctrs = d.ctrs := rfl

end Sys2Proof.Machine
end

