-- ==== Sys2Proof/Laws/Ops.lean ====
section
/-! SUPPORT. The shared operations: once each, what a command that is taken does and how a command ends. -/
namespace Sys2Proof.Machine

theorem find?_prop {α : Type} (p : α → Bool) (l : List α) (x : α) (h : l.find? p = some x) : p x = true := by
  simpa using List.find?_some h

/-- A command that is taken waits. -/
theorem Dev.taken_waiting (d : Dev) (tag : Tag) (op : Byte) (c : Cmd) (h : d.taken tag op = some c) :
    c.phase = .waiting ∧ c.pkt.opcode = op ∧ c.pkt.tag = tag ∧ c ∈ d.link.cmds := by
  unfold Dev.taken at h
  cases hf : d.link.cmds.find? (fun c => c.holdsTag && c.pkt.tag == tag) with
  | none => simp [hf] at h
  | some x =>
    rw [hf] at h
    simp only [Option.ite_none_right_eq_some, Option.some.injEq, Bool.and_eq_true, beq_iff_eq] at h
    obtain ⟨⟨⟨h1, h2⟩, -⟩, rfl⟩ := h
    have := find?_prop _ _ _ hf
    simp only [Bool.and_eq_true, beq_iff_eq] at this
    exact ⟨h1, h2, this.2, List.mem_of_find?_eq_some hf⟩

/-- Where a command is taken, its operation runs on it. -/
theorem Dev.onCmd_taken (tag : Tag) (op : Byte) (f : Cmd → Dev → Dev) (d : Dev) (c : Cmd) (h : d.taken tag op = some c) :
    Dev.onCmd tag op f d = f c d := by simp [Dev.onCmd, h]

/-- Where none is, nothing happens. -/
theorem Dev.onCmd_none (tag : Tag) (op : Byte) (f : Cmd → Dev → Dev) (d : Dev) (h : d.taken tag op = none) :
    Dev.onCmd tag op f d = d := by simp [Dev.onCmd, h]

/-- A command that has not ended ends with its reply. -/
theorem Dev.endCmd_eq (d : Dev) (id : Nat) (st : Half) (body : List Byte) (c : Cmd) (h : d.cmd id = some c) (hp : c.phase ≠ .done) :
    d.endCmd id st body = d.replied id st body := by
  simp [Dev.endCmd, h, hp, Dev.replied, Dev.modCmd]

/-- A command that has ended does not end twice. -/
theorem Dev.endCmd_done (d : Dev) (id : Nat) (st : Half) (body : List Byte) (c : Cmd) (h : d.cmd id = some c) (hp : c.phase = .done) :
    d.endCmd id st body = d := by simp [Dev.endCmd, h, hp]

/-- A command outside the bounded class completes with ST_OK. -/
theorem Dev.okCmd_eq (d : Dev) (id a b x : Nat) (c : Cmd) (h : d.cmd id = some c) (hp : c.phase ≠ .done) (hc : c.Unbounded) :
    d.okCmd id a b x = d.replied id stOk (vals a b x) := by
  have hb : (c.pkt.cls = 2#2 && reached d.phaseNow (c.pkt.deadline.toNat + 1)) = false := by simp [show c.pkt.cls ≠ 2#2 from hc]
  simp only [Dev.okCmd, h, Dev.overrun]
  simp only [hb, Bool.false_eq_true, if_false]
  exact d.endCmd_eq _ _ _ c h hp

/-- A refusal for any reason but a passed DEADLINE or a debug denial leaves only the reply. -/
theorem Dev.refuse_eq (d : Dev) (id : Nat) (st : Half) (c : Cmd) (h : d.cmd id = some c) (hp : c.phase ≠ .done)
    (h1 : st ≠ stDeadline) (h2 : st ≠ stDebugDenied) : d.refuse id st = d.replied id st (vals 0 0 0) := by
  simp only [Dev.refuse, Dev.noteStatus, h1, h2, if_false]
  exact d.endCmd_eq _ _ _ c h hp

/-- A command that is taken is not done. -/
theorem Dev.Takes.not_done {d : Dev} {tag : Tag} {op : Byte} {c : Cmd} (h : d.Takes tag op c) : c.phase ≠ .done := by
  rw [(d.taken_waiting tag op c h.1).1]; decide

/-- Registers before ready take nothing (R474). -/
theorem Dev.hubWrite_ready (f : Dev → Dev) (d : Dev) (h : d.ready = true) : Dev.hubWrite f d = f d := by simp [Dev.hubWrite, h]
theorem Dev.hubWrite_not_ready (f : Dev → Dev) (d : Dev) (h : d.ready = false) : Dev.hubWrite f d = d := by simp [Dev.hubWrite, h]
theorem Dev.dieWrite_up (f : Dev → Dev) (d : Dev) (h : d.ready = true) (hp : d.power.state = 0#2) : Dev.dieWrite f d = f d := by
  simp [Dev.dieWrite, h, hp]
/-- In ember a write to a die that is down counts as an error (R469). -/
theorem Dev.dieWrite_down (f : Dev → Dev) (d : Dev) (h : d.ready = true) (hp : d.power.state ≠ 0#2) : Dev.dieWrite f d = d.protoError := by
  simp [Dev.dieWrite, h, hp]

/-- A range that makes no fault and holds no poisoned word is read. -/
theorem Dev.fetchBytes_eq (d : Dev) (id a n : Nat) (k : List Byte → Dev → Dev) (h : d.daOk a n = true)
    (hp : d.mem.firstPoison a n = none) : d.fetchBytes id a n k = k (d.mem.readBytes a n) (d.heat a n) := by
  simp [Dev.fetchBytes, h, hp]

/-- A write that covers no poisoned word in part lands. -/
theorem Dev.storeBytes_eq (d : Dev) (id a : Nat) (bs : List Byte) (k : Dev → Dev) (h : d.mem.storeStruck a bs.length = false) :
    d.storeBytes id a bs k = k (d.write a bs) := by simp [Dev.storeBytes, h]

/-- Heat changes the tier alone. -/
theorem Dev.heat_eq (a n : Nat) (d : Dev) : d.heat a n = { d with tier := (d.heat a n).tier } := by
  unfold Dev.heat; split <;> rfl

@[simp] theorem Dev.heat_link (a n : Nat) (d : Dev) : (d.heat a n).link = d.link := by rw [Dev.heat_eq]
@[simp] theorem Dev.heat_mem (a n : Nat) (d : Dev) : (d.heat a n).mem = d.mem := by rw [Dev.heat_eq]
@[simp] theorem Dev.write_link (a : Nat) (bs : List Byte) (d : Dev) : (d.write a bs).link = d.link := by simp [Dev.write]
@[simp] theorem Dev.write_mem (a : Nat) (bs : List Byte) (d : Dev) : (d.write a bs).mem = d.mem.store a bs := by simp [Dev.write]

/-- What a command's number finds depends on the commands in flight alone. -/
theorem Dev.cmd_of_link (d e : Dev) (h : e.link = d.link) (id : Nat) : e.cmd id = d.cmd id := by simp [Dev.cmd, h]

end Sys2Proof.Machine
end

