-- ==== Sys2Proof/Laws/Repair.lean ====
section
/-! SUPPORT. Events and repairs: what an event changes, and what an element that fails leaves (R416, R511, R513). -/
namespace Sys2Proof.Machine

/-- A message changes what is sent and what pends. -/
theorem Dev.sendMsix_eq (v : Nat) (d : Dev) :
    d.sendMsix v = { d with out := (d.sendMsix v).out, link := { d.link with msix := { d.link.msix with pending := (d.sendMsix v).link.msix.pending } } } := by
  unfold Dev.sendMsix
  dsimp only
  split
  · rfl
  · split <;> rfl

/-- An event changes its bit, what is sent and what pends. -/
theorem Dev.setEvent_eq (i : Nat) (d : Dev) :
    d.setEvent i = { d with out := (d.setEvent i).out, link := { d.link with events := d.link.events ||| BitVec.ofNat 8 (2 ^ i), msix := { d.link.msix with pending := (d.setEvent i).link.msix.pending } } } := by
  unfold Dev.setEvent
  dsimp only
  split
  · rfl
  · split
    · rw [Dev.sendMsix_eq]
    · rfl

@[simp] theorem Dev.setEvent_repair (i : Nat) (d : Dev) : (d.setEvent i).repair = d.repair := by rw [Dev.setEvent_eq]
@[simp] theorem Dev.setEvent_mem (i : Nat) (d : Dev) : (d.setEvent i).mem = d.mem := by rw [Dev.setEvent_eq]
@[simp] theorem Dev.setEvent_start (i : Nat) (d : Dev) : (d.setEvent i).start = d.start := by rw [Dev.setEvent_eq]
@[simp] theorem Dev.setEvent_kilns (i : Nat) (d : Dev) : (d.setEvent i).kilns = d.kilns := by rw [Dev.setEvent_eq]
@[simp] theorem Dev.setEvent_events (i : Nat) (d : Dev) : (d.setEvent i).link.events = d.link.events ||| BitVec.ofNat 8 (2 ^ i) := by rw [Dev.setEvent_eq]

/-- An element with a spare left in its pool takes the next. -/
theorem Dev.takeOrStay_spare (d : Dev) (r : Repair) (h : d.sparesUsed r < r.poolSize) :
    (d.takeOrStay r).repair = { d.repair with unwritten := d.repair.unwritten ++ [r.bySpare (d.sparesUsed r)], spares := d.repair.spares ++ [{ rep := r.bySpare (d.sparesUsed r) }] } := by
  simp [Dev.takeOrStay, Dev.takeSpare, h, Dev.noteRepair]

/-- One without stays in use. -/
theorem Dev.takeOrStay_stays (d : Dev) (r : Repair) (h : ¬ d.sparesUsed r < r.poolSize) :
    (d.takeOrStay r).repair = { d.repair with unwritten := d.repair.unwritten ++ [r.stays], spareOutSeen := true } := by
  simp [Dev.takeOrStay, Dev.takeSpare, h, Dev.staysInUse, Dev.noteRepair]

/-- An event reads nothing of the repairs. -/
theorem Dev.setEvent_with_repair (i : Nat) (x : RepairPart) (d : Dev) : ({ d with repair := x } : Dev).setEvent i = { d.setEvent i with repair := x } := by
  unfold Dev.setEvent Dev.sendMsix
  dsimp only
  split
  · rfl
  · split
    · split
      · rfl
      · split <;> rfl
    · rfl

/-- Either way REPAIR is set, and the rest of the device but for the message stands. -/
theorem Dev.takeOrStay_eq (d : Dev) (r : Repair) :
    d.takeOrStay r = { d.setEvent evRepair with repair := (d.takeOrStay r).repair } := by
  by_cases h : d.sparesUsed r < r.poolSize
  · simp [Dev.takeOrStay, Dev.takeSpare, h, Dev.noteRepair, Dev.setEvent_with_repair]
  · simp [Dev.takeOrStay, Dev.takeSpare, h, Dev.staysInUse, Dev.noteRepair, Dev.setEvent_with_repair]

end Sys2Proof.Machine
end

