-- ==== Sys2Proof/WellFormed.lean ====
section
/-! DEFINITION. Which commands are well formed: an access to a half of a register names an 8-byte register (R388), a BAR2
access has a length its payload can have (R389), an atomic on a line carries sixteen words (R231). -/
namespace Sys2Proof
open Sys2Proof.Machine

/-- The checks on a command's operands that their types do not make. -/
def Instr.wellFormed : Instr → Bool
  | .registerWrite r p _ => r.is64 || p == Part.whole
  | .reg64LowerHalfWrite r _ => r.is64
  | .reg64LowHalfRead r => r.is64
  | .bar2Read _ len _ => decide (0 < len)
  | .bar2Write _ bytes => !bytes.isEmpty
  | .atomic r => r.op != AtomicOp.lineFadd || r.line.length == 16
  | _ => true

end Sys2Proof
end

