-- ==== Sys2Proof/Tests/Slice0.lean ====
section
/-! SUPPORT. Small tests: what the checks of WellFormed refuse, single commands by the spec's figures, and states and operands that meet
the hypotheses of the statements. -/
set_option Elab.async false
namespace Sys2Proof.Tests
open Sys2Proof Sys2Proof.Machine

/-- The state a step or command leaves. -/
def left (o : Out) (s : State) : State :=
  match o with
  | .next t => t
  | _ => s
def run (c : Instr) (s : State) : State := left (exec c s) s

/-- A device that has started, with every die up and the pins released. -/
def up : State := State.reset.onDev fun d =>
  { d with start := { d.start with state := 1, started := true, step := 24 },
           repair := { d.repair with lamps := Vector.replicate 9 { ok := true } }, pins := { d.pins with perstN := true, pwrGood := true } }
/-- The same, after a change of its device. -/
def upWith (f : Dev → Dev) : State := up.onDev f

/-- A packet of class 0 with tag 1: its first entry words. -/
def pack (op : Nat) (o0 o1 o2 o3 o4 o5 : Nat := 0) : Packet :=
  { opcode := BitVec.ofNat 8 op, cls := 0, fenceBefore := false, tag := 1, deadline := 0, o0 := BitVec.ofNat 64 o0,
    o1 := BitVec.ofNat 64 o1, o2 := BitVec.ofNat 64 o2, o3 := BitVec.ofNat 64 o3, o4 := BitVec.ofNat 64 o4, o5 := BitVec.ofNat 64 o5 }
/-- A command of that packet in flight, waiting. -/
def cmdOf (p : Packet) : Cmd := { id := 0, sq := 0, cq := 0, core := 0, holdsTag := true, pkt := p, phase := .waiting }
/-- Put a command in flight. -/
def withCmd (c : Cmd) (d : Dev) : Dev := { d with link := { d.link with cmds := d.link.cmds ++ [c], nextId := c.id + 1 } }
/-- A device with one waiting command of the packet. -/
def waits (p : Packet) (d : Dev) : State := up.onDev fun _ => withCmd (cmdOf p) d
/-- The hypotheses of a statement about a command that waits under tag 1: the command is taken, is not bounded, and its number is its
own. -/
def takes (p : Packet) (s : State) : Bool :=
  s.dev.taken p.tag p.opcode == some (cmdOf p) && s.dev.cmd 0 == some (cmdOf p) && p.cls != 2#2
/-- Rings 0 enabled with 64 entries. -/
def ringed : State := (up.setCq 0 { enable := true, log2 := 6 }).setSq 0 { enable := true, log2 := 6 }

-- Images and launches

/-- A buffer record (R196) of rank 2, 4 columns and 4 rows 64 bytes apart, on stack 0. -/
def bufRec (kind fmt base : Nat) : List Byte :=
  leBytes 1 kind ++ leBytes 1 fmt ++ [0, 2] ++ leBytes 4 0 ++ leBytes 4 4 ++ leBytes 4 4 ++ leBytes 4 1 ++ leBytes 4 1 ++
  leBytes 6 64 ++ leBytes 6 0 ++ leBytes 6 0 ++ leBytes 6 base ++ leBytes 6 0 ++ leBytes 6 0 ++ [0, 0] ++ leBytes 2 0
/-- A vector kernel record (R198): one operation, buffer 0 to buffer 1, on kiln 0. -/
def vecKernelRec : List Byte :=
  [2, 0, 0, 0, 0, 0, 0, 0] ++ leBytes 8 0 ++ leBytes 2 0 ++ leBytes 2 0xFFFF ++ leBytes 2 1 ++ leBytes 2 0xFFFF ++ [0, 0] ++
  leBytes 2 0xFFFF ++ leBytes 2 0xFFFF ++ leBytes 2 0 ++ leBytes 2 1 ++ leBytes 2 0xFFFF ++ leBytes 4 4 ++ leBytes 4 4 ++ leBytes 4 0 ++
  leBytes 4 1 ++ leBytes 2 0 ++ leBytes 2 1 ++ leBytes 2 0 ++ List.replicate 38 0
/-- A vector operation record (R199): ABS of buffer 0 into buffer 1. -/
def vecOpRec : List Byte :=
  [0x08, 0] ++ leBytes 2 0 ++ leBytes 2 0xFFFF ++ leBytes 2 1 ++ leBytes 2 0xFFFF ++ [0, 0] ++ leBytes 4 0
def section_ (type count offset : Nat) : List Byte := leBytes 2 type ++ leBytes 2 0 ++ leBytes 4 count ++ leBytes 8 offset
/-- An image with that kernel (R194, R195), under a digest and a numerics version. -/
def imageBytes (numerics : Nat) (digest : List Byte) : List Byte :=
  leBytes 4 0x434C4557 ++ leBytes 2 1 ++ leBytes 2 4 ++ leBytes 8 464 ++ leBytes 4 numerics ++ leBytes 2 1 ++ leBytes 2 1 ++ [7] ++
  List.replicate 55 0 ++ digest ++
  section_ 1 2 192 ++ section_ 2 1 320 ++ section_ 3 0 0 ++ section_ 6 1 448 ++
  bufRec 0 0 0x10000 ++ bufRec 1 0 0x20000 ++ vecKernelRec ++ List.replicate 32 0 ++ vecOpRec
def vecBytes : List Byte := imageBytes 0 (sha384 (imageBytes 0 (List.replicate 48 0)))
/-- What it parses to. -/
def vecImage : Image :=
  { size := 464, numerics := 0, layerCount := 1, classes := 7,
    bufs := (parseBuf (bufRec 0 0 0x10000)).toList ++ (parseBuf (bufRec 1 0 0x20000)).toList,
    kernels := (parseKernel vecKernelRec).toList, vecOps := (parseVecOp vecOpRec).toList }
/-- Bytes in memory, nothing else listed. -/
def bytesIn (base : Nat) (bs : List Byte) : Mem :=
  { cells := ((List.range bs.length).zip bs).filterMap fun p => if p.2 = 0 then none else some (base + p.1, p.2) }
/-- A device whose stack 0 is in service and whose kiln 0 has its sixteen tiles. -/
def stacked : State := upWith fun d =>
  { d with link := { d.link with bar2Base := 0 }, kilns := d.kilns.set 0 { d.kilns.get 0 with
    stackOk := Vector.replicate 2 true, tiles := Vector.replicate 16 { unbound := false } } }
/-- A pointer list with one entry of 4 by 4 (R212). -/
def listBytes (m : Nat) : List Byte :=
  leBytes 4 1 ++ leBytes 2 1 ++ List.replicate 58 0 ++
  List.replicate 24 0 ++ leBytes 4 m ++ leBytes 4 4 ++ List.replicate 16 0 ++ [0, 0, 0, 0] ++ leBytes 2 0 ++ leBytes 2 1 ++ List.replicate 8 0
/-- The same with a pointer list at 0x3000 and the program under handle 5. -/
def loaded : Dev :=
  { stacked.dev with mem := bytesIn 0x3000 (listBytes 4),
                     progs := { stacked.dev.progs with programs := [{ handle := 5, image := vecImage, retiring := false, scratch := vecImage.scratchOf }] } }
/-- A launch of that program by command 7, its entry a zero shape so that nothing is left to run, or one with work. -/
def launchOf (m : Nat) : Launch :=
  { id := 3, owner := .cmd 7, handle := 5, mode := 0, seed := 0, cls := 1, entries := (parseEntry ((listBytes m).drop 64)).toList,
    phase := .running, dies := [0] }
/-- Its command, in class 1 under tag 2. -/
def launchCmd : Cmd := { cmdOf { pack 0x12 5 0x3000 with cls := 1, tag := 2 } with id := 7, phase := .running }
def launched (m : Nat) : Dev := { withCmd launchCmd loaded with launches := [launchOf m], nextLaunch := 4 }
/-- Another command that waits beside it. -/
def beside (p : Packet) (d : Dev) : State := up.onDev fun _ => { withCmd (cmdOf p) d with link := { (withCmd (cmdOf p) d).link with nextId := 9 } }

-- Rings (RingsAreConfigured, DoorbellsMoveTheRing)


theorem test_ring_base_hyps : up.dev.ringsOpen = true ∧ (0x1000#64).toNat % 4096 = 0 ∧ (up.sq 0).enable = false ∧
    (ringed.sq 0).enable = true ∧ (up.cq 63).enable = false ∧ (ringed.cq 0).enable = true := by decide +kernel
theorem test_ring_base_write : ((run (.ringBaseWrite false 0 0x1000) up).sq 0).base = 0x1000#64 ∧
    (run (.ringBaseWrite false 0 0x1000) ringed).dev.link.protoErrors = 1#16 := by decide +kernel
/-- R397: 6 and 16 are the least and the greatest LOG2_ENTRIES that enable; 5 and 17 are refused. -/
theorem test_sq_enable_hyps :
    let ok (v : Word) : Bool := v &&& 0xFF80C080#32 == 0#32 && v.getLsbD 5 && !(ringed.sq 1).enable &&
      decide (6 ≤ (v.extractLsb' 0 5).toNat) && decide ((v.extractLsb' 0 5).toNat ≤ 16) &&
      (ringed.cq (Fin.ofNat 64 (v.extractLsb' 8 6).toNat)).enable
    ok 0x00710026 = true ∧ ok 0x00710030 = true ∧ (0x00710025#32).extractLsb' 0 5 = 5#5 ∧ (0x00710031#32).extractLsb' 0 5 = 17#5 ∧
    (up.cq (Fin.ofNat 64 ((0x00710026#32).extractLsb' 8 6).toNat)).enable = false := by decide +kernel
theorem test_sq_enable : ((run (.sqEnable 1 0x00710026) ringed).sq 1).enable = true ∧
    ((run (.sqEnable 1 0x00710025) ringed).sq 1).enable = false ∧ ((run (.sqEnable 1 0x00710031) ringed).sq 1).cfgErr = true := by
  decide +kernel
theorem test_cq_enable_hyps :
    let ok (v : Word) : Bool := v &&& 0x00080000#32 == 0#32 && v.getLsbD 5 && !(up.cq 0).enable &&
      decide (6 ≤ (v.extractLsb' 0 5).toNat) && decide ((v.extractLsb' 0 5).toNat ≤ 16)
    ok 0x00100026 = true ∧ ok 0x00100030 = true ∧ (0x00100025#32).extractLsb' 0 5 = 5#5 ∧ (0x00100031#32).extractLsb' 0 5 = 17#5 := by
  decide +kernel
theorem test_cq_enable : ((run (.cqEnable 0 0x00100030) up).cq 0).enable = true ∧
    ((run (.cqEnable 0 0x00100031) up).cq 0).enable = false := by decide +kernel
/-- A configuration write to an enabled ring: the same LOG2_ENTRIES and CQ, and others. -/
theorem test_enabled_ring_hyps :
    (ringed.sq 0).enable = true ∧ (ringed.cq 0).enable = true ∧ (0x00710026#32).extractLsb' 0 5 = (ringed.sq 0).log2 ∧
    (0x00710026#32).extractLsb' 8 6 = (ringed.sq 0).cq ∧ (0x00710027#32).extractLsb' 0 5 ≠ (ringed.sq 0).log2 ∧
    (0x00710126#32).extractLsb' 8 6 ≠ (ringed.sq 0).cq ∧ (0x00100026#32).extractLsb' 0 5 = (ringed.cq 0).log2 ∧
    (0x00100027#32).extractLsb' 0 5 ≠ (ringed.cq 0).log2 := by decide +kernel
theorem test_sq_disable_hyps : (0x00710006#32).getLsbD 5 = false ∧ 0x00710006#32 &&& 0xFF80C080#32 = 0#32 ∧
    (0x00710006#32).extractLsb' 0 5 = (ringed.sq 0).log2 ∧ (0x00710006#32).extractLsb' 8 6 = (ringed.sq 0).cq ∧
    (0x00710007#32).extractLsb' 0 5 ≠ (ringed.sq 0).log2 ∧ (up.sq 0).enable = false ∧ (up.cq 0).enable = false := by decide +kernel
theorem test_cq_disable_hyps : 0x00100006#32 &&& 0x00080000#32 = 0#32 ∧ (0x00100006#32).extractLsb' 0 5 = (ringed.cq 0).log2 ∧
    (∀ m : Fin 64, ((ringed.setSq 0 {}).sq m).enable = true → ((ringed.setSq 0 {}).sq m).cq.toNat ≠ 0) ∧ ringed.dev.link.cmds = [] ∧
    ((ringed.sq 0).enable = true ∧ (ringed.sq 0).cq.toNat = 0) ∧ (0x00100007#32).extractLsb' 0 5 ≠ (ringed.cq 0).log2 := by decide +kernel
theorem test_cq_disable : ((run (.cqDisable 0 0x00100006) ringed).cq 0).enable = true ∧
    ((run (.cqDisable 0 0x00100006) (ringed.setSq 0 {})).cq 0).enable = false := by decide +kernel
theorem test_reserved_ring_bits : (1#64).toNat % 4096 ≠ 0 ∧ 0x80#32 &&& 0xFF80C080#32 ≠ 0#32 ∧ 0x00080000#32 &&& 0x00080000#32 ≠ 0#32 := by
  decide +kernel
/-- R398: the greatest index, 63 of 64 entries, and the first value beyond. -/
theorem test_doorbell_hyps : (63#32).toNat < 2 ^ (ringed.sq 0).log2.toNat ∧ 2 ^ (ringed.sq 0).log2.toNat ≤ (64#32).toNat ∧
    (63#32).toNat < 2 ^ (ringed.cq 0).log2.toNat ∧ 2 ^ (ringed.cq 0).log2.toNat ≤ (64#32).toNat := by decide +kernel
theorem test_sq_doorbell : ((run (.sqDoorbell 0 63) ringed).sq 0).tail = 63#16 ∧ ((run (.sqDoorbell 0 64) ringed).sq 0).cfgErr = true := by
  decide +kernel
theorem test_cq_doorbell : ((run (.cqDoorbell 0 63) ringed).cq 0).head = 63#16 ∧ ((run (.cqDoorbell 0 64) ringed).cq 0).cfgErr = true := by
  decide +kernel

-- Packets and replies (PacketsAreCheckedInOrder to CommandNumbersStayDistinct)

/-- A NOP in class 0 with tag 1, as its 64 bytes spell it (R402). -/
def nopEntry : BitVec 512 := 0x10001#512
theorem test_check_hyps : up.dev.ember = false ∧ up.dev.start.recovery = false ∧ opClasses (parsePacket 0#512).opcode = none ∧
    opClasses (parsePacket nopEntry).opcode = some 3#3 ∧ headerClean nopEntry = true ∧ headerClean (nopEntry ||| 0x800#512) = false ∧
    (parsePacket (nopEntry ||| 0x300#512)).cls = 3#2 ∧ operandsOk (parsePacket nopEntry) = true ∧
    operandsOk (parsePacket (nopEntry ||| 1#512 <<< 128)) = false := by decide +kernel
/-- R403: each check in its order, on packets that only one fails. -/
theorem test_check_packet :
    checkPacket {} 0 up.dev = (stOpcodeInvalid, false) ∧ checkPacket {} (nopEntry ||| 0x800#512) up.dev = (stPacketFormat, false) ∧
    checkPacket {} (nopEntry ||| 0x300#512) up.dev = (stClassInvalid, false) ∧
    checkPacket {} nopEntry (withCmd (cmdOf (pack 1)) up.dev) = (stTagBusy, false) ∧
    checkPacket {} (nopEntry ||| 1#512 <<< 128) up.dev = (stPacketFormat, true) ∧ checkPacket {} nopEntry up.dev = (stOk, true) := by
  decide +kernel
def filled : State := ringed.setSq 0 { enable := true, log2 := 6, tail := 1 }
theorem test_fetch_hyps : filled.dev.fetching = true ∧ (filled.sq 0).enable = true ∧ (filled.sq 0).head ≠ (filled.sq 0).tail ∧
    filled.dev.link.cmds.length < 4096 ∧ filled.mayFetch 0 (parsePacket nopEntry).opcode = true := by decide +kernel
/-- R410: 4,096 commands in flight. -/
theorem test_fetch_full_hyps :
    4096 ≤ (List.replicate 4096 (cmdOf (pack 1))).length ∧
    (∀ l, (filled.onDev fun d => { d with link := { d.link with cmds := l } }).dev.fetching = filled.dev.fetching) := by
  exact ⟨by simp only [List.length_replicate, Nat.le_refl], fun _ => rfl⟩
theorem test_fetch : ((run (.packetFetch 0 nopEntry) filled).sq 0).head = 1#16 ∧
    (run (.packetFetch 0 nopEntry) filled).dev.link.cmds.map (·.pkt) = [parsePacket nopEntry] := by decide +kernel
theorem test_entry_error : ((run (.sqEntryReadError 0) filled).sq 0).enable = false ∧
    (run (.sqEntryReadError 0) filled).dev.out = [.aer .ringEntry] := by decide +kernel
def refusedCmd : Cmd := { cmdOf (pack 0x7F) with phase := .refused, reply := { status := stOpcodeInvalid } }
theorem test_opcode_invalid_hyps :
    (withCmd refusedCmd up.dev).link.cmds.find? (fun x => x.phase == .refused) = some refusedCmd ∧
    (withCmd refusedCmd up.dev).cmd 0 = some refusedCmd := by decide +kernel
/-- A command that has ended, its reply waiting for ring 0 at entry 63 of 64 (the next index wraps) and at entry 62. -/
def replying (tail head : Half) : State :=
  (ringed.setCq 0 { enable := true, log2 := 6, tail := tail, head := head }).onDev fun d =>
    let d1 := withCmd { cmdOf (pack 1) with phase := .done } d
    { d1 with link := { d1.link with replies := [0] } }
theorem test_reply_hyps :
    ((replying 63 1).dev.link.replies.find? fun id => (replying 63 1).dev.link.cmds.any fun x => x.id == id && x.cq == 0) = some 0 ∧
    ((replying 63 1).dev.cmd 0).isSome = true ∧ ((replying 63 1).cq 0).enable = true ∧
    BitVec.ofNat 16 ((((replying 63 1).cq 0).tail.toNat + 1) % 2 ^ ((replying 63 1).cq 0).log2.toNat) ≠ ((replying 63 1).cq 0).head ∧
    BitVec.ofNat 16 ((((replying 63 0).cq 0).tail.toNat + 1) % 2 ^ ((replying 63 0).cq 0).log2.toNat) = ((replying 63 0).cq 0).head := by
  decide +kernel
theorem test_reply_wraps : ((run (.replyWrite 0) (replying 63 1)).cq 0).tail = 0#16 ∧
    ((run (.replyWrite 0) (replying 63 1)).cq 0).phase = false ∧ (run (.replyWrite 0) (replying 63 1)).dev.link.cmds = [] := by decide +kernel
theorem test_reply_full : (run (.replyWrite 0) (replying 63 0)).dev.link.cqFullSeen = true := by decide +kernel
/-- Ring 0 with an uncovered reply and vector 2047, MSI-X enabled and its entry unmasked. -/
def covering (en fm : Bool) (control : Word) : State :=
  (up.setCq 0 { enable := true, log2 := 6, uncovered := 1, vector := 2047 }).onDev fun d =>
    { d with link := { d.link with msix := { enable := en, functionMask := fm, entries := [(2047, { control := control })], pending := [2047] } } }
theorem test_coalesce_hyps : 0 < ((covering true false 0).cq 0).uncovered ∧ ((covering true false 0).cq 0).vector ≠ 0#11 ∧
    ((covering true false 0).cq 0).coverAt ≤ (covering true false 0).dev.nowUs ∧
    ((covering true false 0).dev.link.msix.entry 2047).control.getLsbD 0 = false ∧
    ((covering true false 1).dev.link.msix.entry 2047).control.getLsbD 0 = true := by decide +kernel
theorem test_coalesce : (run (.msixCoalesceTimeout 0) (covering true false 0)).dev.out = [.msix 2047 0 0] ∧
    (run (.msixCoalesceTimeout 0) (covering true true 0)).dev.out = [] := by decide +kernel
theorem test_unmask : (run (.msixUnmask (some 2047)) (covering true false 1)).dev.link.msix.pending = [] ∧
    (run (.msixUnmask (some 2047)) (covering true true 1)).dev.link.msix.pending = [2047] ∧
    (run (.msixUnmask none) (covering true true 0)).dev.out = [.msix 2047 0 0] := by decide +kernel
theorem test_nop_hyps : takes (pack 1) (waits (pack 1) up.dev) = true := by decide +kernel
theorem test_nop : (run (.nop 1) (waits (pack 1) up.dev)).dev.link.replies = [0] := by decide +kernel
def fenceCmd (all : Nat) : Cmd := { cmdOf (pack 2 all) with id := 1 }
/-- A fence after an earlier command of its own ring (0), or of another (1). -/
def fenced (q : Fin 64) (all : Nat) : State :=
  upWith fun d => withCmd (fenceCmd all) (withCmd { cmdOf { pack 1 with tag := 2 } with sq := q, phase := .running } d)
theorem test_fence_hyps :
    (fenced 0 0).dev.taken 1 2 = some (fenceCmd 0) ∧ (fenced 1 0).dev.cmd 1 = some (fenceCmd 0) ∧
    (fenced 1 1).dev.taken 1 2 = some (fenceCmd 1) ∧ ((fenced 1 0).dev.link.cmds.filter fun e => e.id == 1) = [fenceCmd 0] := by
  decide +kernel
theorem test_fence : ((run (.fence 1) (fenced 0 0)).dev.cmd 1).map (·.phase) = some .fence ∧
    ((run (.fence 1) (fenced 1 1)).dev.cmd 1).map (·.phase) = some .fence ∧
    ((run (.fence 1) (fenced 1 0)).dev.cmd 1).map (·.phase) = some .done := by decide +kernel
theorem test_numbers_hyps : ((fenced 0 0).dev.link.cmds.map (·.id)).Nodup ∧
    ((fenced 0 0).dev.link.cmds.all fun c => decide (c.id < (fenced 0 0).dev.link.nextId)) = true := by decide +kernel

-- Registers and BAR2 (RegisterWritesTakeTheirFields to QueryWritesItsItem)

theorem test_reg_write_hyps : up.dev.ready = true ∧ up.dev.power.state = 0#2 ∧ (5#64).toNat < 2 ^ 32 ∧
    (1#64).toNat &&& Reg.eventEnable.rsv = 0 ∧ (0x100#64).toNat &&& Reg.eventEnable.rsv ≠ 0 ∧ (2#64).toNat &&& Reg.eventStatus.rsv = 0 ∧
    (1#64).toNat &&& (Reg.linkCfg 3).rsv = 0 ∧ (0#64).toNat &&& (Reg.dieStatus 11).rsv = 0 ∧ up.dev.ctrs.debugMode = false := by decide +kernel
theorem test_reg_write : (run (.registerWrite .eventEnable .whole 0xFF) up).regValue .eventEnable = 0xFF ∧
    (run (.registerWrite .eventEnable .whole 0x100) up).dev.link.protoErrors = 1#16 ∧
    (run (.registerWrite .prioMap .whole 0x1B) up).regValue .prioMap = 0x1B := by decide +kernel
theorem test_half_hyps : (Reg.cqBase 63).is64 = true ∧ up.dev.halfOpen (.cqBase 63) = true ∧ Reg.pwrCap.is64 = true ∧
    Reg.pwrCap.onHub = true ∧ up.dev.pins.perstN = true ∧ up.dev.link.holds = [] := by decide +kernel
theorem test_halves :
    ((run (.registerWrite (.cqBase 63) .upper 0x1) (run (.reg64LowerHalfWrite (.cqBase 63) 0x2000) up)).cq 63).base = 0x100002000#64 := by
  decide +kernel
theorem test_low_half_read : (run (.reg64LowHalfRead (.cqBase 63)) (up.setCq 63 { base := 0x500001000 })).highRead (.cqBase 63) = 5 := by
  decide +kernel
/-- R415: the count is held at 0xFFFF. -/
theorem test_protocol_error : (run (.registerProtocolError false 4) (upWith fun d =>
    { d with link := { d.link with protoErrors := 0xFFFF } })).dev.link.protoErrors = 0xFFFF#16 := by decide +kernel
def lastByte : Nat := 48 * 0x40000000 - 1
theorem test_bar2_hyps : stacked.dev.ready = true ∧ stacked.dev.power.state = 0#2 ∧ Memory.wf stacked.dev.mem = true ∧
    stacked.dev.daOk lastByte 1 = true ∧ stacked.dev.daOk lastByte 2 = false ∧ stacked.dev.inPools lastByte 1 = false ∧
    stacked.dev.mem.poison = [] ∧ stacked.dev.link.bar2Da lastByte = lastByte := by decide +kernel
theorem test_bar2_write : (run (.bar2Write lastByte [0xA5]) stacked).dev.mem.read lastByte = 0xA5#8 ∧
    (run (.bar2Write lastByte [0xA5, 0]) stacked).dev.link.protoErrors = 1#16 := by decide +kernel
theorem test_bar2_read : ((run (.bar2Read lastByte 1 []) (run (.bar2Write lastByte [0xA5]) stacked)).dev.out.head?) =
    some (.readData [0xA5] false) := by decide +kernel
def querying (item space : Nat) : State := waits (pack 3 item 0x1000 space) stacked.dev
theorem test_query_hyps : takes (pack 3 0xFF 0x1000 64) (querying 0xFF 64) = true ∧ (querying 0xFF 64).dev.queryBytes 0xFF 0 = none ∧
    takes (pack 3 3 0x1000 2) (querying 3 2) = true := by decide +kernel
theorem test_query : (run (.query 1) (querying 0xFF 64)).dev.cmd 0 =
    some { cmdOf (pack 3 0xFF 0x1000 64) with phase := .done, reply := { status := stQueryItem, body := vals 0 0 0 } } := by decide +kernel

-- Programs and launches (ProgramsAreLoadedAndUnloaded to CancelEndsItsTarget)

def loadPack : Packet := pack 0x10 0x1000 464
def loading (bs : List Byte) : State := waits loadPack { stacked.dev with mem := bytesIn 0x1000 bs }
theorem test_load_hyps : takes loadPack (loading vecBytes) = true ∧ (loading vecBytes).dev.progs.programs.length < 256 ∧
    (loading vecBytes).dev.daOk 0x1000 464 = true ∧ (loading vecBytes).dev.mem.firstPoison 0x1000 464 = none ∧
    (loading vecBytes).dev.mem.readBytes 0x1000 464 = vecBytes ∧ (loading vecBytes).dev.numerics = 0 := by decide +kernel
theorem test_load_image : headerOk vecBytes 464 = true ∧ digestOk vecBytes = true ∧ bytesAt vecBytes 19 16 = 0 ∧
    parseImage vecBytes = some vecImage ∧ stacked.dev.imageStatus vecImage = none := by decide +kernel
/-- R206: images that fail one check each: the magic, the digest, the version, the section table, a kiln out of service. -/
theorem test_load_refused :
    headerOk (0 :: vecBytes.drop 1) 464 = false ∧ digestOk (imageBytes 0 (List.replicate 48 0)) = false ∧
    bytesAt (imageBytes 9 []) 19 16 = 9 ∧ parseImage (vecBytes.take 6 ++ [0, 0] ++ vecBytes.drop 8) = none ∧
    up.dev.imageStatus vecImage = some stBufferSize ∧ up.dev.daOk 0x1000 464 = false := by decide +kernel
theorem test_unload_hyps :
    let s := waits (pack 0x11 5) loaded
    takes (pack 0x11 5) s = true ∧ (s.dev.progs.programs.find? fun p => p.handle == 5 && !p.retiring).isSome = true ∧
    s.dev.programHeld 5 = false ∧ (s.dev.progs.programs.find? fun p => p.handle == 6 && !p.retiring).isNone = true ∧
    Dev.programHeld { loaded with tier := { loaded.tier with windows := [{ num := 0, program := 5, depth := 1, passes := 0, layers := [] }] } } 5 = true := by
  decide +kernel
def launching : State := waits (pack 0x12 5 0x3000) loaded
theorem test_launch_hyps : takes (pack 0x12 5 0x3000) launching = true ∧ launching.dev.splitPending 5 = false ∧
    (match launching.dev.judge { owner := .cmd 0, cls := 0, handle := 5, mode := 0, da := 0x3000, seed := 0, deadline := 0 } with
     | .ok l => launching.dev.imageOf l == some vecImage && l.entries.all (fun e => !e.reads && !e.writes)
     | .error _ => false) = true ∧ launching.dev.coll.jobs = [] := by decide +kernel
theorem test_launch : (run (.launch 1) launching).dev.launches.map (·.phase) = [.running] := by decide +kernel
theorem test_launch_refused_hyps : (match (waits (pack 0x12 6 0x3000) loaded).dev.judge
    { owner := .cmd 0, cls := 0, handle := 6, mode := 0, da := 0x3000, seed := 0, deadline := 0 } with
    | .ok _ => false
    | .error e => e.1 == stProgramInvalid && e.2 == 0xFFFFFFFF) = true := by decide +kernel
def listPack : Packet := pack 0x13 256 0x8000
theorem test_list_hyps : takes listPack (waits listPack loaded) = true ∧ loaded.daOk 0x8000 8192 = true ∧
    loaded.mem.firstPoison 0x8000 8192 = none ∧ up.dev.daOk 0x8000 8192 = false := by decide +kernel
theorem test_list : (run (.launchList 1) (waits listPack up.dev)).dev.cmd 0 =
    some { cmdOf listPack with phase := .done, reply := { status := stAddress, body := vals 0 0 0 } } := by decide +kernel
/-- A launch with nothing left: its entry is a zero shape. -/
def finished : State := up.onDev fun _ => launched 0
theorem test_complete_hyps : finished.dev.launchOf 3 = some (launchOf 0) ∧ finished.dev.imageOf (launchOf 0) = some vecImage ∧
    (launchOf 0).phase = .running ∧ (launchOf 0).step = none ∧ finished.dev.launchOver (launchOf 0) vecImage = true ∧
    finished.dev.cmd 7 = some launchCmd ∧ launchCmd.phase ≠ .done ∧ (launchOf 0).cls ≠ 2 := by decide +kernel
theorem test_complete : (run (.launchComplete 3) finished).dev.launches = [] ∧
    ((run (.launchComplete 3) finished).dev.cmd 7).map (·.reply.status) = some stOk := by decide +kernel
def stopping (op : Nat) (m : Nat) (ph : LaunchPhase) : State :=
  beside (pack op 2) { launched m with launches := [{ launchOf m with phase := ph }] }
theorem test_preempt_hyps :
    let s := stopping 0x14 4 .running
    takes (pack 0x14 2) s = true ∧ s.dev.tagHolder 2 = some launchCmd ∧ launchCmd.pkt.opcode = 0x12#8 ∧ launchCmd.phase = .running ∧
    s.dev.preemptible 7 = true ∧ s.dev.launchesOf 7 = [launchOf 4] ∧ s.dev.launchOf 3 = some (launchOf 4) ∧ s.dev.tileRuns 3 = false ∧
    ((s.dev.imageOf (launchOf 4)).bind (s.dev.front (launchOf 4))).isSome = true ∧
    ((s.dev.imageOf (launchOf 0)).bind (s.dev.front (launchOf 0))).isNone = true ∧ s.dev.tagHolder 9 = none := by decide +kernel
/-- A launch of which a tile runs an execution. -/
def onTile (d : Dev) : Dev :=
  { d with kilns := d.kilns.set 0 { d.kilns.get 0 with
    tiles := (d.kilns.get 0).tiles.set 0 { unbound := false, running := some { launch := 3, ix := 0, rung := 0 } } } }
theorem test_preempt_tile_hyps : (onTile (launched 4)).tileRuns 3 = true ∧ (onTile (launched 4)).launchOf 3 = some (launchOf 4) := by
  decide +kernel
theorem test_preempt : ((run (.preempt 1) (stopping 0x14 4 .running)).dev.launchOf 3).map (·.phase) = some .preempted := by decide +kernel
theorem test_resume_hyps :
    let s := stopping 0x15 4 .preempted
    takes (pack 0x15 2) s = true ∧ s.dev.tagHolder 2 = some launchCmd ∧ (s.dev.launchesOf 7).map (·.phase) = [.preempted] := by decide +kernel
theorem test_resume : ((run (.resume 1) (stopping 0x15 4 .preempted)).dev.launchOf 3).map (·.phase) = some .running ∧
    (run (.resume 1) (stopping 0x15 4 .running)).dev.link.replies = [0] := by decide +kernel
theorem test_cancel_hyps :
    let s := stopping 0x16 4 .running
    takes (pack 0x16 2) s = true ∧ s.dev.tagHolder 2 = some launchCmd ∧ launchCmd.cancelling = false ∧ s.dev.launchesOf 7 = [launchOf 4] ∧
    (launchOf 4).phase = .running ∧ (launchOf 4).job = none ∧ s.dev.listRun 7 = none ∧ s.dev.launchOf 3 = some (launchOf 4) := by
  decide +kernel
def fillWaits : Cmd := { cmdOf { pack 0x21 0 8 with cls := 1, tag := 2 } with id := 7 }
theorem test_cancel_waiting_hyps :
    let s := beside (pack 0x16 2) (withCmd fillWaits loaded)
    s.dev.tagHolder 2 = some fillWaits ∧ s.dev.cmd 7 = some fillWaits ∧ fillWaits.phase = .waiting ∧
    fillWaits.pkt.opcode.toNat ∈ [0x02, 0x12, 0x13, 0x20, 0x21, 0x22, 0x23, 0x50, 0x61, 0x62] ∧ takes (pack 0x16 2) s = true := by
  decide +kernel
theorem test_cancel : ((run (.cancel 1) (beside (pack 0x16 2) (withCmd fillWaits loaded))).dev.cmd 7).map (·.reply.status) =
    some stCancelled ∧ ((run (.cancel 1) (stopping 0x16 4 .running)).dev.launchOf 3).map (·.phase) = some (.ending stCancelled) := by
  decide +kernel

-- Memory commands, tiers, windows, atomics (MemoryIsFilledAndCopied to SharedMemoryIsSplit)

def fillPack : Packet := pack 0x21 0x1000 16 0x1122334455667788
theorem test_fill_hyps : takes fillPack (waits fillPack stacked.dev) = true ∧ Memory.wf stacked.dev.mem = true ∧
    stacked.dev.daOk 0x1000 16 = true ∧ stacked.dev.inPools 0x1000 16 = false ∧ stacked.dev.inWindowDst 0x1000 16 = false ∧
    stacked.dev.mem.dead = [] ∧ up.dev.daOk 0x1000 16 = false ∧
    takes (pack 0x21 0x1001 16) (waits (pack 0x21 0x1001 16) stacked.dev) = true := by decide +kernel
theorem test_fill : (run (.memFill 1) (waits fillPack stacked.dev)).dev.mem.readNat 0x1008 8 = 0x1122334455667788 := by decide +kernel
/-- Two rows of 8 bytes, 16 apart, from 0x1000 to 0x2000, from host memory (1), to host memory (2) or between device addresses (0). -/
def copyPack (hosts : Nat) : Packet := pack 0x20 0x1000 0x2000 8 (2 + hosts * 0x10000) 16 16
def copying (hosts : Nat) : State := waits (copyPack hosts) { stacked.dev with mem := bytesIn 0x1000 (leBytes 24 0x0102030405060708) }
theorem test_copy_hyps (h : Fin 3) : takes (copyPack h.val) (copying h.val) = true ∧ Memory.wf (copying h.val).dev.mem = true ∧
    (copying h.val).dev.copyCheck (copyReq (copyPack h.val)) = stOk ∧ (copyReq (copyPack h.val)).len ≠ 0 ∧
    (copying h.val).dev.mem.poison = [] ∧ (copying h.val).dev.mem.dead = [] ∧
    overlaps ((copyReq (copyPack h.val)).dstRow 0) 8 ((copyReq (copyPack h.val)).dstRow 1) 8 = false := by
  revert h; decide +kernel
theorem test_copy : (run (.memCopy 1 [] none) (copying 0)).dev.mem.readNat 0x2000 8 = 0x0102030405060708 ∧
    (run (.memCopy 1 (leBytes 8 5 ++ leBytes 8 9) none) (copying 1)).dev.mem.readNat 0x2010 8 = 9 := by decide +kernel
/-- Rows that overlap, and a range that faults; no bytes at all. -/
theorem test_copy_refused_hyps :
    stacked.dev.copyCheck (copyReq (pack 0x20 0x1000 0x1004 8 1)) = stMemOverlap ∧
    up.dev.copyCheck (copyReq (copyPack 0)) = stAddress ∧ (copyReq (pack 0x20 0x1000 0x2000 0 1)).len = 0 ∧
    (copyReq (copyPack 3)).hostSrc = true ∧ (copyReq (copyPack 3)).hostDst = true ∧ up.dev.copyCheck (copyReq (copyPack 3)) = stOk ∧
    takes (copyPack 3) (waits (copyPack 3) up.dev) = true := by decide +kernel
def atomicAdd (op : AtomicOp) (da : Nat) : AtomicReq :=
  { op := op, wide := false, da := da, operand := 0xFFFFFFFF, compare := 0, line := [], acquire := false, release := false }
theorem test_atomic_hyps : stacked.dev.atomicTier 0x1000 = true ∧ 0x1000 % (atomicAdd .add 0x1000).bytes = 0 ∧
    stacked.dev.mem.firstPoison 0x1000 4 = none ∧ stacked.dev.atomicTier 0x1C000000000 = false ∧ stacked.dev.atomicTier 0x1002 = true ∧
    0x1002 % (atomicAdd .add 0x1002).bytes ≠ 0 := by decide +kernel
/-- R231: an addition wraps to the width and answers the old value. -/
theorem test_atomic : (run (.atomic (atomicAdd .add 0x1000)) (upWith fun _ => { stacked.dev with mem := bytesIn 0x1000 [5] })).dev.mem.readNat 0x1000 8 = 4 ∧
    (run (.atomic (atomicAdd .cas 0x1000)) stacked).dev.mem.readNat 0x1000 4 = 0xFFFFFFFF := by decide +kernel
/-- A window of four units: 0 and 1 in stacks, 2 and 3 in the crock tier. -/
def tiered : Dev := { stacked.dev with tier := { stacked.dev.tier with
  units := 4, stackUnits := 516, crockUnits := 2, inStack := 2,
  placed := [{ ix := 0, place := some 0 }, { ix := 1, place := some 1, heat := 9, traffic := 0x2000000 }, { ix := 2, place := none },
             { ix := 3, place := none, slot := 1 }] } }
def unitPack (op first n flag : Nat) : Packet := pack op (0x100000000000 + first * 0x200000) (n * 0x200000) (flag + 0xFF00)
theorem test_migrate_hyps :
    takes (unitPack 0x22 0 2 1) (waits (unitPack 0x22 0 2 1) tiered) = true ∧ tiered.inWindow 0x100000000000 0x800000 = true ∧
    tiered.inWindow 0x100000000000 0x800001 = false ∧ (unitsOf 0x100000000000 0x400000) = [0, 1] ∧
    ([0, 1].map tiered.tier.unit).map (·.place) = [some 0, some 1] ∧ ([2, 3].map tiered.tier.unit).map (·.place) = [none, none] ∧
    ((List.range 4).map tiered.tier.unit).all (fun u => !u.pinned) = true ∧ 2 + tiered.tier.pinnedCount ≤ tiered.tier.stackUnits := by
  decide +kernel
theorem test_migrate_down : (run (.migrate 1) (waits (unitPack 0x22 0 2 1) tiered)).dev.tier.moves.map (fun m => (m.ix, m.dest)) =
    [(0, none), (1, none)] ∧ (run (.migrate 1) (waits (unitPack 0x22 2 2 1) tiered)).dev.link.replies = [0] := by decide +kernel
def pinnedTier : Dev := { tiered with tier := { tiered.tier with placed := [{ ix := 0, place := some 0, hostPin := true }] } }
theorem test_pin_hyps : takes (unitPack 0x23 0 2 0) (waits (unitPack 0x23 0 2 0) tiered) = true ∧
    tiered.tier.pinnedWith [0, 1] ≤ tiered.tier.pinLimit ∧ tiered.tier.pinLimit = 4 ∧
    ({ tiered.tier with stackUnits := 513 } : TierPart).pinLimit < tiered.tier.pinnedWith [0, 1] ∧
    (pinnedTier.tier.unit 0).pinned = true ∧ takes (unitPack 0x23 0 1 1) (waits (unitPack 0x23 0 1 1) pinnedTier) = true := by decide +kernel
theorem test_pin : (((run (.pin 1) (waits (unitPack 0x23 0 2 0) tiered)).dev.tier.unit 1).hostPin,
    ((run (.unpin 1) (waits (unitPack 0x23 0 1 1) pinnedTier)).dev.tier.unit 0).hostPin) = (true, false) := by decide +kernel
theorem test_migrate_pinned : ((run (.migrate 1) (waits (unitPack 0x22 0 1 1) pinnedTier)).dev.cmd 0).map (·.reply.status) = some stPinned := by
  decide +kernel
def movingTier : State := upWith fun _ => { tiered with tier := { tiered.tier with moves := [{ ix := 2, dest := some 0, victim := some 0 }] } }
theorem test_move_hyps : (movingTier.dev.tier.moves.find? fun x => x.ix == 2) = some { ix := 2, dest := some 0, victim := some 0 } ∧
    (UMove.victim { ix := 2, dest := some 0, victim := some 0 }) ≠ some 2 := by decide +kernel
theorem test_move : ((run (.unitMoveComplete 2) movingTier).dev.tier.unit 2).place = some 0 ∧
    ((run (.unitMoveComplete 2) movingTier).dev.tier.unit 0).place = none := by decide +kernel
/-- R243: heat 9 becomes 4 + min(128, 512). -/
theorem test_epoch : (upWith fun _ => tiered).dev.running = true ∧
    ((run .migrationEpochEnd (upWith fun _ => tiered)).dev.tier.unit 1).heat = 132 := by decide +kernel
-- Weight windows
def boundedImage : Image := { vecImage with classes := 4 }
/-- A stream table of one layer with one segment of 64 bytes (R248), at 0x5000. -/
def streamBytes : List Byte :=
  leBytes 2 1 ++ leBytes 2 1 ++ leBytes 4 1 ++ List.replicate 56 0 ++ leBytes 4 1 ++ List.replicate 60 0 ++
  leBytes 6 0x20000000000 ++ leBytes 6 0x9000 ++ leBytes 4 1
def windowed : Dev := { loaded with
  mem := bytesIn 0x5000 streamBytes, tier := { loaded.tier with chOk := 1, channelGib := 32 },
  progs := { loaded.progs with programs := [{ handle := 5, image := boundedImage, retiring := false, scratch := [] }] } }
def seg : WinSeg := { src := 0x20000000000, dst := 0x9000, len := 64 }
def windowPack (close : Nat) : Packet := pack 0x24 (7 + 5 * 0x100 + 16 * 0x10000 + close * 0x1000000) 0x5000 0
theorem test_window_hyps : takes (windowPack 0) (waits (windowPack 0) windowed) = true ∧ windowed.tier.windows.length < 8 ∧
    (windowed.liveProgram 5).isSome = true ∧ windowed.daOk 0x5000 144 = true ∧ windowed.mem.firstPoison 0x5000 144 = none ∧
    windowed.mem.readBytes 0x5000 144 = streamBytes ∧ bytesAt streamBytes 7 4 = 1 ∧ bytesAt streamBytes 3 2 = boundedImage.layerCount ∧
    parseStream streamBytes 1 = some [[seg]] ∧ windowed.streamCheck boundedImage [[seg]] 16 0 = stOk := by decide +kernel
theorem test_window_open : (run (.windowStream 1) (waits (windowPack 0) windowed)).dev.tier.windows.map (·.layers) = [[[seg]]] := by decide +kernel
def opened : Dev := { windowed with mem := bytesIn 0x20000000000 [7], tier := { windowed.tier with
  windows := [{ num := 7, program := 5, depth := 16, passes := 0, layers := [[seg]] }] } }
theorem test_window_close_hyps : takes (windowPack 1) (waits (windowPack 1) opened) = true ∧ opened.windowAwaited 5 = false ∧
    Dev.windowAwaited { opened with launches := [launchOf 4] } 5 = true := by decide +kernel
theorem test_window_close : (run (.windowClose 1) (waits (windowPack 1) opened)).dev.tier.windows = [] := by decide +kernel
theorem test_window_fill_hyps : (upWith fun _ => opened).dev.running = true ∧ (opened.tier.windows.map (·.filled)) = [0] ∧
    (opened.tier.windows.map (·.depth)) = [16] := by decide +kernel
theorem test_window_fill : (run (.windowUseFilled 7) (upWith fun _ => opened)).dev.mem.read 0x9000 = 7#8 := by decide +kernel
-- Shared memory
theorem test_split_hyps : (16#32).toNat % 32 ≤ 16 ∧ 16 < (17#32).toNat % 32 ∧ 16#32 &&& 0xFFFF80E0#32 = 0#32 ∧
    maxNat (up.dev.progs.programs.map fun p => p.scratch.getD 0 0) = 0 ∧
    1 * 0x800000 < maxNat ([{ handle := 5, image := vecImage, retiring := false, scratch := [0x800001] }].map fun (p : Program) => p.scratch.getD 0 0) := by
  decide +kernel
def splitting : State := upWith fun d => { d with
  mem := bytesIn 0x1C004000000 [9], kilns := d.kilns.set 0 { d.kilns.get 0 with shmem := { steps := 16, inForce := 8, pending := true, refused := false } } }
theorem test_apply_hyps : (splitting.dev.kiln 0).shmem.pending = true ∧ splitting.dev.kilnUsed 0 = false := by decide +kernel
theorem test_split : ((run (.shmemPartRequest 0 16) up).dev.kiln 0).shmem.pending = true ∧
    ((run (.shmemPartRequest 0 17) up).dev.kiln 0).shmem.refused = true := by decide +kernel
theorem test_apply : (run (.shmemPartApply 0) splitting).dev.mem.read 0x1C004000000 = 0#8 ∧
    ((run (.shmemPartApply 0) splitting).dev.kiln 0).shmem.inForce = 16 := by decide +kernel

-- Pools, contexts, function and slip tables (ContextsAndPoolsAreMade to SlipBlocksAreReadAndDecoded)

/-- Pool 1: 64 frames of 64 KiB in unit 0, its tables in units 2 and 3 (R169 to R171). -/
def pool1 (refs : List (Nat × Nat)) : Pool :=
  { frameKiB := 64, frameBase := 0x100000000000, frameLen := 0x200000, tabBase := 0x100000400000, tabLen := 0x400000, pinned := true, refs := refs }
def poolPack : Packet := pack 0x30 1 0x14001 0x100000000000 0x200000 0x100000400000 0x400000
/-- The tier with all its units in stacks. -/
def stackedTier : Dev :=
  let all : List UUnit := (List.range 4).map fun i => { ix := i, place := some i }
  { tiered with tier := { tiered.tier with crockUnits := 0, inStack := 4, placed := all } }
def pooled (refs : List (Nat × Nat)) (xs : List Ctx) : Dev :=
  { stackedTier with cx := { stackedTier.cx.setPool 1 (some (pool1 refs)) with ctxs := xs } }
theorem test_pool_hyps : takes poolPack (waits poolPack stackedTier) = true ∧ stackedTier.poolCheck 1 (pool1 []) = stOk ∧
    ((pool1 []).pinUnits.map stackedTier.tier.unit).all (fun u => u.place.isSome) = true ∧ tiered.poolCheck 1 (pool1 []) = stOk ∧
    (tiered.tier.unit 2).place = none ∧ up.dev.poolCheck 1 (pool1 []) = stPoolInvalid ∧ (pooled [] []).poolCheck 1 (pool1 []) = stPoolBusy := by
  decide +kernel
theorem test_pool_made : (run (.ctxCreatePool 1) (waits poolPack stackedTier)).dev.cx.poolOf 1 = some (pool1 []) ∧
    ((run (.ctxCreatePool 1) (waits poolPack stackedTier)).dev.cmd 0).map (·.reply.status) = some stOk := by decide +kernel
theorem test_pool_destroy_hyps : takes (pack 0x32 1 1) (waits (pack 0x32 1 1) (pooled [] [])) = true ∧
    ((run (.ctxDestroyPool 1) (waits (pack 0x32 1 1) (pooled [] []))).dev.cx.poolOf 1).isNone = true ∧ up.dev.cx.poolOf 1 = none := by
  decide +kernel
/-- A context of one layer and one group, 64-wide BF16, under number 3 with 200 tokens in pages 0 and 1. -/
def ctx3 : Ctx := { num := 3, pool := 1, layers := 1, groups := 1, hdCode := 0, fmtCode := 0, capacity := 64, length := 200,
                    table := [((0, 0, 0), 0), ((0, 0, 1), 1)] }
def held : Dev := { pooled [(0, 2), (1, 1)] [ctx3] with mem := bytesIn 0x100000010000 (List.replicate 64 9) }
def createPack : Packet := pack 0x30 0 0x100010001 64
theorem test_ctx_create_hyps : takes createPack (waits createPack held) = true ∧ ctxCreateCheck held.cx 1 1 1 0 0 64 = stOk ∧
    ctxCreateCheck held.cx 2 1 1 0 0 64 = stPoolInvalid ∧ ctxCreateCheck held.cx 1 0 1 0 0 64 = stCtxFormat ∧
    ctxCreateCheck held.cx 1 256 64 0 0 131072 = stPoolEmpty ∧ (held.cx.ctxs.any fun x => x.pool == 1) = true := by decide +kernel
theorem test_ctx_pool_busy : ((run (.ctxDestroyPool 1) (waits (pack 0x32 1 1) held)).dev.cmd 0).map (·.reply.status) = some stPoolBusy := by
  decide +kernel
/-- R183: a fork of 129 tokens takes both pages; a trim to 130 keeps both and clears rows of page 1; a destroy gives all back. -/
theorem test_ctx_command_hyps : takes (pack 0x31 3 129 8) (waits (pack 0x31 3 129 8) held) = true ∧ held.ctxLive 3 = true ∧
    ctxForkCheck held.cx 3 129 8 = (stOk, 0) ∧ held.cx.find 3 = some ctx3 ∧ held.cx.arb = [] ∧ held.progs.lists = [] ∧
    (ctx3.table.map (·.1)).Nodup ∧ ctx3.streams.length = 6 ∧ ctx3.frameAt 0 0 1 = some 1 ∧ (pool1 [(0, 2), (1, 1)]).count 1 = 1 ∧
    takes (pack 0x33 3 130) (waits (pack 0x33 3 130) held) = true ∧ takes (pack 0x32 0 3) (waits (pack 0x32 0 3) held) = true ∧
    held.ctxLive 4 = false := by decide +kernel
theorem test_ctx_trim : (run (.ctxTrim 1) (waits (pack 0x33 3 10) held)).dev.cx.ctxs.map (fun x => (x.length, x.table.length)) = [(10, 1)] ∧
    ((run (.ctxTrim 1) (waits (pack 0x33 3 10) held)).dev.cx.poolOf 1).map (·.refs) = some [(0, 2)] ∧
    ((run (.ctxTrim 1) (waits (pack 0x33 3 201) held)).dev.cmd 0).map (·.reply.status) = some stCtxRange := by decide +kernel
theorem test_ctx_destroy : (run (.ctxDestroy 1) (waits (pack 0x32 0 3) held)).dev.cx.ctxs = [] ∧
    ((run (.ctxDestroy 1) (waits (pack 0x32 0 3) held)).dev.cx.poolOf 1).map (·.refs) = some [(0, 1)] := by decide +kernel

/-- A table of one segment (R115, R116): a0 + a1 · (x − centre) from 1.0 on, with tails. -/
def fnBytes (hi centre a0 a1 low mono : Nat) : List Byte :=
  leBytes 2 1 ++ leBytes 2 1 ++ leBytes 4 9 ++ leBytes 4 hi ++ leBytes 4 0 ++ [0, BitVec.ofNat 8 mono, 0, 0, BitVec.ofNat 8 low, 1, 0, 0] ++
  leBytes 4 0 ++ leBytes 4 0 ++ leBytes 4 0 ++ leBytes 4 0 ++ List.replicate 24 0 ++
  leBytes 4 0x3F800000 ++ leBytes 4 centre ++ [1, 0, 0, 0] ++ leBytes 4 a0 ++ leBytes 4 a1 ++ List.replicate 28 0
/-- 1.0 throughout; infinity at its end; a low tail that leaves the value at its seam; overflow; a rising tail under a falling mono. -/
def fnGood : List Byte := fnBytes 0x3F800002 0 0x3F800000 0 1 0
def fnBad : List Byte := fnBytes 0x3F800000 0 0x3F800000 0 1 0
def fnTorn : List Byte := fnBytes 0x3F800002 0 0x3F800000 0 0 0
def fnWide : List Byte := fnBytes 0x3F800002 0xFF7FFFFF 0 0x7F7FFFFF 1 0
def fnRising : List Byte := fnBytes 0x3F800002 0 0x3F800000 0 2 2
def tableOf (bs : List Byte) : SegTable := (parseSegTable bs).getD { tableId := 0, hi := 0, pivot := 0, symmetry := 0, mono := 0, seamUlp := 0, lowTail := 0, highTail := 0, lowValue := 0, highValue := 0, negInf := 0, posInf := 0, segs := [], header := [] }
def fnPack (slot release : Nat) : Packet := pack 0x40 0x6000 112 (slot + release * 0x10000)
def fnLoading (bs : List Byte) : State := waits (fnPack 8 0) { stacked.dev with mem := bytesIn 0x6000 bs }
theorem test_fn_load_hyps : takes (fnPack 8 0) (fnLoading fnGood) = true ∧ (fnLoading fnGood).dev.daOk 0x6000 112 = true ∧
    (fnLoading fnGood).dev.mem.readBytes 0x6000 112 = fnGood ∧ (fnLoading fnGood).dev.mem.firstPoison 0x6000 112 = none ∧
    (parseSegTable fnGood).isSome = true ∧ segBoundsOk (tableOf fnGood) = true ∧ segSeamsOk (tableOf fnGood) = true := by decide +kernel
theorem test_fn_load_refused_hyps : (parseSegTable (fnGood.drop 1)).isNone = true ∧ (parseSegTable fnBad).isSome = true ∧
    segBoundsOk (tableOf fnBad) = false ∧ (parseSegTable fnTorn).isSome = true ∧ segBoundsOk (tableOf fnTorn) = true ∧
    segSeamsOk (tableOf fnTorn) = false ∧ takes (fnPack 16 0) (waits (fnPack 16 0) up.dev) = true ∧
    takes (fnPack 7 0) (waits (fnPack 7 0) up.dev) = true := by decide +kernel
theorem test_fn_check_hyps : segRangeOk (tableOf fnGood) = true ∧ segMonoOk (tableOf fnGood) = true ∧ segRangeOk (tableOf fnWide) = false ∧
    segBoundsOk (tableOf fnWide) = true ∧ segRangeOk (tableOf fnRising) = true ∧ segBoundsOk (tableOf fnRising) = true := by decide +kernel
theorem all_pairs_false {f : Word × Word → Bool} {g : Nat → Word} {n : Nat} (hn : 2 ≤ n) (h : f (g 0, g 1) = false) :
    (((List.range n).map g).zip (((List.range n).map g).drop 1)).all f = false := by
  obtain ⟨m, rfl⟩ : ∃ m, n = m + 2 := ⟨n - 2, by omega⟩
  simp [List.range_succ_eq_map, h]
/-- R121: the first pair of finite inputs rises under a mono that falls. -/
theorem test_fn_not_monotone : segMonoOk (tableOf fnRising) = false := by
  have h : (tableOf fnRising).mono = 2 ∧ (tableOf fnRising).symmetry = 0 := by decide +kernel
  have n : 2 ≤ (Machine.orderOf pinf - Machine.orderOf 0xFF7FFFFF#32).toNat := by decide +kernel
  unfold segMonoOk codesBetween
  simp only [h.1, h.2, if_true]
  rw [if_neg (by decide)]
  exact all_pairs_false n (by decide +kernel)
def checking (bs : List Byte) : State :=
  upWith fun d => withCmd { cmdOf (fnPack 8 0) with phase := .running }
    { d with fn := { d.fn with slots := d.fn.slots.set 0 { state := 1, table := parseSegTable bs, cmd := 0 } } }
theorem test_fn_check : ((run (.fnTableCheckComplete 0) (checking fnGood)).dev.fn.slots.get 0).state = 2 ∧
    ((run (.fnTableCheckComplete 0) (checking fnWide)).dev.fn.slots.get 0).state = 0 := by decide +kernel
def fnHeld (state : Nat) (hs : List Nat) : Dev := { up.dev with fn := { up.dev.fn with slots := up.dev.fn.slots.set 0 { state := state, table := none, cmd := 0, holders := hs } } }
theorem test_fn_release : ([(2, []), (2, [3]), (1, []), (3, [])].map fun x =>
    ((run (.fnTableRelease 1) (waits (fnPack 8 1) (fnHeld x.1 x.2))).dev.fn.slots.get 0).state) = [0, 3, 1, 3] := by decide +kernel
/-- A table of four symbols of two bits each (R260), and its packets. -/
def slipBytes : List Byte := [1, 0, 2, 0, 7, 0] ++ List.replicate 26 0 ++ [0x22, 0x22]
def slipTab : SlipTable := { expBits := 2, id := 7, lens := [2, 2, 2, 2] }
def slipPack (slot mask release : Nat) : Packet := pack 0x41 0x6000 34 (slot + mask * 0x10000 + release * 0x100000000)
def slipDev : Dev := { stacked.dev with mem := bytesIn 0x6000 slipBytes }
theorem test_slip_table_hyps : parseSlipTable slipBytes = some slipTab ∧ takes (slipPack 3 0 0) (waits (slipPack 3 0 0) slipDev) = true ∧
    slipDev.daOk 0x6000 34 = true ∧ slipDev.mem.firstPoison 0x6000 34 = none ∧ slipDev.mem.readBytes 0x6000 34 = slipBytes ∧
    (List.finRange 12).all (fun k => ((slipDev.kilns.get k).slip.slots.get 3).state == 0) = true ∧
    takes (slipPack 4 0 0) (waits (slipPack 4 0 0) slipDev) = true ∧ takes (slipPack 0 4096 0) (waits (slipPack 0 4096 0) slipDev) = true := by
  decide +kernel
theorem test_slip_table : ((List.finRange 12).map fun k =>
    (((run (.slipTableLoad 1) (waits (slipPack 3 0x801 0) slipDev)).dev.kilns.get k).slip.slots.get 3).state) =
    [1, 0, 0, 0, 0, 0, 0, 0, 0, 0, 0, 1] := by decide +kernel
/-- Slot 3 of kilns 0 and 1 LOADED, a block bound to it queued at kiln 0. -/
def slipHeld : Dev :=
  let x : SlipPart := { slots := Vector.replicate 4 { state := 1, table := some slipTab } }
  let q : QueuedBlock := { launch := 3, kernel := 0, buf := 0, unit := 0, da := 0x7000, head := { flags := 0, fmt := 5, slot := 3, tableId := 7, origLen := 64, blockLen := 448, index := 0, rsvOk := true }, table := some slipTab }
  { stacked.dev with kilns := (stacked.dev.kilns.set 0 { stacked.dev.kilns.get 0 with slip := { x with queue := [q] } }).set 1 { stacked.dev.kilns.get 1 with slip := x } }
theorem test_slip_release : (([0, 1] : List (Fin 12)).map fun k =>
    (((run (.slipTableRelease 1) (waits (slipPack 3 3 1) slipHeld)).dev.kilns.get k).slip.slots.get 3).state) = [2, 0] ∧
    ((run (.slipTableRelease 1) (waits (slipPack 3 7 1) slipHeld)).dev.cmd 0).map (·.reply.status) = some stSlipSlotState ∧
    ((run (.slipTableLoad 1) (waits (slipPack 3 3 0) slipHeld)).dev.cmd 0).map (·.reply.status) = some stSlipSlotBusy := by decide +kernel

/-- A matrix kernel on tile 0 of kiln 0: 4 by 32 times 32 by 4 in BF16, one execution. -/
def matBuf (kind base : Nat) : Buf :=
  { kind := kind, fmt := .bf16, outliers := false, listed := false, rank := 2, tscale := 0, exts := [32, 4, 1, 1], strides := [64, 0, 0],
    base := base, scaleOff := 0, sideOff := 0, home := 0, level := 0 }
def matKernel : Kernel :=
  { kind := 0, markFmt := 5, wideFmt := 5, range := 0, promote := 0, flags := 0, layer := 0, rotSeed := 0, bufA := 0, bufB := 1, bufOut := 2,
    bufAux := 0xFFFF, shape := 0x30, loop := 0, chain := 0xFFFF, auxIndex := 0xFFFF, auxCount := 0, fnref := 0xFFFF, mMax := 4, nMax := 4,
    kMax := 32, entryMax := 1, execK := 1, kilnMask := 1, tileMask := 1 }
def matImage : Image :=
  { size := 464, numerics := 0, layerCount := 1, classes := 7, bufs := [matBuf 0 0x10000, matBuf 0 0x12000, matBuf 1 0x14000],
    kernels := [matKernel], loops := List.replicate 4 { order := 0, flags := 0, stepM := 0, stepN := 0, stepK := 0 } }
def matEntry : Entry :=
  { bases := [0, 0, 0, 0], m := 4, n := 4, k := 32, qpos := 0, w0 := 0, w1 := 0, ctx := 0, reads := false, writes := false, headFirst := 0, headCount := 1 }
def matLaunch (slips : List Nat) : Launch := { launchOf 4 with entries := [matEntry], slips := slips }
def matDev (slips : List Nat) : Dev :=
  let d := launched 4
  { d with mem := {}, launches := [matLaunch slips], progs := { d.progs with programs := [{ handle := 5, image := matImage, retiring := false, scratch := [] }] } }

/-- A slip stream of buffer 1 on tile 0 (R254, R255): 64 bytes in one block. -/
def slipStream (kind stored : Nat) : SlipStream :=
  { launch := 3, kernel := 0, buf := 1, unit := 0, entry := { stream := 0x7000, kind := kind, stored := stored, expanded := 64 }, nextDa := 0x7000 }
/-- A raw block of 64 bytes, all 5, and its header (R257, R259). -/
def rawHead (index : Nat) : List Byte := [3, 0, 0, 0, 0, 0, 0, 0] ++ leBytes 4 64 ++ leBytes 4 128 ++ leBytes 4 index ++ List.replicate 44 0
def rawBlock : List Byte := rawHead 0 ++ List.replicate 64 5
def slipping (bs : List Byte) (x : SlipStream) (q : List QueuedBlock) : State := upWith fun _ =>
  let d := matDev [1]
  { d with mem := bytesIn 0x7000 bs, kilns := vmod d.kilns 0 fun k => { k with slip := { k.slip with streams := [x], queue := q } } }
theorem test_slip_use : ((slipping rawBlock (slipStream 0 128) []).dev.slipUse 0 3 1 0).isSome = true ∧
    (slipping rawBlock (slipStream 0 128) []).dev.findStream 0 3 0 1 0 = some (slipStream 0 128) := by decide +kernel
theorem test_slip_header_hyps :
    let d := (slipping rawBlock (slipStream 0 128) []).dev
    d.mem.firstPoison 0x7000 64 = none ∧
    (match d.slipBind 0 (slipStream 0 128) (parseSlipHead (d.mem.readBytes 0x7000 64)) with | .ok t => t.isNone | .error _ => false) = true ∧
    (match d.slipBind 0 (slipStream 0 128) (parseSlipHead (rawHead 1)) with | .ok _ => false | .error e => e == 1) = true := by decide +kernel
def rawQueued : QueuedBlock := { launch := 3, kernel := 0, buf := 1, unit := 0, da := 0x7000, head := parseSlipHead (rawHead 0), table := none }
theorem test_slip_header : ((run (.slipBlockHeaderRead 0 3 1 0) (slipping rawBlock (slipStream 0 128) [])).dev.kilns.get 0).slip.queue =
    [rawQueued] := by decide +kernel
theorem test_slip_decoded_hyps :
    let d := (slipping rawBlock (slipStream 0 128) [rawQueued]).dev
    d.mem.firstPoison rawQueued.da rawQueued.head.blockLen = none ∧
    (match d.slipDecode rawQueued with | .ok bs => bs == List.replicate 64 5 | .error _ => false) = true ∧
    (match d.slipDecode { rawQueued with head := { rawQueued.head with flags := 2 } } with | .ok _ => false | .error e => e.kind == 2) = true := by
  decide +kernel
theorem test_slip_decoded : (((run (.slipBlockDecoded 0) (slipping rawBlock (slipStream 0 128) [rawQueued])).dev.kilns.get 0).slip.streams.map
    (·.ready)) = [List.replicate 64 5] := by decide +kernel
/-- A forerunner block stored raw (R270): 64 bytes, all 6. -/
def foreBlock (orig : Nat) : List Byte := leBytes 2 orig ++ [1, 0] ++ leBytes 4 0 ++ leBytes 4 0 ++ leBytes 4 80 ++ List.replicate 64 6
def foreTable : ForeHead := { fmt := 0, count := 1, lens := [] }
def foreStream : SlipStream := { slipStream 1 240 with stored := 160, fore := some foreTable }
def foreQueued (orig : Nat) : QueuedBlock :=
  { rawQueued with head := { flags := 1, fmt := 0, slot := 0, tableId := 0, origLen := orig, blockLen := 80, index := 0, rsvOk := true }, fore := some foreTable }
def foreAfter (s : State) : SlipPart := (s.dev.kilns.get 0).slip
theorem test_fore_hyps :
    (foreStream.foreHead foreTable (foreBlock 64) = some (foreQueued 64).head ∧ foreStream.foreHead foreTable (foreBlock 0) = none) ∧
    decodeForeBlock foreTable (foreBlock 64) = some (80, List.replicate 64 6) ∧ decodeForeBlock foreTable (foreBlock 0) = none ∧
    (slipping (foreBlock 64) foreStream []).dev.mem.firstPoison 0x7000 16 = none ∧ foreTurn [foreQueued 64] foreStream = some (foreQueued 64) ∧
    foreTurn [rawQueued, foreQueued 64] foreStream = none ∧ { foreStream with out := 16383 }.room 1 = true ∧
    { foreStream with out := 16384 }.room 1 = false := by decide +kernel
theorem test_fore_header :
    (foreAfter (run (.slipBlockHeaderRead 0 3 1 0) (slipping (foreBlock 64) foreStream []))).queue = [foreQueued 64] ∧
    (foreAfter (run (.slipBlockHeaderRead 0 3 1 0) (slipping (foreBlock 0) foreStream []))).streams.map (·.damage.isSome) = [true] := by decide +kernel
theorem test_fore :
    (foreAfter (run (.forerunnerBlockDecoded 0 3 1 0) (slipping (foreBlock 64) foreStream [foreQueued 64]))).streams.map (·.ready) =
      [List.replicate 64 6] ∧
    (foreAfter (run (.forerunnerBlockDecoded 0 3 1 0) (slipping (foreBlock 0) foreStream [foreQueued 64]))).streams.map (·.damage.isSome) = [true] := by
  decide +kernel
/-- A stream that a move left behind is decoded again, and its first bytes are discarded (R256). -/
theorem test_slip_again : ({ foreStream with ready := [1], pos := 40, out := 64, index := 1, expanded := 64, stored := 240 }.again 24 8) =
      { foreStream with pos := 24, need := 32, nextDa := 0x7000 + 160, stored := 160 } ∧
    ((foreStream.again 24 8).push (List.replicate 24 1 ++ List.replicate 40 2)).ready = List.replicate 40 2 := by decide +kernel
/-- Damage that a second read does not find, and damage that it confirms (R269). -/
def damaged : SlipStream := { slipStream 0 128 with damage := some { kind := 1 }, damageDa := 0x7000 }
theorem test_reread_hyps :
    let d (n : Nat) := (slipping (rawHead n) damaged []).dev
    let use (d : Dev) : SlipUse := { l := matLaunch [1], im := matImage, kernel := 0, k := matKernel, buf := 1 }
    (d 0).useOf damaged = some (use (d 0)) ∧ (d 1).slipRange 0 (use (d 1)) damaged { kind := 1 } = (0x7000, 64) ∧
    (match (d 0).slipAgain 0 (use (d 0)) damaged { kind := 1 } with | .ok s => s.damage.isNone | .error _ => false) = true ∧
    (match (d 1).slipAgain 0 (use (d 1)) damaged { kind := 1 } with | .ok _ => false | .error e => e.kind == 1) = true ∧
    ((d 1).launchOf 3).map (·.phase) = some .running := by decide +kernel
theorem test_reread : ((run (.slipDamageReread 0) (slipping (rawHead 1) damaged [])).dev.launchOf 3).map (·.phase) = some (.ending stSlipDamage) := by
  decide +kernel

-- Groups, collectives, gradient jobs (CollectivesBegin to CollectiveWaitsEnd)

/-- A member with the node ID n, routes to nodes 0 to 3 by port 0 of lantern 0, and group 5 of some members. -/
def member (n : Nat) (ids : List Nat) : Dev :=
  let f := { stacked.dev.fabric with node := BitVec.ofNat 14 n, state := 2, routes := stacked.dev.fabric.routes.set 0 [(0, 0x80), (1, 0x80), (2, 0x80), (3, 0x80)] }
  let g : Group := { handle := 5, members := ids.map (BitVec.ofNat 14 ·), generation := 1 }
  { stacked.dev with fabric := f, coll := { stacked.dev.coll with groups := [g], red := Vector.replicate 4 { ok := true } } }
/-- A collective descriptor (R357) at 0x8000: 4 FP32 elements from 0x10000 to 0x20000, staged in kiln 0's scratchpad. -/
def collDesc (op group root count job bucket generation chunk : Nat) : List Byte :=
  [BitVec.ofNat 8 op, 0, 0, 0] ++ leBytes 2 group ++ leBytes 2 root ++ leBytes 6 0x10000 ++ leBytes 6 0x20000 ++ leBytes 4 count ++
  leBytes 6 0x1C000000000 ++ leBytes 4 0x4000 ++ [BitVec.ofNat 8 chunk, 0] ++ leBytes 2 generation ++ leBytes 2 job ++ leBytes 2 bucket ++ List.replicate 22 0
def collStarts (bs : List Byte) (d : Dev) : State := waits (pack 0x50 0x8000) { d with mem := bytesIn 0x8000 bs }
def collOf (bs : List Byte) : CollDesc := (parseColl bs).getD { op := 0, dtype := 0, redop := 0, path := 0, group := 0, root := 0, src := 0, dst := 0, count := 0, stage := 0, stageLen := 0, chunk := 0, generation := 0, job := 0, bucket := 0 }
def moves (op : Nat) : List Byte := collDesc op 5 (if op = 8 || op = 9 then 1 else 0) (if op = 1 then 0 else 4) 0 0 0 12
/-- Every operation of R358 passes its checks at a member of a group of three, at rank 0. -/
theorem test_coll_hyps : ([1, 2, 3, 4, 5, 6, 7, 8, 9].all fun op =>
      let s := collStarts (moves op) (member 0 [0, 1, 2])
      takes (pack 0x50 0x8000) s && (s.dev.mem.firstPoison 0x8000 64).isNone && s.dev.daOk 0x8000 64 &&
      parseColl (s.dev.mem.readBytes 0x8000 64) == some (collOf (moves op)) && s.dev.collCheck (collOf (moves op)) == none &&
      (s.dev.group 5).isSome && s.dev.coll.ready.isEmpty && s.dev.coll.ops.isEmpty && s.dev.fabric.unacked.isEmpty) = true ∧
    ([1, 2].all fun x => (member 0 [0, 1, 2]).fabric.entry ((member 0 [0, 1, 2]).lanternTo (BitVec.ofNat 14 x)) x != 0) = true ∧
    Memory.wf (collStarts (moves 7) (member 0 [0, 1, 2])).dev.mem = true ∧
    (collStarts (moves 2) (member 0 [0])).dev.collCheck (collOf (moves 2)) = none ∧
    (collStarts (moves 2) stacked.dev).dev.collCheck (collOf (moves 2)) = some stGroupInvalid := by decide +kernel
theorem test_coll_begin : (run (.allgather 1) (collStarts (moves 6) (member 0 [0, 1, 2]))).dev.fabric.unacked.map (·.dest) = [1#14, 2#14] ∧
    ((run (.barrier 1) (collStarts (moves 1) (member 0 [0]))).dev.cmd 0).map (·.reply.status) = some stOk ∧
    ((run (.broadcast 1) (collStarts (collDesc 2 5 0 4 0 0 0 30) (member 0 [0, 1]))).dev.cmd 0).map (·.reply.status) = some stCollParam := by decide +kernel
-- Binding
def bindBytes (n : Nat) : List Byte := collDesc 0x10 7 0 n 0 0 1 0
/-- The list of members, at 0x10000: node 0, and node 1. -/
def binding (n : Nat) : State :=
  waits (pack 0x50 0x8000) { member 0 [0, 1] with mem := { cells := (bytesIn 0x8000 (bindBytes n)).cells ++ [(0x10002, 1)] } }
theorem test_bind_hyps : ([1, 2].all fun n =>
      let s := binding n
      takes (pack 0x50 0x8000) s && parseColl (s.dev.mem.readBytes 0x8000 64) == some (collOf (bindBytes n)) &&
      s.dev.daOk 0x10000 (2 * n) && (s.dev.mem.firstPoison 0x10000 (2 * n)).isNone && s.dev.isMember &&
      elems 2 (s.dev.mem.readBytes 0x10000 (2 * n)) == List.range n && s.dev.coll.binds.isEmpty && s.dev.coll.earlyBinds.isEmpty) = true ∧
    (collOf (bindBytes 1)).group = 7 ∧ (collOf (bindBytes 1)).src = 0x10000 ∧ ((member 0 [0, 1]).coll.groups.map (·.handle)) = [5] := by decide +kernel
theorem test_bind : (run (.groupBind 1) (binding 1)).dev.coll.groups.map (·.handle) = [5, 7] ∧
    (run (.groupBind 1) (binding 2)).dev.coll.binds.map (·.members) = [[0#14, 1#14]] := by decide +kernel
def releasing : State := collStarts (collDesc 0x11 5 0 0 0 0 0 0) (member 0 [0, 1])
theorem test_release_hyps : takes (pack 0x50 0x8000) releasing = true ∧ (collOf (collDesc 0x11 5 0 0 0 0 0 0)).op = 0x11 ∧
    (run (.groupRelease 1) releasing).dev.coll.groups = [] := by decide +kernel
/-- A bind that waits for node 1, and its BIND in the inbox. -/
def boundHalf : Bind := { cmd := 0, handle := 7, members := [0, 1], generation := 1, digest := List.replicate 8 3, due := 0 }
def inbox (d : Dev) (src : Nat) (m : CMsg) : Dev :=
  { d with fabric := { d.fabric with inbox := [{ src := BitVec.ofNat 14 src, lantern := 0, payload := m.bytes }] } }
def bindArrives : State :=
  let d := inbox (member 0 [0, 1]) 1 { group := 7, kind := 8, epoch := 0x10000, data := List.replicate 8 3 }
  upWith fun _ => withCmd { cmdOf (pack 0x50 0x8000) with phase := .running } { d with coll := { d.coll with binds := [boundHalf] } }
theorem test_bind_message_hyps : (bindArrives.dev.fabric.inbox[0]?.map fun x => ((parseMsg x.payload).kind, (parseMsg x.payload).group,
      (parseMsg x.payload).epoch / 0x10000, (parseMsg x.payload).data)) = some (8, 7, 1, List.replicate 8 3) ∧
    (bindArrives.dev.coll.binds.find? fun b => b.handle == 7) = some boundHalf ∧ bindArrives.dev.fabric.unacked = [] ∧
    (run (.bindMessage 0) bindArrives).dev.coll.groups.map (·.handle) = [5, 7] := by decide +kernel
-- Gradient jobs
/-- A job of one bucket of 32 values (R366, R367), opened at 0x8000. -/
def jobBytes (thin : Nat) : List Byte :=
  leBytes 2 9 ++ leBytes 2 5 ++ leBytes 2 1 ++ [0, 1, BitVec.ofNat 8 thin, 1] ++ leBytes 2 0 ++ leBytes 2 16 ++ leBytes 2 0 ++ leBytes 4 0x3F800000 ++
  leBytes 6 (if thin = 1 then 0 else 0x40000) ++ leBytes 6 0x1C000000000 ++ leBytes 4 0x4000 ++ [12] ++ List.replicate 27 0 ++
  leBytes 6 0x10000 ++ leBytes 6 0x11000 ++ leBytes 6 0x20000 ++ leBytes 6 0 ++ leBytes 4 32 ++ leBytes 2 0 ++ [0, 0]
def jobOpening (thin : Nat) (d : Dev) : State := waits (pack 0x51 0x8000) { d with mem := bytesIn 0x8000 (jobBytes thin) }
def jobIn (thin : Nat) : GradJob := parseJob ((jobBytes thin).take 64) ((parseBucket ((jobBytes thin).drop 64)).toList)
theorem test_job_open_hyps : ([1, 2].all fun n =>
      let s := jobOpening n (member 0 [0, 1])
      takes (pack 0x51 0x8000) s && (s.dev.jobCheck (jobIn n) 0 true).isNone && (jobIn n).thinN == n && s.dev.daOk 0x8040 32 &&
      (jobIn n).buckets.length == 1 && bytesAt (jobBytes n) 5 4 == 1 && zeroAt (jobBytes n) 63 37) = true ∧
    (jobOpening 1 stacked.dev).dev.jobCheck (jobIn 1) 0 true = some stGroupInvalid := by decide +kernel
theorem test_job_open : (run (.gradJobOpen 1) (jobOpening 1 (member 0 [0, 1]))).dev.coll.jobs = [jobIn 1] := by decide +kernel
def jobbed (j : GradJob) (n : Nat) : Dev :=
  let d := member n [0, 1]
  { d with coll := { d.coll with jobs := [j] } }
theorem test_job_close_hyps : takes (pack 0x52 9) (waits (pack 0x52 9) (jobbed (jobIn 1) 0)) = true ∧ (jobbed (jobIn 1) 0).job 9 = some (jobIn 1) ∧
    (jobIn 1).closing = none ∧ (jobIn 1).active = false ∧ (jobIn 1).queued = [] ∧ GradJob.active { jobIn 1 with cmds := [4] } = true := by decide +kernel
theorem test_job_close : (run (.gradJobClose 1) (waits (pack 0x52 9) (jobbed (jobIn 1) 0))).dev.coll.jobs = [] ∧
    (run (.gradJobClose 1) (waits (pack 0x52 9) (jobbed { jobIn 1 with cmds := [4] } 0))).dev.coll.jobs.map (·.closing) = [some 0] := by decide +kernel
def contributing : State := collStarts (collDesc 0x0A 5 0 0 9 0 0 12) (jobbed (jobIn 1) 0)
theorem test_contribute_hyps : takes (pack 0x50 0x8000) contributing = true ∧ contributing.dev.collCheck (collOf (collDesc 0x0A 5 0 0 9 0 0 12)) = none ∧
    (jobIn 1).trigger = 1 ∧ (jobIn 1).group = 5 ∧ (jobIn 1).ordered = false ∧ (jobIn 1).thinN ≤ 1 ∧ ((jobIn 1).buckets[0]?.map (·.count)) = some 32 ∧
    contributing.dev.mem.firstPoison 0x10000 32 = none ∧ (jobIn 1).endpoints = [] ∧ (jobIn 1).held = [] := by decide +kernel
-- Messages
def opIn (op : Nat) : CollOp := { id := 0, d := collOf (moves op), rank := 0, epoch := 0x10000, seq := 0, due := 0 }
def msgIn (kind op : Nat) : CMsg := { group := 5, epoch := 0x10000, kind := kind, op := op, rank := 1, count := (if op = 1 then 0 else 4) }
def arrives (n : Nat) (m : CMsg) (os : List CollOp) (js : List GradJob) : State :=
  let d := inbox (member n [0, 1]) 1 m
  let c := { d.coll with ops := os, jobs := js }
  upWith fun _ => withCmd { cmdOf (pack 0x50 0x8000) with phase := .running } { d with coll := c }
theorem test_message_hyps : (parseMsg (msgIn 1 1).bytes) = msgIn 1 1 ∧ ((arrives 0 (msgIn 1 1) [] []).dev.group 5).map (·.epoch) = some 0x10000 ∧
    (arrives 0 (msgIn 1 1) [] []).dev.opOf (msgIn 1 1) = none ∧ (arrives 0 (msgIn 1 1) [opIn 1] []).dev.opOf (msgIn 1 1) = some (opIn 1) ∧
    (opIn 1).differs (msgIn 1 1) = false ∧ (opIn 1).differs { msgIn 1 1 with count := 9 } = true ∧
    (arrives 0 (msgIn 2 6) [opIn 6] []).dev.opOf (msgIn 2 6) = some (opIn 6) ∧ (opIn 6).d.froms 2 0 = [1] ∧ (opIn 6).d.dstLen 2 0 = 32 ∧
    (arrives 0 (msgIn 1 1) [opIn 1] []).dev.cmd 0 ≠ none := by decide +kernel
theorem test_ready : ((run (.readyMessage 0) (arrives 0 (msgIn 1 1) [opIn 1] [])).dev.cmd 0).map (·.reply.status) = some stOk := by decide +kernel
def dataMsg : CMsg := { msgIn 2 6 with offset := 16, data := List.replicate 16 7 }
theorem test_data_hyps : (opIn 6).differs dataMsg = false ∧ dataMsg.offset + dataMsg.data.length ≤ (opIn 6).d.dstLen 2 0 ∧
    parseMsg dataMsg.bytes = dataMsg ∧ (run (.collDataMessage 0) (arrives 0 dataMsg [opIn 6] [])).dev.mem.readBytes 0x20010 16 = List.replicate 16 7 := by
  decide +kernel
/-- A running sum at rank 1 of three: 1.0 and 2.0 from rank 0. -/
def sumMsg : CMsg := { msgIn 3 4 with rank := 0, data := leBytes 4 0x3F800000 ++ leBytes 4 0x40000000 }
def midOp : CollOp := { opIn 4 with rank := 1 }
def sumArrives : State :=
  let d := inbox (member 1 [0, 1, 2]) 0 sumMsg
  upWith fun _ => withCmd { cmdOf (pack 0x50 0x8000) with phase := .running } { d with mem := bytesIn 0x10000 (leBytes 4 0x3F800000), coll := { d.coll with ops := [midOp] } }
theorem test_sum_hyps : sumArrives.dev.opOf sumMsg = some midOp ∧ midOp.differs sumMsg = false ∧ midOp.d.chainElems 3 = 4 ∧ parseMsg sumMsg.bytes = sumMsg ∧
    (run (.chainMessage 0) sumArrives).dev.coll.ops.map (·.sums) = [[(0, [0x40000000, 0x40000000])]] := by decide +kernel
/-- A contribution of 32 ones in MXFP8-E5M2 to the shard that rank 0 reduces, and a result's bytes. -/
def contribMsg : CMsg :=
  let data := List.replicate 32 0x3C#8 ++ [127#8]
  let t := tallyOf (decodeShard .mxfp8e5m2 32 data)
  { group := 5, job := 9, epoch := 0x10000, kind := 4, op := 10, rank := 1, count := 32, data := data, tally := t.1, nonFinite := t.2 }
def stepping : GradJob := { jobIn 1 with cmds := [0], ready := [0], inFlight := [(0, 0)] }
theorem test_contrib_hyps : parseMsg contribMsg.bytes = contribMsg ∧ (jobIn 1).buckets[0]?.map (fun b => (b.shards, b.shardLen 0, gradFmt b)) = some (1, 32, .mxfp8e5m2) ∧
    contribMsg.data.length = 32 + 32 / 32 ∧ (arrives 0 contribMsg [] [jobIn 1]).dev.coll.claimed 0 = 0 ∧
    ((arrives 0 contribMsg [] [jobIn 1]).dev.group 5).map (fun g => (g.size, (arrives 0 contribMsg [] [jobIn 1]).dev.rankIn g)) = some (2, 0) := by decide +kernel
theorem test_contrib : (run (.contribMessage 0 0) (arrives 0 contribMsg [] [jobIn 1])).dev.coll.slots.map (·.sums) =
    [List.replicate 32 0x3F800000#32] := by decide +kernel
def resultMsg : CMsg := { group := 5, job := 9, epoch := 0x10000, kind := 5, op := 10, rank := 0, count := 32, data := List.replicate 128 1 }
theorem test_result_hyps : parseMsg resultMsg.bytes = resultMsg ∧ stepping.active = true ∧ stepping.resultFmt = 1 ∧ stepping.thinN ≤ 1 ∧ stepping.queued = [] ∧
    (0, 0) ∉ stepping.todo ∧ (arrives 0 resultMsg [] [stepping]).dev.job 9 = some stepping ∧
    (run (.resultMessage 0) (arrives 0 resultMsg [] [stepping])).dev.mem.readBytes 0x2007C 8 = [1, 1, 1, 1, 0, 0, 0, 0] := by decide +kernel
theorem test_job_message_hyps : ([7, 3, 6].all fun k => let m : CMsg := { resultMsg with kind := k, data := [] }
    parseMsg m.bytes == m && (arrives 1 m [] [{ stepping with ready := [] }]).dev.job 9 == some { stepping with ready := [] }) = true ∧
    ((member 1 [0, 1]).group 5).map (member 1 [0, 1]).rankIn = some 1 := by decide +kernel
theorem test_job_messages : ((run (.endpointMessage 0) (arrives 1 { resultMsg with kind := 7, data := [] } [] [{ stepping with ready := [] }])).dev.job 9).map
      (·.endpoints) = some [(0, 0)] ∧
    ((run (.collAbortMessage 0) (arrives 1 { resultMsg with kind := 6, reason := 4, data := [] } [] [stepping])).dev.job 9).map (·.aborted) = some true := by
  decide +kernel
def slotted : State :=
  let sl : RedSlot := { lantern := 0, key := { job := 9, step := 0, bucket := 0, shard := 0 }, sums := [], due := 0 }
  let s := arrives 0 resultMsg [] [stepping]
  s.onDev fun d => { d with coll := { d.coll with slots := [sl] } }
theorem test_wait_hyps : slotted.dev.due 0 = true ∧ (slotted.dev.coll.slots.map (·.key.step)) = [stepping.step] ∧ stepping.aborted = false ∧
    ((run (.stepTimeout 9 0 0) slotted).dev.job 9).map (·.reason) = some (some 1) := by decide +kernel
def bindLate : State := bindArrives.onDev fun d => { d with fabric := { d.fabric with inbox := [] } }
theorem test_timeout_hyps : (bindLate.dev.coll.binds.find? fun b => b.cmd == 0) = some boundHalf ∧
    (arrives 0 (msgIn 1 1) [opIn 1] []).dev.collOp 0 = some (opIn 1) ∧ 1 ∈ (opIn 1).d.tos 2 0 ∧
    1 ∉ (arrives 0 (msgIn 1 1) [opIn 1] []).dev.readyRanks (opIn 1) ∧
    ([run (.collTimeout 0) bindLate, run (.collTimeout 0) (arrives 0 (msgIn 1 1) [opIn 1] [])].map fun t => (t.dev.cmd 0).map (·.reply.status)) =
      [some stCollTimeout, some stCollTimeout] := by decide +kernel

-- Media (MediaSessionsAndFrames)

/-- A descriptor (R282) of 128 by 128 samples of 8 bits on wheel 0: a decoder with 2 slots, or an encoder with 6, one the host's. -/
def sessBytes (dir profile : Nat) : List Byte :=
  [0, BitVec.ofNat 8 dir, BitVec.ofNat 8 profile, 40, 8, 1, 0, 0, 0, BitVec.ofNat 8 (2 + 4 * dir), BitVec.ofNat 8 dir, 0] ++ leBytes 2 128 ++ leBytes 2 128 ++
  leBytes 6 0x1F000000000 ++ leBytes 2 0 ++ leBytes 4 0 ++ [BitVec.ofNat 8 (30 * dir)] ++ List.replicate 35 0
def wheeled (ss : List Session) (js : List MediaJob) : Dev :=
  { stacked.dev with wheels := stacked.dev.wheels.set 0 { stacked.dev.wheels.get 0 with ready := true, codecOk := Vector.replicate 4 true },
                     media := { sessions := ss, jobs := js, nextJob := 8 } }
def opening (bs : List Byte) (ss : List Session) : State := waits (pack 0x60 0x8000) { wheeled ss [] with mem := bytesIn 0x8000 bs }
def sess (dir : Nat) : Session := { num := 6, desc := parseSess (sessBytes dir 1), marks := List.replicate (2 + 4 * dir) {} }
theorem test_media_open_hyps : ([0, 1].all fun dir => let s := opening (sessBytes dir 1) []
      takes (pack 0x60 0x8000) s && s.dev.daOk 0x8000 64 && (s.dev.mem.firstPoison 0x8000 64).isNone &&
      s.dev.openCheck (s.dev.mem.readBytes 0x8000 64) (parseSess (s.dev.mem.readBytes 0x8000 64)) == stOk) = true ∧
    (opening (sessBytes 0 0) []).dev.openCheck (sessBytes 0 0) (parseSess (sessBytes 0 0)) = stMediaCodec ∧
    (opening (sessBytes 0 1) (List.replicate 64 (sess 0))).dev.openCheck (sessBytes 0 1) (parseSess (sessBytes 0 1)) = stMediaTableFull := by decide +kernel
theorem test_media_open_full : (run (.mediaOpen 1) (opening (sessBytes 0 1) (List.replicate 64 (sess 0)))).dev.media.fullSeen = true := by decide +kernel
/-- Session 6 with slot 0 marked OUT; a unit to decode that releases it, and a frame of slot 0 to encode. -/
def outSess : Session := { sess 0 with marks := [{ out := true }, {}] }
def decPack : Packet := pack 0x61 (6 + 0x100000000) 0x9000 16 0
def encPack : Packet := pack 0x62 6 0x9000 64 0
def frameJob (dec : Bool) : MediaJob :=
  if dec then mediaJobOf 8 (.cmd 0) true decPack.o0.toNat decPack.o1.toNat decPack.o2.toNat decPack.o3.toNat
  else mediaJobOf 8 (.cmd 0) false encPack.o0.toNat encPack.o1.toNat encPack.o2.toNat encPack.o3.toNat
def mediaWaits (dec : Bool) : State := if dec then waits decPack (wheeled [outSess] []) else waits encPack (wheeled [sess 1] [])
theorem test_media_frame_hyps (dec : Bool) :
    let s := mediaWaits dec
    let x := if dec then outSess else sess 1
    takes (if dec then decPack else encPack) s = true ∧ s.dev.mediaCheck (frameJob dec) none = stOk ∧ s.dev.media.jobs = [] ∧ s.dev.session 6 = some x ∧
    (frameJob dec).session = 6 ∧ s.dev.launches = [] ∧ x.pending = [] ∧ (dec = true → 0 < (frameJob dec).length) ∧
    (dec = false → ((frameJob dec).plan x).coded = [0]) ∧ (∀ one, s.dev.coresFor x one = some [0]) ∧ x.desc.slots = x.marks.length ∧ x.closing = none ∧
    ((frameJob dec).inputs x ((frameJob dec).plan x)).all (fun r => (s.dev.mem.firstPoison r.1 r.2).isNone) = true := by
  revert dec; decide +kernel
/-- The lowest clear codec slot, the host's input marked IN; and a decoder's mask that takes OUT away. -/
theorem test_media_frame : ((run (.mediaEncode 1) (mediaWaits false)).dev.media.jobs.map fun j => (j.slot, j.cores)) = [(some 1, [0])] ∧
    (run (.mediaEncode 1) (mediaWaits false)).dev.media.sessions.map (fun x => x.marks.map (fun m => (m.write, m.inn))) =
      [[(false, true), (true, false), (false, false), (false, false), (false, false), (false, false)]] ∧
    (((mediaWaits true).dev.applyMask (frameJob true)).media.sessions.map (·.freeSlot)) = [some 0] := by decide +kernel
/-- A frame in progress in slot 1, without statistics. -/
def working (dec : Bool) (len : Nat) : State :=
  let x := if dec then sess 0 else sess 1
  let j : MediaJob := { frameJob dec with length := len, started := true, slot := some 1, cores := [0], before := some x, unit := if dec then [1, 2] else [], source := if dec then [] else [([1, 2], 1)] }
  upWith fun _ => withCmd { cmdOf (if dec then decPack else encPack) with phase := .running } (wheeled [x] [j])
theorem test_codec_hyps : ([true, false].all fun dec =>
    let x := if dec then sess 0 else sess 1
    let s := working dec 16
    s.dev.session 6 == some x && x.num == 6 && x.closing.isNone && (s.dev.media.jobs.map fun j => (j.id, j.session, j.step, j.source.length)) == [(8, 6, 0, b2n (!dec))] &&
    (s.dev.media.jobs.all fun j => j.started && j.decode == dec && j.slot == some 1 && j.before == some x && j.owner == .cmd 0 && !j.repeated) &&
    (s.dev.cmd 0).map (·.phase) == some .running) = true := by decide +kernel
/-- A picture of 2 by 2 samples of 10 bits: rows of luma at the pitch, then chroma pairs; bits above the depth are zero. -/
theorem test_picture : ({ parseSess (sessBytes 0 2) with depth := 10 } : SessDesc).picture 2 2 (fun p r c => 0x400 + 16 * p + 4 * r + c) =
    [(0, [0, 0, 1, 0]), (256, [4, 0, 5, 0]), (0x8000, [16, 0, 32, 0])] := by decide +kernel
/-- COMPLEXITY of a flat block of 16s, of one bright sample, and of a block of which one sample is in the picture (R299, R300). -/
theorem test_complexity : complexity 16 16 (fun _ _ => 16) 0 0 = 256 ∧ complexity 16 16 (fun r c => if r = 0 && c = 0 then 255 else 0) 0 0 = 255 ∧
    complexity 17 17 (fun _ _ => 16) 1 1 = 16 := by decide +kernel
/-- A record of an inter block, and of a partial block of an intra frame (R299). -/
theorem test_record :
    let f : FrameInfo := { codec := 0, w := 20, h := 16, slots := [3, 5], block := fun _ _ k => [0xFFFC, 8, 30, 1, 1].getD k 0 }
    f.record (fun _ _ => 0) 0 0 = 0xFFFC + 8 * 2 ^ 16 + 30 * 2 ^ 44 + 2 ^ 50 + 5 * 2 ^ 52 ∧
    { f with slots := [] }.record (fun _ _ => 0) 1 0 = 30 * 2 ^ 44 + 0x3F * 2 ^ 52 + 2 ^ 58 := by decide +kernel
/-- The slot's WRITE becomes REF; the picture that the standard no longer keeps loses it (R289). -/
theorem test_frame_done :
    let x : Session := { sess 0 with marks := [{ ref := true }, { write := true }], refs := [(0, 0, 0)] }
    (x.frameDone 1 (1, 0) [(1, 0)]).marks = [{}, { ref := true }] ∧ (x.frameDone 1 (1, 0) [(1, 0)]).refs = [(1, 1, 0)] := by decide +kernel
theorem test_media_close_hyps : takes (pack 0x63 6) (waits (pack 0x63 6) (wheeled [sess 0] [])) = true ∧ (wheeled [sess 0] []).session 6 = some (sess 0) ∧
    (sess 0).closing = none ∧ (run (.mediaClose 1) (waits (pack 0x63 6) (wheeled [sess 0] []))).dev.media.sessions = [] := by decide +kernel
def slotPending : Session := { sess 0 with marks := [{}, { out := true }], pending := [(1, [3])] }
theorem test_slot_release_hyps : (wheeled [slotPending] []).anyAlive [3] = false ∧ (wheeled [slotPending] []).session 6 = some slotPending ∧
    (run (.slotReleaseEffect 6) (upWith fun _ => wheeled [slotPending] [])).dev.media.sessions = [sess 0] := by decide +kernel

-- Candle streams (CandleStreamsComeAndGo, CandleActionsFire)

/-- An entry of a table (R432): its action, pass and target, at frame 0 and phase 0 of a cycle of 60 frames. -/
def canEntry (action pass target listDa : Nat) : CandleEntry :=
  { frameOffset := 0, phase := 0, action := action, group := 1, lag := 0, pass := pass, target := target, mode := 0,
    listCount := if action = 0x7E then 0 else 1, listStride := 0, listDa := listDa, seed := 9 }
def canTable (lock : Bool) (es : List CandleEntry) : CandleTable :=
  { cycleFrames := 60, repeatLate := false, requireLock := lock, budgetMarked := false, reportCq := 2, entries := es }
/-- The bytes of a table with one LAUNCH of program 5 without a pass. -/
def canBytes (version : Nat) : List Byte :=
  leBytes 2 version ++ leBytes 2 1 ++ leBytes 2 60 ++ [0, 0, 2] ++ List.replicate 55 0 ++
  leBytes 2 0 ++ leBytes 2 0 ++ [0x12, 1, 0, 0, 5, 0] ++ leBytes 2 1 ++ leBytes 4 0 ++ leBytes 6 0x3000 ++ leBytes 8 9 ++ [0, 0]
def canOne (lock : Bool) : CandleTable := canTable lock [canEntry 0x12 0 5 0x3000]
/-- Streams 0 to 2 hold something, stream 3 the table given, the phase at the start of frame 100. -/
def canDev (x : Stream) (d : Dev) : Dev :=
  { d with time := { d.time with phase := BitVec.ofNat 48 (100 * 65536) },
           candle := { d.candle with streams := (((Vector.replicate 32 {}).set 0 { state := 1 }).set 3 x) } }
def canLoadPack : Packet := pack 0x70 0x6000 96
theorem test_candle_load_hyps :
    let s := waits canLoadPack { loaded with mem := bytesIn 0x6000 (canBytes 1) }
    takes canLoadPack s = true ∧ s.dev.daOk 0x6000 96 = true ∧ s.dev.mem.firstPoison 0x6000 96 = none ∧
    parseCandle (s.dev.mem.readBytes 0x6000 96) = some (canOne false) ∧ parseCandle (canBytes 2) = none ∧
    (s.dev.candle.streams.get 31).state = 0#2 := by decide +kernel
def canFull : Dev := { loaded with candle := { loaded.candle with streams := Vector.replicate 32 { state := 1 } } }
theorem test_candle_full : ((run (.candleLoad 1) (waits canLoadPack canFull)).dev.cmd 0).map (·.reply.status) = some stCandleFull ∧
    ((List.finRange 32).all fun i => (canFull.candle.streams.get i).state != 0#2) = true := by decide +kernel
def canArmed (st : Stream) : Stream := { st with state := 2, f0 := 90 }
def canLoaded (lock : Bool) : Stream := { state := 1, table := some (canOne lock) }
def canArm (lock : Bool) (f0 : Nat) : State :=
  (waits (pack 0x71 3 f0) (canDev (canLoaded lock) loaded)).setCq 2 { enable := true, log2 := 6 }
theorem test_candle_arm_hyps : takes (pack 0x71 3 101) (canArm false 101) = true ∧ ((canArm false 101).cq 2).enable = true ∧
    (canArm false 101).dev.targetsCheck 3 (canOne false) = stOk ∧ (canArm false 101).dev.scheduleOk (canOne false) = true ∧
    (canArm true 101).dev.time.state.toNat < 2 ∧ (canArm true 101).dev.targetsCheck 3 (canOne true) = stOk := by decide +kernel
theorem test_candle_arm : ((run (.candleArm 1) (canArm false 101)).dev.candle.streams.get 3) = { canLoaded false with state := 2, f0 := 101 } ∧
    ((run (.candleArm 1) (canArm false 100)).dev.cmd 0).map (·.reply.status) = some stDeadline ∧
    ((run (.candleArm 1) (canArm true 101)).dev.cmd 0).map (·.reply.status) = some stTimeUnlocked := by decide +kernel
/-- A stream that disarms: LOADED, ARMED and not begun, running, DRAINING. -/
def canDisarm (st : Stream) : State := waits (pack 0x72 3) (canDev st loaded)
theorem test_candle_disarm_hyps : takes (pack 0x72 3) (canDisarm (canLoaded false)) = true ∧
    ({ canLoaded false with state := 2, f0 := 101 } : Stream).current (canOne false) 100 = none ∧
    (canArmed (canLoaded false)).current (canOne false) 100 = some 0 := by decide +kernel
theorem test_candle_disarm : ([canLoaded false, { canLoaded false with state := 2, f0 := 101 }, canArmed (canLoaded false)].map fun st =>
    ((run (.candleDisarm 1) (canDisarm st)).dev.candle.streams.get 3).state) = [0, 0, 3] := by decide +kernel
def canDrained : Stream := { canLoaded false with state := 3, f0 := 90, cycle := 1, last := some 0, disarm := some 0 }
theorem test_candle_freed_hyps : (canDrained.fires 1 (canEntry 0x12 0 5 0x3000)) = false ∧ canDrained.acts = [] ∧
    ((run (.candleStreamFreed 3) (canDisarm canDrained)).dev.candle.streams.get 3) = {} := by decide +kernel
/-- A stream whose action is due at frame 100. -/
def canDue (e : CandleEntry) (acts : List CandleAct) : Stream :=
  { state := 2, table := some (canTable false [e, canEntry (if e.action = 0x7F then 0x7E else 0x12) 1 (if e.action = 0x7F then 0 else 5) 0x3000]), f0 := 100, acts := acts }
def canFires (e : CandleEntry) (d : Dev) : State := upWith fun _ => canDev (canDue e []) d
def canDues (s : State) : Bool :=
  match s.dev.dueOf 3 with | some (t, ix, e) => s.dev.mayFire 3 t e && ix == 0 && e.lag == 0 | none => false
theorem test_candle_launch_hyps : ([0, 1].all fun p =>
      let s := canFires (canEntry 0x12 p 5 0x3000) loaded
      let r : LaunchReq := { owner := .candle 3 0 0, cls := 3, handle := 5, mode := 0, da := 0x3000, seed := 9, deadline := 0 }
      canDues s && s.dev.coll.jobs.isEmpty &&
      (match s.dev.judge r with
       | .ok l => l.entries.all (fun x => !x.reads && !x.writes) && (s.dev.imageOf l).isSome
       | .error _ => false)) = true := by decide +kernel
theorem test_candle_launch : ((run (.candleLaunch 3) (canFires (canEntry 0x12 1 5 0x3000) loaded)).dev.launches.map fun l => (l.id, l.seed, l.cls)) =
      [(0, 9, 3)] ∧
    ((run (.candleLaunch 3) (canFires (canEntry 0x12 1 5 0x3000) loaded)).dev.candle.streams.get 3).entry = 1 := by decide +kernel
/-- A REALTIME session, which alone takes cyclic frames (R286). -/
def liveSess (dec : Bool) : Session :=
  let x := if dec then outSess else sess 1
  { x with desc := { x.desc with realtime := true }, reserved := [0] }
/-- The record of a MEDIA action is the frame's operands (R433). -/
def canMedia (dec : Bool) : State :=
  let p := if dec then decPack else encPack
  canFires (canEntry (if dec then 0x61 else 0x62) 0 6 0x6000) { wheeled [liveSess dec] [] with
    mem := bytesIn 0x6000 (leBytes 8 p.o0.toNat ++ leBytes 8 p.o1.toNat ++ leBytes 8 p.o2.toNat ++ leBytes 8 p.o3.toNat) }
def canJob (dec : Bool) : MediaJob := { frameJob dec with owner := .candle 3 0 0 }
theorem test_candle_media_hyps (dec : Bool) : canDues (canMedia dec) = true ∧ (canMedia dec).dev.daOk 0x6000 32 = true ∧
    (canMedia dec).dev.mem.firstPoison 0x6000 32 = none ∧ (canMedia dec).dev.mediaCheck (canJob dec) none = stOk ∧ (canJob dec).session = 6 ∧
    ([0, 8, 16, 24].map fun w => (canMedia dec).dev.mem.readNat (0x6000 + w) 8) =
      (let p := if dec then decPack else encPack; [p.o0.toNat, p.o1.toNat, p.o2.toNat, p.o3.toNat]) ∧
    operandsOk (if dec then decPack else encPack) = true := by
  revert dec; decide +kernel
theorem test_candle_media :
    ((run (.candleMediaEncode 3) (canMedia false)).dev.media.jobs.map (·.owner)) = [.candle 3 0 0] := by decide +kernel
def canDeliver : State := canFires (canEntry 0x7F 0 5 0x6000) { stacked.dev with mem := bytesIn 0x6000 (leBytes 8 0x3000) }
theorem test_candle_deliver_hyps : canDues canDeliver = true ∧ canDeliver.dev.daOk 0x6000 512 = true ∧
    canDeliver.dev.mem.firstPoison 0x6000 512 = none := by decide +kernel
theorem test_candle_deliver : ((run (.deliver 3) canDeliver).dev.candle.streams.get 3).acts.map (fun a => (a.launch.isNone, a.record.take 2)) =
    [(true, [0x3000, 0])] := by decide +kernel
/-- A cut-off before the group's pass 1 has run, and one after it has. -/
def canCut (hi : List Nat) : State :=
  upWith fun _ => canDev { canDue (canEntry 0x7E 0 0 0) [] with insts := [{ cycle := 0, group := 1, completed := hi }] } loaded
theorem test_candle_cut_hyps : canDues (canCut []) = true ∧ canDues (canCut [1]) = true ∧
    (canTable false [canEntry 0x7E 0 0 0, canEntry 0x12 1 5 0x3000]).highest 1 = 1 := by decide +kernel
theorem test_candle_cut : ([[], [1]].map fun hi => ((run (.cutoff 3) (canCut hi)).dev.candle.seen.getLsbD 1, ((run (.cutoff 3) (canCut hi)).dev.candle.streams.get 3).insts.map
    (·.delivered))) = [(true, [some 0]), (false, [some 1])] := by decide +kernel

-- Firings (FiringsAreStagedCommittedAndAttested)

/-- The published test vector of the P-384 signature standard over the bytes "sample" (log 46). -/
theorem test_ecdsa : ecdsaVerifies
    (0xEC3A4E415B4E19A4568618029F427FA5DA9A8BC4AE92E02E06AAE5286B300C64DEF8F0EA9055866064A254515480BC13 * 2 ^ 384 +
      0x8015D9B72D7D57244EA8EF9AC0C621896708A59367F9DFB9F54CA84B3F1C9DB1288B231C3AE0D4FE7344FD2533264720)
    (sha384Nat [0x73, 0x61, 0x6d, 0x70, 0x6c, 0x65])
    0x94EDBB92A5ECB8AAD4736E56C691916B3F88140666CE9FA73D64C4EA95AD133C81A648152E44ACF96E36DD1E80FABE46
    0x99EF4AEB15F178CEA1FE40DB2603138F130E740A19624526203B6351D0A3A94FA329C145786E679E7B82C71A38628AC8 = true := by decide +kernel
/-- The key whose private half is 1, and its signature, made with the secret number 1, of no bytes. -/
def keyG : Nat := p384Gx * 2 ^ 384 + p384Gy
def sigG : List Byte := leBytes 48 p384Gx ++ leBytes 48 ((sha384Nat [] + p384Gx) % p384N)
theorem test_sign : ecdsaVerifies keyG (sha384Nat []) p384Gx ((sha384Nat [] + p384Gx) % p384N) = true := by decide +kernel
/-- A firing (R480, R481) of empty components, 128 bytes apart, each with its signature. -/
def firingComps (kinds : List (Nat × Nat)) : List Byte :=
  (kinds.zip (List.range kinds.length)).flatMap fun x => leBytes 2 x.1.1 ++ leBytes 1 x.1.2 ++ List.replicate 5 0 ++
    leBytes 4 (256 + 64 * kinds.length + 128 * x.2) ++ leBytes 4 0 ++ sha384 []
def firing (seq : Nat) (owner : List Byte) (kinds : List (Nat × Nat)) : List Byte :=
  leBytes 4 0x47524946 ++ leBytes 2 1 ++ leBytes 2 kinds.length ++ leBytes 8 (256 + 192 * kinds.length) ++ leBytes 4 3 ++ leBytes 4 0 ++
  leBytes 4 seq ++ leBytes 4 0 ++ owner ++ List.replicate 176 0 ++ firingComps kinds ++
  (kinds.flatMap fun _ => sigG ++ List.replicate 32 0)
def plainKinds : List (Nat × Nat) := [(1, 0), (2, 0), (3, 0), (4, 0), (5, 0), (6, 0)]
/-- An unowned firing; the same with an owner's policy and role. -/
def firingU (seq : Nat) : List Byte := firing seq (List.replicate 48 0) plainKinds
def keyBytes : List Byte := beBytes 96 keyG
def firingR : List Byte := firing 0 (sha384 keyBytes) (plainKinds ++ [(0x10, 1), (0x12, 1)])
/-- What the parts of R482 find in a firing, all but what the components mean. -/
def firingPlain (bs : List Byte) : Bool :=
  firingHeaderOk 0xF00000 bs && tableOk bs && firingNumerics bs == 3#32 &&
  (componentsOf bs).all fun c => (c.bytes bs).isEmpty && sha384 [] == c.digest && c.sig bs == (p384Gx, (sha384Nat [] + p384Gx) % p384N)
theorem test_firing_plain (k : Fin 3) : firingPlain ([firingU 0, firingU 1, firingR].getD k.val []) = true := by revert k; decide +kernel
/-- Whatever a component's implementation list and chain mean: where they name version 3 and the key above, the firing verifies. -/
theorem firing_form (bs : List Byte) (hp : firingPlain bs = true) (hi : Config.implements [] 3#32 = true) :
    firingFormOk 0xF00000 bs = true := by
  simp only [firingPlain, Bool.and_eq_true, List.all_eq_true, List.isEmpty_iff, beq_iff_eq] at hp
  simp only [firingFormOk, Bool.and_eq_true, List.all_eq_true, beq_iff_eq, hp.1.1.1, hp.1.1.2, hp.1.2, true_and]
  intro c hc
  have h := hp.2 c hc
  simp [h.1.1, h.1.2, hi]
theorem firing_unowned_signed (bs : List Byte) (hp : firingPlain bs = true) (hl : Config.chainLeaf [] = some keyG)
    (hc : kindBytes bs chainKind = []) (ho : findKind (componentsOf bs) policyKind = none ∧ unowned (firingOwner bs) = true ∧
      ((componentsOf bs).any fun c => ownerKinds.contains c.kind) = false) : firingSigned bs = true := by
  simp only [firingPlain, Bool.and_eq_true, List.all_eq_true, List.isEmpty_iff, beq_iff_eq] at hp
  simp only [firingSigned, hc, hl, ho.1, ho.2.1, ho.2.2, Bool.and_eq_true, List.all_eq_true, Bool.not_false, and_true]
  intro c hm
  have h := hp.2 c hm
  simp [h.1.1, h.2, test_sign]
theorem test_firing_unowned (seq : Fin 2) : kindBytes (firingU seq.val) chainKind = [] ∧ (findKind (componentsOf (firingU seq.val)) policyKind) = none ∧
    unowned (firingOwner (firingU seq.val)) = true ∧ ((componentsOf (firingU seq.val)).any fun c => ownerKinds.contains c.kind) = false ∧
    firingSeq (firingU seq.val) = seq.val := by revert seq; decide +kernel
/-- The owner's firing is signed where the policy holds that key. -/
theorem test_firing_owned : kindBytes firingR chainKind = [] ∧ ((findKind (componentsOf firingR) policyKind).map fun p => p.bytes firingR) = some [] ∧
    ((findKind (componentsOf firingR) roleKind).map fun p => p.bytes firingR) = some [] ∧ unowned keyBytes = false ∧
    sha384 keyBytes = firingOwner firingR ∧ beNat keyBytes = keyG ∧ firingSeq firingR = 0 := by decide +kernel
theorem firing_owned_signed (hl : Config.chainLeaf [] = some keyG) (hk : Config.policyKey [] = keyBytes) : firingSigned firingR = true := by
  obtain ⟨h1, h2, -, h4, h5, h6, -⟩ := test_firing_owned
  have hp : firingPlain firingR = true := test_firing_plain 2
  simp only [firingPlain, Bool.and_eq_true, List.all_eq_true, List.isEmpty_iff, beq_iff_eq] at hp
  obtain ⟨p, hf, hb⟩ := Option.map_eq_some_iff.mp h2
  simp only [firingSigned, h1, hl, hf, hb, hk, h4, h5, h6, Bool.and_eq_true, List.all_eq_true, beq_self_eq_true, true_and, Bool.false_eq_true, if_false]
  refine ⟨fun c hm => ?_, fun c hm => ?_⟩ <;> · have h := hp.2 c hm; simp [h.1.1, h.2, test_sign]
/-- Its role has MODE 7, where the role's first field is 7. -/
theorem firing_role_bad (hr : ∀ i, Config.roleField [] i = 7) : (roleOf firingR).ok = false := by
  obtain ⟨-, -, h3, -⟩ := test_firing_owned
  obtain ⟨p, hf, hb⟩ := Option.map_eq_some_iff.mp h3
  simp [roleOf, hf, hb, hr, Role.ok]
theorem test_firing_role : (roleOf (firingU 0)).ok = true := by decide +kernel
theorem firing_signed (seq : Fin 2) (hl : Config.chainLeaf [] = some keyG) : firingSigned (firingU seq.val) = true := by
  obtain ⟨h1, h2, h3, h4, -⟩ := test_firing_unowned seq
  refine firing_unowned_signed _ ?_ hl h1 ⟨h2, h3, h4⟩
  have h := test_firing_plain (seq.castLE (by decide))
  revert h; revert seq; simp +contextual [Fin.forall_fin_succ]
/-- The cells of bytes from base + k on. -/
def cellsOf (base k : Nat) (bs : List Byte) : List Host.Cell :=
  ((List.range' k bs.length).zip bs).filterMap fun p => if p.2 = 0 then none else some (base + p.1, p.2)
theorem cellsOf_cons (base k : Nat) (b : Byte) (r : List Byte) :
    cellsOf base k (b :: r) = if b = 0 then cellsOf base (k + 1) r else (base + k, b) :: cellsOf base (k + 1) r := by
  by_cases h : b = 0#8 <;> simp [cellsOf, List.range'_succ, h]
theorem cellsOf_below (base j l : Nat) (r : List Byte) (hj : j < l) : cellGet (cellsOf base l r) (base + j) = none := by
  induction r generalizing l with
  | nil => rfl
  | cons c r ih =>
    rw [cellsOf_cons]
    split
    · exact ih (l + 1) (by omega)
    · have hn : (base + l == base + j) = false := by simp; omega
      have h := ih (l + 1) (by omega)
      simpa [cellGet, List.find?_cons, hn] using h
theorem cellsOf_get (base k i : Nat) (bs : List Byte) (h : i < bs.length) : (cellGet (cellsOf base k bs) (base + k + i)).getD 0 = bs[i] := by
  induction bs generalizing k i with
  | nil => simp at h
  | cons b r ih =>
    rw [cellsOf_cons]
    cases i with
    | zero =>
      split
      · next hb => simp [cellsOf_below base k (k + 1) r (by omega), hb]
      · simp [cellGet]
    | succ i =>
      have hi := ih (k + 1) i (by simpa using h)
      have he : base + (k + 1) + i = base + k + (i + 1) := by omega
      rw [he] at hi
      split
      · simpa using hi
      · have hn : (base + k == base + k + (i + 1)) = false := by simp
        simpa [cellGet, List.find?_cons, hn] using hi
theorem bytesIn_readBytes (base n : Nat) (bs : List Byte) (h : bs.length = n) : (bytesIn base bs).readBytes base n = bs := by
  subst h
  apply List.ext_getElem (by simp [Mem.readBytes])
  intro i h1 h2
  have hg := cellsOf_get base 0 i bs h2
  have hc : (bytesIn base bs).cells = cellsOf base 0 bs := by simp [bytesIn, cellsOf, List.range_eq_range']
  have hu : (bytesIn base bs).undef = [] := rfl
  simp only [Nat.add_zero] at hg
  simp only [Mem.readBytes, List.getElem_map, List.getElem_range, Mem.read, hc, hu, List.find?_nil, blankByte]
  cases hx : cellGet (cellsOf base 0 bs) (base + i) <;> simp_all

def firingPack (op n : Nat) : Packet := pack op 0x10000 n 3
def firingDev (bs : List Byte) : Dev := { stacked.dev with mem := bytesIn 0x10000 bs }
theorem test_stage_hyps : takes (firingPack 0x80 1408) (waits (firingPack 0x80 1408) (firingDev [])) = true ∧
    (firingDev []).stageable 3 = true ∧ (firingDev []).start.flash.slotSize = 0xF00000 ∧
    (firingDev []).directOk 0x10000 1408 = true ∧ (firingDev []).mem.firstPoison 0x10000 1408 = none ∧
    (firingDev []).ownerAccepts [] = true := by decide +kernel
theorem test_firing_len : (firingU 0).length = 1408 := by decide +kernel
theorem test_stage_read : (firingDev (firingU 0)).mem.readBytes 0x10000 1408 = firingU 0 := bytesIn_readBytes _ _ _ test_firing_len
theorem test_stage_verifies (hi : Config.implements [] 3#32 = true) (hl : Config.chainLeaf [] = some keyG) :
    firingFormOk 0xF00000 (firingU 0) = true ∧ firingSeq (firingU 0) = 0 ∧ firingSigned (firingU 0) = true ∧
    (firingDev (firingU 0)).ownerAccepts (firingU 0) = true ∧ firingFormOk 0xF00000 [] = false :=
  ⟨firing_form _ (test_firing_plain 0) hi, (test_firing_unowned 0).2.2.2.2, firing_signed 0 hl, rfl, by decide +kernel⟩
/-- Staged in slot 3, from a source that still has the digest, or that has changed. -/
def commitDev (bs : List Byte) : Dev :=
  { firingDev [7] with start := { stacked.dev.start with staged := Vector.replicate 8 (some { da := 0x10000, len := 1, digest := bs }) } }
def commitPack : Packet := pack 0x81 3
theorem test_commit_hyps : takes commitPack (waits commitPack (commitDev [])) = true ∧ (commitDev []).daOk 0x10000 1 = true ∧
    (commitDev []).mem.firstPoison 0x10000 1 = none ∧ firingDigest ((commitDev []).mem.readBytes 0x10000 1) ≠ [] ∧
    (firingDev []).start.staged.get 3 = none := by decide +kernel
theorem test_commit : (run (.firingCommit 1 true) (waits commitPack (commitDev (firingDigest [7])))).dev.start.flash.areaA.map (·.seq) = [1] ∧
    (run (.firingCommit 1 true) (waits commitPack (commitDev (firingDigest [7])))).dev.start.selected = some 3 := by decide +kernel
/-- Two commits, of which the older is what a revert selects, where the device takes it as verified. -/
def revRec : CommitRec := { seq := 1, isRevert := false, slot := 0, targetSeq := 0, digest := (firingDigest (firingU 1)).take 32 }
def revFlash : Flash :=
  { areaA := [revRec, { revRec with seq := 2, slot := 1 }], areaB := [revRec, { revRec with seq := 2, slot := 1 }],
    slots := (Vector.replicate 8 {}).set 0 { primary := firingU 1, mirror := firingU 1 } }
theorem test_revert_parts : revFlash.selectedRec = some { revRec with seq := 2, slot := 1 } ∧ revFlash.records.length = 2 ∧
    revFlash.olderThan 2 = some revRec ∧ revFlash.slotSize = 0xF00000 ∧ ({} : Flash).revertRec = none ∧
    takes (pack 0x82) (waits (pack 0x82) stacked.dev) = true := by decide +kernel
theorem judge_used (f : Flash) (r : CommitRec) (b : List Byte) (hs : f.slots.get r.slot = { primary := b, mirror := b })
    (hv : firingVerifies f.slotSize b = true) (hq : firingSeq b = r.seq) (hd : (firingDigest b).take 32 = r.digest) : f.judge r = .used b := by
  simp [Flash.judge, hs, hv, hq, hd]
theorem revertRec_of (f : Flash) (r q : CommitRec) (b : List Byte) (n : Nat) (h1 : f.selectedRec = some q) (h2 : f.records.length = n + 1)
    (h3 : f.olderThan q.seq = some r) (hj : f.judge r = .used b) : f.revertRec = some r := by
  simp [Flash.revertRec, h1, h2, h3, Flash.passing, hj, Judged.orOlder]
theorem set0_get (x : FlashSlot) : ((Vector.replicate 8 ({} : FlashSlot)).set 0 x).get 0 = x := rfl
theorem test_revert_hyps (hi : Config.implements [] 3#32 = true) (hl : Config.chainLeaf [] = some keyG) : revFlash.revertRec = some revRec := by
  obtain ⟨h1, h2, h3, h4, -⟩ := test_revert_parts
  have hv : firingVerifies revFlash.slotSize (firingU 1) = true := by
    have hp : firingPlain (firingU 1) = true := test_firing_plain 1
    have hs : firingSigned (firingU 1) = true := firing_signed 1 hl
    rw [h4, firingVerifies, firing_form _ hp hi, hs]; rfl
  have hq : firingSeq (firingU 1) = revRec.seq := (test_firing_unowned 1).2.2.2.2
  have hd : (firingDigest (firingU 1)).take 32 = revRec.digest := by rw [revRec]
  have hs : revFlash.slots.get revRec.slot = { primary := firingU 1, mirror := firingU 1 } := set0_get _
  exact revertRec_of _ _ _ _ 1 h1 h2 h3 (judge_used _ _ _ hs hv hq hd)
/-- ATTEST with 32 bytes of nonce, where the certificates leave room. -/
def attestPack : Packet := pack 0x83 0x8000 0x10000 0x10000
def attestDev : Dev := { stacked.dev with start := { stacked.dev.start with identityOk := true } }
theorem test_attest_hyps : takes attestPack (waits attestPack attestDev) = true ∧ attestDev.daOk 0x8000 32 = true ∧
    attestDev.daOk 0x10000 0x10000 = true ∧ attestDev.mem.firstPoison 0x8000 32 = none ∧ attestDev.mem.storeStruck 0x10000 0x10000 = false ∧
    stacked.dev.start.identityOk = false := by decide +kernel
theorem attest_room (h : Config.deviceCerts.length ≤ 0x1000) : attestDev.attestLen ≤ 0x10000 := by
  have : attestDev.start.active = none := rfl
  simp only [Dev.attestLen, this]; omega

-- Power and thermal events (PowerCapsLimitTheClocks, ThermalAndInputEvents)

def capPack (cap win : Nat) : Packet := pack 0x91 (cap + 65536 * win)
theorem test_cap_hyps : takes (capPack 3000 20) (waits (capPack 3000 20) up.dev) = true ∧ up.dev.sideband = true ∧ State.reset.dev.sideband = false := by decide +kernel
theorem test_cap : ((run (.powerCap 1) (waits (capPack 3000 20) up.dev)).dev.power.hostCap,
    ((run (.powerCap 1) (waits (capPack 2000 20) up.dev)).dev.cmd 0).map (·.reply.status)) = (3000, some stPowerParam) := by decide +kernel
/-- A device whose kilns run at one clock, and two that do not. -/
def clocked (n : Nat) (below : Nat) : State := upWith fun d => { d with power := { d.power with cap := Vector.replicate 12 n, belowFor := below } }
theorem test_tick_hyps : (clocked 20 9).dev.running = true ∧ (clocked 20 9).dev.power.fastUntil = none ∧ (clocked 20 9).dev.streamKilns = [] ∧
    (clocked 20 9).dev.power.applies = (6000, 10) := by decide +kernel
theorem test_tick : ((run (.powerCapTick 6001) (clocked 20 9)).dev.power.cap.toList.all (· == 19),
    (run (.powerCapTick 5000) (clocked 20 9)).dev.power.cap.toList.all (· == 21),
    (run (.powerCapTick 5000) (clocked 20 8)).dev.power.cap.toList.all (· == 20),
    (run (.powerCapTick 6001) (clocked 10 0)).dev.power.capUnmetSeen) = (true, true, true, true) := by decide +kernel
theorem test_fast_hyps : (run .fastPowerLimit (clocked 20 0)).dev.power.fastUntil = some (up.dev.nowUs + 1000) ∧
    (run .fastPowerLimit (clocked 20 0)).dev.power.cap.toList.all (· == 16) = true := by decide +kernel
theorem test_warn : ([(85, 60, 90), (84, 59, 90), (84, 60, 96), (84, 60, 95)] : List (Byte × Byte × Nat)).map (fun x =>
    (run (.thermalWarn x.1 x.2.1 [x.2.2]) up).dev.power.warnSeen) = [true, true, true, false] ∧ up.dev.ready = true := by decide +kernel
theorem test_throttle : ([(0, 101), (15, 101), (0, 99), (0, 96)] : List (DieIx × Nat)).map (fun x =>
    (run (.thermalThrottleTick x.1 x.2) (upWith fun d => { d with power := { d.power with heat := Vector.replicate 20 22 } })).dev.power.heat.get x.1) =
    [21, 22, 21, 33] ∧ up.dev.running = true := by decide +kernel
/-- Power on, and a commit in flight or none. -/
def powered : State := upWith fun d => d.modPins fun p => { p with powered := true }
theorem test_trip_hyps : powered.dev.commitSlot = none ∧ powered.dev.pins.alwaysOn = true ∧ powered.dev.power.tripLatch = false ∧
    powered.dev.pins.powered = true ∧ up.dev.pins.powered = false ∧ powered.dev.pins.input = true ∧
    (run .inputVoltageLoss powered).dev.pins.input = false := by decide +kernel
theorem test_trip : (run .thermalTrip powered).dev.pins.thermTripN = false ∧ (run .thermalTrip powered).dev.power.tripLatch = true ∧
    (run .inputPowerApplied (run .inputVoltageLoss powered)).dev.pins.alwaysOn = true := by decide +kernel
theorem test_stage_lost : powered.dev.power.stages.getLsbD 3 = true ∧
    (run (.stageOutOfRegulation 3) powered).dev.power.hostCap = 5625 := by decide +kernel

-- Ember, the sideband and JTAG (EmberIsEnteredAndLeft, SidebandAndJtagAnswer)

def emberPack (st : Nat) : Packet := pack 0x90 st
/-- Port 5 is up, port 9 too; the power state and the commands that wait for RUN. -/
def emberDev (st : BitVec 2) (runs : List Nat) : Dev :=
  let ports := (stacked.dev.fabric.ports.set 5 { state := 3, good := 7 }).set 9 { state := 3, good := 7 }
  { stacked.dev with power := { stacked.dev.power with state := st, runCmds := runs }, fabric := { stacked.dev.fabric with ports := ports } }
def embered (st : BitVec 2) (runs : List Nat) (op : Nat) : State := waits (emberPack op) (emberDev st runs)
theorem test_ember_hyps : takes (emberPack 1) (embered 0 [] 1) = true ∧ (embered 0 [] 1).dev.emberBarred 0 = false ∧
    (embered 0 [] 1).dev.power.state = 0 ∧
    ((List.finRange 128).find? fun q => ((embered 0 [] 1).dev.port q).state == 3#3) = some 5 := by decide +kernel
theorem test_ember_barred : (upWith fun _ => { (embered 0 [] 1).dev with tier := { stacked.dev.tier with moves := [{ ix := 0, dest := none }] } }).dev.emberBarred 0 = true := by
  decide +kernel
theorem test_ember : ((run (.powerStateEmber 1) (embered 0 [] 1)).dev.port 9).state = 0 ∧
    ((run (.powerStateEmber 1) (embered 0 [] 1)).dev.port 5).state = 3 ∧ (run (.powerStateEmber 1) (embered 0 [] 1)).dev.power.state = 1 := by
  decide +kernel
theorem test_run_hyps : ([0, 1, 2, 3] : List (BitVec 2)).all (fun st => takes (emberPack 0) (embered st [] 0)) = true := by decide +kernel
def leavingEmber : State := upWith fun _ => withCmd { cmdOf (emberPack 0) with phase := .running } (emberDev 3 [0])
theorem test_exit_hyps : leavingEmber.dev.power.state = 3 ∧ leavingEmber.dev.power.flrPending = false ∧ leavingEmber.dev.power.boardMemPower = true ∧
    leavingEmber.dev.power.runCmds = [0] ∧ leavingEmber.dev.cmd 0 = some { cmdOf (emberPack 0) with phase := .running } ∧
    (upWith fun _ => emberDev 2 []).dev.sideband = true := by decide +kernel
theorem test_exit : (run .emberExitComplete leavingEmber).dev.power.state = 0 ∧
    ((run .emberExitComplete leavingEmber).dev.cmd 0).map (·.phase) = some .done := by decide +kernel
theorem test_jtag_hyps : (upWith fun _ => emberDev 0 []).dev.pins.perstN = true ∧ State.reset.dev.pins.perstN = false ∧
    up.dev.ctrs.debugMode = false ∧ up.dev.streamRuns = false := by decide +kernel
def debugging : State := upWith fun d => { d with ctrs := { d.ctrs with debugMode := true } }
theorem test_jtag : debugging.dev.ctrs.debugMode = true ∧ debugging.dev.streamRuns = false ∧
    ((run (.jtagInstruction (.debugHalt 4)) debugging).dev.kilns.get 2).halted = true ∧
    ((run (.jtagInstruction (.debugHalt 4)) debugging).dev.kilns.get 1).halted = false := by decide +kernel

-- Flits (FlitsAreTakenInSequence)

/-- Port 5 up with eight of its nine wavelengths, port 6 up beside it; node 7, with routes from lantern 0 to node 9 by port 6. -/
def linkPort : Port := { state := 3, lanes := 0xFF, good := 0x1FF, rxSeq := 17 }
def linkFab (g : FabricPart → FabricPart) : State := upWith fun d =>
  let f : FabricPart := { d.fabric with ports := (d.fabric.ports.set 5 linkPort).set 6 { linkPort with rxSeq := 0 }, node := 7, nodeValid := true,
                                        routes := d.fabric.routes.set 0 [(9, routeEntry false [6] 1 0), (4, routeEntry false [5] 1 0)] }
  { d with fabric := g f }
def linked : State := linkFab id
/-- A data flit of a message from node 4 to a node. -/
def dataHead (dest : Nat) (first last : Bool) : Head :=
  { type := 1, seq := 17, dest := dest, src := 4, hops := 1, first := first, last := last, pwords := 1, msgId := 33 }
def flitOf (h : Head) (b : FlitBody) : Flit := { header := h.bits, body := b }
def dataFlit (dest : Nat) (first last : Bool) : Flit := flitOf (dataHead dest first last) (.bytes (leBytes 8 5))
theorem test_flit_head : (dataFlit 7 true true).head = dataHead 7 true true ∧ (dataFlit 9 true false).head = dataHead 9 true false ∧
    (flitOf { type := 0, ack := 5, ackValid := true, credits := 0x249 } .none).head = { type := 0, ack := 5, ackValid := true, credits := 0x249 } := by
  decide +kernel
theorem test_coll_idle : linked.dev.CollIdle := ⟨rfl, rfl, rfl, rfl⟩
theorem test_flit_hyps : (linked.dev.port 5).trained = true ∧ (up.dev.port 5).trained = false ∧
    (linked.dev.port 5).carries = true ∧ (dataFlit 7 true true).head.reserved = false ∧
    (flitOf { dataHead 7 true true with cls := 3 } .none).head.reserved = true ∧
    (flitOf { dataHead 7 true true with seq := 18 } .none).head.seq ≠ (linked.dev.port 5).rxSeq ∧
    (linkFab fun f => { f with ports := f.ports.set 5 { linkPort with state := 2 } }).dev.fabric.ports.get 5 = { linkPort with state := 2 } ∧
    ({ linkPort with state := 2 } : Port).carries = false ∧ ({ linkPort with state := 2 } : Port).trained = true := by decide +kernel
theorem test_spare_hyps : Port.Moved 0 0 linkPort { linkPort with swap := none, spareSeen := true, lanes := 0x1FE, good := 0x1FE } := by
  refine ⟨8, by decide, by decide, by decide, by decide, ?_, rfl, ?_⟩ <;> decide
theorem test_spare : ((run (.dataFlitReceive 5 (flitOf { type := 2, seq := 17, first := true, last := true } (.spareSwitch 0 0)) [] false) linked).dev.port 5).lanes = 0x1FE := by
  decide +kernel
/-- Messages that wait for acknowledgements from node 4, and one behind them. -/
def unackMsg : TxMsg := { lantern := 0, msgId := 12, dest := 4, vc := 0, payload := [], owner := .none, copies := 1 }
theorem test_ack_hyps : (linkFab fun f => { f with unacked := [unackMsg], waiting := [{ unackMsg with dest := 9 }] }).dev.fabric.unacked = [unackMsg] ∧
    unackMsg.dest = (BitVec.ofNat 14 (dataHead 7 true true).src) ∧ unackMsg.lantern = portLantern 5 := by decide +kernel
theorem test_ack : ((run (.dataFlitReceive 5 (flitOf (dataHead 7 true true) (.ack 12)) [] false)
    (linkFab fun f => { f with unacked := [unackMsg], waiting := [{ unackMsg with dest := 9 }] })).dev.fabric.unacked.map fun m => m.dest) = [9] := by
  decide +kernel
/-- A first part of a message that has arrived, and a message in transit. -/
def halfMsg : PartialMsg := { port := 5, vc := 0, src := 4, msgId := 33, bytes := leBytes 8 6 }
def transitMsg (out : Option (Fin 128)) : Transit := { port := 5, vc := 0, src := 4, msgId := 33, out := out }
theorem test_whole : ((run (.dataFlitReceive 5 (dataFlit 7 true true) [3] false) linked).dev.fabric.inbox.map fun m => m.payload) = [leBytes 8 5] ∧
    ((run (.dataFlitReceive 5 (dataFlit 7 false true) [] false) (linkFab fun f => { f with partials := [halfMsg] })).dev.fabric.inbox.map
      fun m => m.payload) = [leBytes 8 6 ++ leBytes 8 5] := by decide +kernel
theorem test_transit_hyps : linked.dev.bestHop 0 9 0 = some 6 ∧ linked.dev.bestHop 0 11 0 = none ∧ linked.dev.bestHop 0 4 2 = some 5 ∧
    linked.dev.fabric.target (dataHead 9 true true) = 9 := by decide +kernel
theorem test_transit : ((run (.dataFlitReceive 5 (dataFlit 9 true false) [] false) linked).dev.fabric.transits.map fun t => t.out) = [some 6] ∧
    ((run (.dataFlitReceive 5 (dataFlit 11 true false) [] false) linked).dev.fabric.transits.map fun t => t.held.length) = [1] := by decide +kernel
/-- A port with flits to acknowledge and to replay. -/
def sentFab (replays : Nat) : State := linkFab fun f =>
  { f with ports := f.ports.set 5 { linkPort with retry := [dataFlit 9 true true, flitOf { dataHead 9 true true with seq := 18 } .none], replaySeq := 18, replays := replays } }
theorem test_replay_hyps : ((sentFab 7).dev.port 5).retry.findIdx? (fun g => g.head.seq == 18) = some 1 ∧ ((sentFab 7).dev.port 5).queue = [] := by
  decide +kernel
theorem test_replay : ((run (.linkRetry 5 18) (sentFab 6)).dev.port 5).retraining = false ∧
    ((run (.linkRetry 5 18) (sentFab 7)).dev.port 5).retraining = true := by decide +kernel
theorem test_idle_ack : ((run (.idleFlitReceive 5 (flitOf { type := 0, ack := 17, ackValid := true } .none) [] false) (sentFab 0)).dev.port 5).retry.length = 1 := by
  decide +kernel
theorem test_abort : (run (.abortFlit 5 0 4 33) (linkFab fun f => { f with partials := [halfMsg], transits := [transitMsg (some 6)] })).dev.fabric.partials = [] ∧
    (run (.abortFlit 5 0 4 33) (linkFab fun f => { f with partials := [halfMsg], transits := [transitMsg (some 6)] })).dev.fabric.transits = [] := by decide +kernel

-- Lanes and lasers (LanesAreSparedAndRetrained)

/-- Port 5 with changes, its lantern's engines all spent or not. -/
def laned (x : Port) (spent : Bool) : State := linkFab fun f =>
  { f with ports := f.ports.set 5 x, engineOut := if spent then (List.range 33).map (fun e => (0, e + 1)) else f.engineOut }
def worn (k n : Nat) : Port := { linkPort with corrected := (Vector.replicate 8 0).setIfInBounds k n }
theorem test_worn_hyps : 132812500000 / 10 ^ max 4 linkPort.ber < (worn 2 132813).corrected.get 2 ∧ (∀ j < (2 : Fin 8), (worn 2 132813).corrected.get j ≤ 132812) ∧
    (worn 2 132813).carries = true ∧ (worn 2 132813).swap = none ∧ (worn 2 132813).good.getLsbD 8 = true ∧ (worn 2 132813).lanes.getLsbD 8 = false ∧
    132812500000 / 10 ^ max 4 linkPort.ber = 132812 := by decide +kernel
theorem test_worn : ([132812, 132813].map fun n => ((run (.laneBerWindowEnd 5) (laned (worn 2 n) false)).dev.port 5).swap) =
    [none, some { lane := 2, asked := true }] := by decide +kernel
def swapping (asked : Bool) : Port := { linkPort with swap := some { lane := 0, asked := asked } }
theorem test_swap : ((run (.spareRequest 5 3) linked).dev.port 5).swap = some { lane := 3, asked := false } ∧
    ((run (.spareReady 5 0) (laned (swapping false) false)).dev.port 5).lanes = 0x1FE ∧
    Port.Moved 0 0 (swapping false) { (swapping false) with swap := none, spareSeen := true, lanes := 0x1FE, good := 0x1FE } := by
  refine ⟨by decide +kernel, by decide +kernel, 8, by decide, by decide, by decide, by decide, ?_, rfl, ?_⟩ <;> decide
theorem test_lane_lost : ((run (.laneLost 5 3) linked).dev.port 5).retraining = true ∧ ((run (.laneLost 5 8) linked).dev.port 5).retraining = false ∧
    (run (.laneLost 5 8) up).dev = up.dev := by decide +kernel
def retraining (bad : Nat) : Port := { linkPort with retraining := true, badRetrains := bad, retry := [dataFlit 9 true true] }
theorem test_retrain_hyps : ([0xFE, 0xF, 7] : List (BitVec 9)).map (fun g => ((List.finRange 9).filter fun w : Fin 9 => g.getLsbD w.val).length) = [7, 4, 3] ∧
    (laned (retraining 0) false).dev.spareEngine 0 = some 1 ∧ (laned (retraining 0) true).dev.spareEngine 0 = none := by decide +kernel
theorem test_retrain : ((run (.retrainComplete 5 0x1FE true) (laned (retraining 2) false)).dev.port 5).lanes = 0x1FE ∧
    ((run (.retrainComplete 5 0x1FE false) (laned (retraining 1) false)).dev.port 5).badRetrains = 2 ∧
    ((run (.retrainComplete 5 0x1FE false) (laned (retraining 2) false)).dev.port 5).engine = 1 ∧
    ((run (.retrainComplete 5 0xF (true)) (laned (retraining 0) true)).dev.port 5).state = psHalf ∧
    ((run (.retrainComplete 5 7 true) (laned (retraining 0) true)).dev.port 5).state = psFailed := by decide +kernel
theorem test_feed : ((run (.laserFeedFail 0 3 true) linked).dev.port 6).retraining = true ∧
    ((run (.laserFeedFail 0 12 true) linked).dev.port 6).retraining = false ∧
    ((run (.laserFeedRestored 0 3) (run (.laserFeedFail 0 3 true) linked)).dev.fabric.lasers.get 0).aOk = 8 := by decide +kernel

-- Hellos and authentication (LinksComeUpAndGoDown)

def helloIn : Hello := { node := 4, valid := true, lantern := 1, position := 3, state := 2, fabricLow := 0, memberSeq := 0 }
/-- Port 5 in a state, the device with an identity or none, configured as member 0 of two whose ports face each other. -/
def portIn (st : BitVec 3) (identity : Bool) : State :=
  (laned { linkPort with state := st } false).onDev fun d => { d with start := { d.start with identityOk := identity } }
def miscabled (st : BitVec 3) : State :=
  (portIn st true).onDev fun d => { d with fabric := { d.fabric with role := { mode := 1, n := 2, groups := 1, g := 0, i := 0 } } }
theorem test_hello_hyps : (linked.dev.fabric.role.cabled 5 helloIn) = true ∧ (miscabled 3).dev.fabric.role.cabled 5 helloIn = false ∧
    (miscabled 3).dev.fabric.role.cabled 35 { helloIn with node := 1 } = true ∧
    (up.dev.port 5).trained = false ∧ ((portIn 1 true).dev.port 5).trained = true ∧
    ((portIn 3 true).dev.port 5).peerNode ≠ helloIn.node := by decide +kernel
theorem test_hello : ((run (.linkHello 5 helloIn) (portIn 1 true)).dev.port 5).state = psAuth ∧
    ((run (.linkHello 5 helloIn) (portIn 1 false)).dev.port 5).state = psAuthFailed ∧
    ((run (.linkHello 5 helloIn) (portIn 3 true)).dev.port 5).peerNode = 4 ∧
    ((run (.linkHello 5 helloIn) (miscabled 3)).dev.port 5).state = psMiscabled ∧
    ((run (.linkHello 5 helloIn) (laned { linkPort with state := 0, good := 0 } false)).dev.port 5).state = psAuthFailed := by decide +kernel
theorem test_hello_tick : ((run .helloIntervalTick linked).dev.port 5).missed = 1 ∧ ((run .helloIntervalTick linked).dev.port 7).missed = 0 := by
  decide +kernel
/-- An offer with no certificate, of this device's fabric and owner; a port to which it has come. -/
def offered : Port := { linkPort with state := 2, auth := { got := true } }
theorem test_auth_hyps : linked.dev.fabric.role.fabricId = 0 ∧ linked.dev.ownerDigest = 0 ∧ linked.dev.revoked [] = false ∧ offered.auth.got = true ∧
    ((List.finRange 9).filter fun w : Fin 9 => offered.lanes.getLsbD w.val).length = 8 := by decide +kernel
/-- Where the certificate names a key that verifies everything, the signature is good: the port is UP. -/
theorem test_auth_good (h : ∃ key, Config.certKey [] = some key ∧ ecdsaVerifies key ((laned offered false).dev.authDigestOf 5 key) 1 1 = true) :
    ∃ key, Config.certKey (((laned offered false).dev.port 5).auth.cert) = some key ∧
      ecdsaVerifies key ((laned offered false).dev.authDigestOf 5 key) 1 1 = true := h
theorem test_auth_other : (run (.authFlit 5 (.offer [] 9 0 [] 3)) (portIn 3 true)) = portIn 3 true := by decide +kernel
theorem test_auth_retry : ((run (.authRetryTimer 5) (portIn 5 true)).dev.port 5).state = psAuth ∧
    ((run (.authRetryTimer 5) (portIn 5 false)).dev.port 5).state = psAuthFailed := by decide +kernel
/-- A port silent for ten intervals, whose neighbour is in the database of a member or of none. -/
def silentPort : Port := { linkPort with missed := 10, peerNode := 4, peerValid := true }
def silent (st : BitVec 2) : State := (laned silentPort false).onDev fun d =>
  { d with fabric := { d.fabric with state := st, lsdb := [{ node := 4, version := 1, links := [] }] } }
theorem test_silent_hyps : max 1 (field ((silent 2).dev.fabric.linkCfg.get (portLantern 5)).toNat 7 4) ≤ silentPort.missed ∧
    silentPort.trained = true ∧ silentPort.good ≠ 0 ∧ silentPort.state ≠ psTraining ∧ silentPort.peerNode ≠ (silent 2).dev.fabric.node ∧
    (silent 2).dev.fabric.applied = [] := by decide +kernel
theorem test_silent : ((run (.neighbourDead 5) (silent 2)).dev.port 5).state = psTraining ∧ (run (.neighbourDead 5) (silent 2)).dev.fabric.lostPeerSeen = true ∧
    (run (.neighbourDead 5) (silent 0)).dev.fabric.lostPeerSeen = false := by decide +kernel

-- Membership (MembersJoinAndLeave)

def fabPack (op x : Nat) : Packet := pack op x 0x8000
/-- A command that waits beside two ports up, the fabric part changed. -/
def fabWaits (p : Packet) (g : FabricPart → FabricPart) : State := waits p (linkFab g).dev
def roleOne (f : FabricPart) : FabricPart := { f with role := { mode := 1, n := 2, groups := 1, g := 0, i := 1 }, node := 0, nodeValid := false }
def roleTwo (ids : List (Long × NodeId)) (f : FabricPart) : FabricPart := { f with role := { mode := 2 }, assigned := ids, node := 0, nodeValid := false }
theorem test_join_hyps : takes (fabPack 0xA0 0) (fabWaits (fabPack 0xA0 0) roleOne) = true ∧ (linkFab roleOne).dev.fabric.state = 0 ∧
    ((linkFab roleOne).dev.port 5).carries = true ∧ (linkFab roleOne).dev.fabric.lsdb = [] ∧
    ((linkFab roleOne).dev.fabric.ports.toList.all fun q => !(q.carries && q.peerValid)) = true ∧ up.dev.upPorts.isEmpty = true ∧
    (linkFab (roleTwo [])).dev.fabric.assigned = [] := by decide +kernel
theorem test_join_elected : (linkFab (roleTwo [(ownFingerprint, 3)])).dev.fabric.assigned.find? (fun a => a.1 == ownFingerprint) = some (ownFingerprint, 3) := by
  simp [linkFab, upWith, State.onDev, roleTwo]
theorem test_join : (run (.fabricJoin 1) (fabWaits (fabPack 0xA0 0) roleOne)).dev.fabric.node = 1 ∧
    ((run (.fabricJoin 1) (fabWaits (fabPack 0xA0 0) fun f => { roleOne f with lsdb := [{ node := 1, version := 1, links := [] }] })).dev.cmd 0).map
      (·.reply.status) = some stFabricIdConflict ∧
    ((run (.fabricJoin 1) (fabWaits (fabPack 0xA0 0) id)).dev.cmd 0).map (·.reply.status) = some stFabricParam := by decide +kernel
/-- A join that waits for its ID, its election over. -/
def electing : State := upWith fun _ => withCmd { cmdOf (fabPack 0xA0 0) with phase := .running } (linkFab fun f =>
  { roleTwo [] f with state := 1, join := some 0, electAt := up.dev.nowUs }).dev
theorem test_elect_hyps : electing.dev.fabric.role.mode = 2 ∧ electing.dev.fabric.join = some 0 ∧ electing.dev.fabric.electAt ≤ electing.dev.nowUs ∧
    electing.dev.fabric.assigned = [] ∧ electing.dev.fabric.fingerprints = [] ∧
    electing.dev.cmd 0 = some { cmdOf (fabPack 0xA0 0) with phase := .running } ∧ electing.dev.fabric.lsdb = [] ∧
    ((electing.dev.fabric.ports.toList.all fun q => !(q.carries && q.peerValid)) = true) := by decide +kernel
def memberOf (f : FabricPart) : FabricPart := { f with state := 2 }
theorem test_leave_hyps : takes (fabPack 0xA1 1) (fabWaits (fabPack 0xA1 1) memberOf) = true ∧ takes (fabPack 0xA1 0) (fabWaits (fabPack 0xA1 0) memberOf) = true ∧
    (linkFab memberOf).dev.fabric.applied = [] ∧ (linkFab id).dev.fabric.state ≠ 2 ∧ (linkFab memberOf).dev.coll.ops = [] ∧
    (linkFab memberOf).dev.coll.binds = [] ∧ (linkFab memberOf).dev.coll.jobs = [] := by decide +kernel
theorem test_leave : (run (.fabricLeave 1) (fabWaits (fabPack 0xA1 0) memberOf)).dev.fabric.leave.map (·.forwarding) = some true ∧
    (run (.fabricLeave 1) (fabWaits (fabPack 0xA1 1) memberOf)).dev.fabric.leave.map (·.forwarding) = some true := by decide +kernel
/-- The same with a bind in flight: a leave that drains waits for it. -/
def leaveBusy : State := (fabWaits (fabPack 0xA1 1) memberOf).onDev fun d =>
  { d with coll := { d.coll with binds := [{ cmd := 9, handle := 1, members := [], generation := 0, digest := [], due := 0 }] } }
theorem test_leave_busy : takes (fabPack 0xA1 1) leaveBusy = true ∧ leaveBusy.dev.coll.binds ≠ [] ∧
    (run (.fabricLeave 1) leaveBusy).dev.fabric.leave.map (·.forwarding) = some false := by decide +kernel
def leavingDev (fwd : Bool) : State := upWith fun _ => withCmd { cmdOf (fabPack 0xA1 1) with phase := .running } (linkFab fun f =>
  { f with state := 3, leave := some { cmd := 0, forwarding := fwd, due := up.dev.nowUs } }).dev
theorem test_leaving_hyps (fwd : Bool) : (leavingDev fwd).dev.fabric.leave = some { cmd := 0, forwarding := fwd, due := (leavingDev fwd).dev.nowUs } ∧
    (leavingDev fwd).dev.cmd 0 = some { cmdOf (fabPack 0xA1 1) with phase := .running } ∧ (leavingDev fwd).dev.fabric.applied = [] := by
  revert fwd; decide +kernel
theorem test_leaving : (run .leaveDrainTimeout (leavingDev false)).dev.fabric.leave.map (·.forwarding) = some true ∧
    (run .leaveForwardEnd (leavingDev true)).dev.fabric.state = 0 ∧ (run .leaveForwardEnd (leavingDev true)).dev.link.replies = [0] := by decide +kernel
def queryRoute (first count : Nat) : Packet := fabPack 0xA2 (first + 65536 * count + 2 ^ 32)
theorem test_route_query_hyps : takes (queryRoute 9 1) (fabWaits (queryRoute 9 1) fun f => f) = true ∧ stacked.dev.daOk 0x8000 8 = true ∧
    linked.dev.daOk 0x8000 8 = false ∧ stacked.dev.mem.storeStruck 0x8000 8 = false ∧ takes (queryRoute 9 1) (waits (queryRoute 9 1) stacked.dev) = true := by
  decide +kernel
theorem test_route_query : ([(9, 0), (16383, 2), (9, 1)].map fun x =>
    ((run (.routeQuery 1) (waits (queryRoute x.1 x.2) stacked.dev)).dev.cmd 0).map (·.reply.status)) =
    [some stFabricParam, some stFabricParam, some stOk] := by decide +kernel

-- Routes, events and late messages (RoutesEventsAndLateMessages)

def lsNode (n : NodeId) (v : Nat) (peer : NodeId) : LsNode := { node := n, version := v, links := [{ port := 3, peer := peer }] }
def routed : State := linkFab fun f => { f with state := 2, lsdb := [lsNode 4 1 9], fingerprints := [5], applied := [(4, 1)] }
theorem test_route_hyps : (routed.dev.port 5).carries = true ∧ (up.dev.port 5).carries = false ∧
    (routed.dev.fabric.lsdb.find? fun x => x.node == 4) = some (lsNode 4 1 9) ∧ (5 : Long) ∈ routed.dev.fabric.fingerprints ∧
    (6 : Long) ∉ routed.dev.fabric.fingerprints ∧ routed.dev.fabric.coordinator = false ∧ (4, 1) ∈ routed.dev.fabric.applied ∧
    routed.dev.CollIdle = True := ⟨by decide, by decide, by decide, by decide, by decide, by decide, by decide, eq_true ⟨rfl, rfl, rfl, rfl⟩⟩
theorem test_route : ((run (.routeFlit 5 (.linkState 4 2 [{ port := 1, peer := 9 }])) routed).dev.fabric.lsdb.map (·.version)) = [2] ∧
    (run (.routeFlit 5 (.linkState 4 1 [])) routed) = routed ∧ (run (.routeFlit 5 (.fingerprint 6)) routed).dev.fabric.fingerprints = [5, 6] := by
  decide +kernel
def coordinated : State := linkFab fun f => { f with state := 2, coordinator := true, assigned := [(5, 0), (7, 1)], fingerprints := [5] }
theorem test_coordinator_hyps : coordinated.dev.fabric.coordinator = true ∧ coordinated.dev.fabric.join = none ∧
    (∀ a ∈ coordinated.dev.fabric.assigned, a.1 ≠ 6 ∧ a.2 ≠ 2) ∧ (∀ n : NodeId, n < 2 → ∃ a ∈ coordinated.dev.fabric.assigned, a.2 = n) := by
  refine ⟨by decide +kernel, by decide +kernel, fun a ha => ?_, fun n hn => ?_⟩
  · have h : a = (5, 0) ∨ a = (7, 1) := by simpa using (show a ∈ [((5 : Long), (0 : NodeId)), (7, 1)] from ha)
    rcases h with rfl | rfl <;> decide
  have h : n = 0 ∨ n = 1 := by
    have : n.toNat < 2 := hn
    rcases Nat.lt_succ_iff_lt_or_eq.mp this with h | h
    · exact .inl (BitVec.eq_of_toNat_eq (by simp; omega))
    · exact .inr (BitVec.eq_of_toNat_eq (by simp; omega))
  rcases h with rfl | rfl
  · exact ⟨(5, 0), by decide, rfl⟩
  · exact ⟨(7, 1), by decide, rfl⟩
theorem test_coordinator : (run (.routeFlit 5 (.assignment [(5, 0), (7, 1), (9, 2)])) coordinated).dev.fabric.assigned.length = 3 := by decide +kernel
/-- A join that waits for its ID takes the assignment that names this device. -/
def joinIds : List (Long × NodeId) := [(ownFingerprint, 3)]
theorem test_join_ids : (joinIds.find? fun a => a.1 == ownFingerprint) = some (ownFingerprint, 3) ∧ electing.dev.fabric.assigned.length < joinIds.length := by
  constructor <;> simp [joinIds, electing, upWith, State.onDev, withCmd, linkFab, roleTwo]
def lossEvent (seq : Nat) : MemberEvent := { origin := 4, seq := seq, loss := true, node := 9 }
theorem test_event : (run (.membershipEvent (lossEvent 2)) routed).dev.fabric.lostPeerSeen = true ∧ (run (.membershipEvent (lossEvent 1)) routed) = routed ∧
    (4, 2) ∉ routed.dev.fabric.applied := by decide +kernel
/-- A message that waits for its acknowledgement, of an owner. -/
def lateMsg (o : MsgOwner) (copies : Nat) : TxMsg := { lantern := 0, msgId := 12, dest := 9, vc := 0, payload := [1], owner := o, copies := copies, due := up.dev.nowUs }
def lateOf (o : MsgOwner) (copies : Nat) (c : CollPart → CollPart) : State := upWith fun _ =>
  let d := withCmd { cmdOf (pack 0x44) with phase := .running } (linkFab fun f => { f with unacked := [lateMsg o copies] }).dev
  { d with coll := c d.coll }
theorem test_late_hyps : (∀ o : Fin 2, let m := lateMsg (if o = 0 then .op 0 else .none) 2
      ((lateOf m.owner 2 id).dev.fabric.unacked.find? fun m => m.lantern == 0 && m.msgId == 12) = some m ∧ m.due ≤ (lateOf m.owner 2 id).dev.nowUs) ∧
    (lateOf .none 2 id).dev.fabric.waiting = [] ∧ (lateOf .none 1 id).dev.bestHop 0 9 0 = some 6 ∧ (lateOf .none 1 id).dev.fabric.role.mode ≠ 1 ∧
    (lateOf (.op 0) 2 id).dev.cmd 0 = some { cmdOf (pack 0x44) with phase := .running } := by decide +kernel
theorem test_late : ((run (.messageAckTimeout 0 12) (lateOf .none 1 id)).dev.fabric.unacked.map (·.copies)) = [2] ∧
    (run (.messageAckTimeout 0 12) (lateOf .none 2 id)).dev.fabric.unacked = [] := by decide +kernel
def lateOp : CollOp :=
  { id := 0, d := { op := 1, dtype := 0, redop := 0, path := 0, group := 5, root := 0, src := 0, dst := 0, count := 1, stage := 0, stageLen := 0, chunk := 0, generation := 0, job := 0, bucket := 0 },
    rank := 0, epoch := 0, seq := 0, due := 0 }
def lateBind : Bind := { cmd := 0, handle := 5, members := [], generation := 0, digest := [], due := 0 }
theorem test_late_owned : (run (.messageAckTimeout 0 12) (lateOf (.op 0) 2 fun c => { c with ops := [lateOp] })).dev.link.replies = [0] ∧
    (lateOf (.op 0) 2 fun c => { c with ops := [lateOp] }).dev.collOp 0 = some lateOp ∧
    (run (.messageAckTimeout 0 12) (lateOf (.bind 5) 2 fun c => { c with binds := [lateBind] })).dev.link.replies = [0] := by decide +kernel
theorem test_late_job : (lateOf (.job 9) 2 fun c => { c with jobs := [stepping] }).dev.job 9 = some stepping ∧ stepping.active = true ∧
    stepping.queued = [] ∧ stepping.closing = none ∧
    ((run (.messageAckTimeout 0 12) (lateOf (.job 9) 2 fun c => { c with jobs := [stepping] })).dev.job 9).map (·.active) = some false := by decide +kernel
theorem test_no_route : (run (.noRouteTimeout 5 0) (linkFab fun f => { f with transits := [transitMsg none, transitMsg (some 6)] })).dev.fabric.transits =
    [transitMsg (some 6)] := by decide +kernel
def heldIn (t : Nat) : InMsg := { src := 4, lantern := 0, payload := [], heldTo := some t }
theorem test_held : (run (.heldMessageTimeout 0) (linkFab fun f => { f with inbox := [heldIn 0] })).dev.fabric.inbox = [] ∧
    (run (.heldMessageTimeout 0) (linkFab fun f => { f with inbox := [heldIn (up.dev.nowUs + 1)] })).dev.fabric.inbox.length = 1 := by decide +kernel

-- Counters, debug mode and health (CountersAreSelectedReadAndCleared, DebugModeAndHealth)

/-- Event 0x01 of tile 3, enabled and chained; an index past the die's tiles; an event that no die lists. -/
def selWord : Word := 0x000C0301
theorem test_sel_hyps : selOk .kiln selWord = true ∧ selOk .kiln 0x00041001 = false ∧ selOk .kiln 0x000000FF = false ∧
    selOk .kiln 0x00400000 = false ∧ selOk .hub 0x0003FF01 = true ∧ eventRange .kiln 1 = some (0, 16) ∧ field selWord.toNat 17 8 = 3 ∧
    field selWord.toNat 31 22 = 0 := by decide +kernel
theorem test_sel : (((run (.ctrSelWrite 0 2 selWord) up).dev.ctrs.blocks.get 0).ctrs.get 2).event = 1 ∧
    (run (.ctrSelWrite 0 2 0x00041001) up).dev.link.protoErrors = 1 ∧ up.dev.ready = true ∧ up.dev.power.state = 0 ∧ State.reset.dev.ready = false := by
  decide +kernel
/-- A pair of counters about to overflow: the odd one chained or not, each freezing its block or not, in block 0. -/
def chainUp (chain fe fo frozen : Bool) : State := upWith fun d =>
  let e : Ctr := { enable := true, freeze := fe, count := 0xFFFFFFFFFFFF }
  let o : Ctr := { enable := true, chain := chain, freeze := fo, count := 0xFFFFFFFFFFFF }
  let x : CtrBlock := { frozen := frozen, ctrs := ((Vector.replicate 8 {}).set 2 e).set 3 o }
  { d with ctrs := { d.ctrs with blocks := d.ctrs.blocks.set 0 x } }
def pairOf (s : State) : List (Nat × Bool) := let x := s.dev.ctrs.blocks.get 0; [x.ctrs.get 2, x.ctrs.get 3].map fun q => (q.count.toNat, q.ovf)
theorem test_overflow : pairOf (run (.counterOverflow 0 2) (chainUp true false true false)) = [(0, true), (0, true)] ∧
    ((run (.counterOverflow 0 2) (chainUp true false true false)).dev.ctrs.blocks.get 0).frozen = true ∧
    pairOf (run (.counterOverflow 0 2) (chainUp false true false false)) = [(0, true), (0xFFFFFFFFFFFF, false)] ∧
    run (.counterOverflow 0 2) (chainUp true true true true) = chainUp true true true true ∧
    ((run (.countersResume 0) (chainUp true true true true)).dev.ctrs.blocks.get 0).frozen = false := by decide +kernel
/-- COUNTER_CONFIG for the blocks of a mask, a PROGRAM's records all alike, or a SNAPSHOT to an address. -/
def ctrBytes (act mask da : Nat) (sel : Word) : List Byte :=
  [BitVec.ofNat 8 act, 0, 0, 0] ++ leBytes 4 mask ++ [0, 0] ++ leBytes 6 da ++ List.replicate 48 0 ++
  (List.replicate 160 sel).flatMap fun w => leBytes 4 w.toNat
def counting (act mask da : Nat) (sel : Word) (d : Dev) : State := waits (pack 0xB0 0x8000) { d with mem := bytesIn 0x8000 (ctrBytes act mask da sel) }
theorem test_counting_hyps (act : Fin 5) : takes (pack 0xB0 0x8000) (counting act.val 5 0x2000 0x00040001 stacked.dev) = true := by
  revert act; decide +kernel
theorem test_counting_mem : stacked.dev.daOk 0x8000 704 = true ∧ up.dev.daOk 0x8000 64 = false ∧
    (counting 1 5 0x2000 0 stacked.dev).dev.mem.firstPoison 0x8000 704 = none ∧ stacked.dev.daOk 0x2000 256 = true ∧
    (counting 1 5 0x2000 0 stacked.dev).dev.mem.storeStruck 0x2000 256 = false ∧ stacked.dev.daOk 0x2004 256 = true ∧ up.dev.daOk 0x2000 256 = false := by
  decide +kernel
theorem test_counting_bytes (act : Fin 5) : let b := (counting act.val 5 0x2000 0x00040001 stacked.dev).dev.mem.readBytes 0x8000 64
    bytesAt b 0 0 = act.val ∧ bytesAt b 7 4 = 5 ∧ bytesAt b 15 10 = 0x2000 := by revert act; decide +kernel
theorem test_program_fits : selOk (kindOf 0) 0x00040001 = true ∧ selOk (kindOf 2) 0x00040001 = true := by decide +kernel
def counted (act mask : Nat) (sel : Word) : State := run (match act with | 0 => .counterProgram 1 | 1 => .counterSnapshot 1 | 2 => .counterStop 1 | _ => .counterClear 1)
  (counting act mask 0x2000 sel { stacked.dev with ctrs := (chainUp true true true false).dev.ctrs })
theorem test_counters_stop : (((counted 2 1 0).dev.ctrs.blocks.get 0).ctrs.get 2).enable = false ∧
    (((counted 3 1 0).dev.ctrs.blocks.get 0).ctrs.get 2).count = 0 ∧ ((counted 3 0 0).dev.cmd 0).map (·.reply.status) = some stCounterParam := by
  decide +kernel
theorem test_counters_snapshot : (counted 1 1 0).dev.mem.readNat (0x2000 + 8 + 16) 8 = 0xFFFFFFFFFFFF := by decide +kernel
theorem test_counters_program : (((counted 0 1 0x00040001).dev.ctrs.blocks.get 0).ctrs.get 7).event = 1 ∧
    ((counted 0 1 0x00400000).dev.cmd 0).map (·.reply.status) = some stCounterParam := by decide +kernel
def windowOver (left : Nat) : State := upWith fun d => { d with ctrs := { d.ctrs with bwLeft := left, portBw := d.ctrs.portBw.set 5 { out := 1000 } } }
theorem test_bw_window : ((run .bwWindowClose (windowOver 0)).dev.ctrs.portBw.get 5).latchOut = 3 ∧ run .bwWindowClose (windowOver 1) = windowOver 1 := by
  decide +kernel
theorem test_ue_log : (run .ueLogClear up).dev.repair.ue = {} ∧ run .ueLogClear State.reset = State.reset := by decide +kernel

/-- DEBUG_CONTROL of an action for kilns 0 and 2, a DUMP of n bytes at 64 of a tile to 0x2000, in debug mode or not. -/
def dbgBytes (act tile n : Nat) : List Byte :=
  [BitVec.ofNat 8 act, 0, 5, 0, BitVec.ofNat 8 tile, 0, 0, 0] ++ leBytes 4 64 ++ leBytes 4 n ++ leBytes 6 0x2000 ++ List.replicate 42 0
def debugs (act tile n : Nat) (mode : Bool) : State := waits (pack 0xB1 0x8000)
  { stacked.dev with mem := bytesIn 0x8000 (dbgBytes act tile n), ctrs := { stacked.dev.ctrs with debugMode := mode } }
theorem test_debug_hyps (act : Fin 6) : takes (pack 0xB1 0x8000) (debugs act.val 0 0 true) = true ∧
    (debugs act.val 0 0 true).dev.mem.firstPoison 0x8000 64 = none ∧ bytesAt ((debugs act.val 0 0 true).dev.mem.readBytes 0x8000 64) 0 0 = act.val ∧
    takes (pack 0xB1 0x8000) (debugs act.val 0 0 false) = true ∧
    bytesAt ((debugs act.val 0 0 false).dev.mem.readBytes 0x8000 64) 0 0 = act.val := by revert act; decide +kernel
theorem test_debug_enter_hyps : up.dev.start.flash.selectedBytes = none ∧
    (debugs 2 0 0 true).dev.streamRuns = false := by decide +kernel
/-- The owner of the active firing does not allow it, or a stream is ARMED. -/
def streamed : State := (debugs 2 0 0 true).onDev fun d =>
  { d with candle := { d.candle with streams := d.candle.streams.set 0 { d.candle.streams.get 0 with state := 2 } } }
theorem test_debug_stream : takes (pack 0xB1 0x8000) streamed = true ∧ 2 ≤ (streamed.dev.candle.streams.get 0).state ∧
    ((run (.halt 1) streamed).dev.cmd 0).map (·.reply.status) = some stCandleState := by decide +kernel
def debugDone (i : Instr) (act : Nat) (mode : Bool) : Dev := (run i (debugs act 0 8 mode)).dev
theorem test_debug_mode : (debugDone (.debugEnter 1) 0 false).ctrs.debugMode = true ∧ (debugDone (.debugExit 1) 1 true).ctrs.debugMode = false ∧
    (debugDone (.debugExit 1) 1 false).ctrs.deniedSeen = true ∧ ((debugDone (.debugExit 1) 5 true).cmd 0).map (·.reply.status) = some stDebugDenied := by
  decide +kernel
theorem test_halts : ((List.finRange 12).filter fun k => ((debugDone (.halt 1) 2 true).kilns.get k).halted) = [0, 2] ∧
    (debugDone (.continue_ 1) 3 true).kilns = stacked.dev.kilns := by decide +kernel
/-- A DUMP of a tile's buffer, and of a scratchpad's poisoned word. -/
def dumpTo (tile : Nat) : State := (debugs 4 tile 8 true).onDev fun d => { d with mem := { d.mem with poison := [(scratchBase 0 + 64) / 8] } }
theorem test_dump_hyps : stacked.dev.daOk 0x2000 8 = true ∧ up.dev.daOk 0x2000 8 = false ∧ (dumpTo 0).dev.mem.storeStruck 0x2000 8 = false ∧
    bytesAt ((dumpTo 0).dev.mem.readBytes 0x8000 64) 15 12 = 8 ∧ bytesAt ((dumpTo 0).dev.mem.readBytes 0x8000 64) 21 16 = 0x2000 ∧
    (dumpTo 0).dev.dumpSource (dbgBytes 4 0 8) = none ∧ (dumpTo 0xFF).dev.dumpSource (dbgBytes 4 0xFF 8) = some (scratchBase 0 + 64) := by
  decide +kernel
theorem test_dump : (run (.dump 1 (leBytes 8 0x0102)) (dumpTo 0)).dev.mem.readNat 0x2000 8 = 0x0102 ∧
    (run (.dump 1 (leBytes 8 0x0102)) (dumpTo 0xFF)).dev.mem.firstPoison 0x2000 8 = some 0x2000 := by decide +kernel
theorem test_sacc : ((run (.saccCapture 0 0x00050321) debugging).dev.kilns.get 0).sacc.column = 5 ∧
    run (.saccCapture 0 0x00050321) up = up ∧ (run (.saccCapture 0 0x80) debugging).dev.link.protoErrors = 1 := by decide +kernel
def healthPack (space : Nat) : Packet := pack 0xF0 0x2000 space
def healthAsked (space : Nat) : State := waits (healthPack space) { stacked.dev with start := { stacked.dev.start with
  startNo := 9, flash := { stacked.dev.start.flash with sherds := [{ start := 1, step := 3, outcome := 1 }, { start := 2, step := 3, outcome := 1 }] } } }
theorem test_health_hyps : takes (healthPack 160) (healthAsked 160) = true ∧ takes (healthPack 159) (healthAsked 159) = true ∧
    ((healthAsked 160).dev.start.flash.sherds.filter fun r => decide ((healthAsked 160).dev.start.startNo < r.start + 8)).length = 1 ∧
    (healthAsked 160).dev.repair.standing = [] ∧ (healthAsked 160).dev.daOk 0x2000 160 = true ∧
    (healthAsked 160).dev.mem.storeStruck 0x2000 160 = false ∧ up.dev.daOk 0x2000 128 = false := by decide +kernel
theorem test_health : ((run (.healthQuery 1) (healthAsked 159)).dev.cmd 0).map (·.reply.status) = some stQuerySpace ∧
    (run (.healthQuery 1) (healthAsked 160)).dev.mem.readNat 0x2000 4 = 0x48544C48 ∧
    ((run (.healthQuery 1) (healthAsked 160)).dev.cmd 0).map (·.reply.body) = some (vals 160 0 0) := by decide +kernel

-- The time unit (TimeIsFollowed)

/-- A unit that follows a source in a state, good since the start, at a phase of 3 frames and a half. -/
def timing (source : Nat) (st : BitVec 2) (f : TimePart → TimePart) : State := upWith fun d =>
  let t := { d.time with cfg := BitVec.ofNat 32 (0x003C0A00 + source), state := st, phase := 0x38000, goodSince := some 0, holdTo := 2000000 }
  { d with nowUs := 2000000, time := f t }
theorem test_time_regs : ((run (.timeCfgWrite 0x013C0A01) (timing 2 2 id)).dev.time.state, (run (.timeCfgWrite 0x10) (timing 2 2 id)).dev.link.protoErrors) = (1, 1) ∧
    (run (.timeRateWrite 0x00010030) (timing 2 2 id)).dev.time.num = 48 ∧ (run (.timeRateWrite 0) (timing 2 2 id)).dev.time.rateErr = true ∧
    (run (.timeRateWrite 0x80000000) (timing 2 2 id)).dev.link.protoErrors = 1 := by decide +kernel
theorem test_time_valid : field 0x00010030 15 0 = 48 ∧ field 0x00010030 25 16 = 1 ∧ field 0 15 0 = 0 ∧ (0x013C0A01#32).getLsbD 3 = false ∧
    (0x013C0A01#32 ^^^ 0x003C0A02#32) &&& 0xFF00000F#32 ≠ 0#32 ∧ up.dev.ready = true ∧ State.reset.dev.ready = false := by decide +kernel
/-- It locks, the frame of its first lock being 0 with frame pulses; not before 1 s, nor with no source. -/
theorem test_time_lock : (run .timeLock (timing 1 1 id)).dev.time.phase = 0x8000 ∧ (run .timeLock (timing 2 1 id)).dev.time.phase = 0x38000 ∧
    (run .timeLock (timing 2 1 id)).dev.time.state = 2 ∧ run .timeLock (timing 0 1 id) = timing 0 1 id ∧
    run .timeLock (timing 1 1 fun t => { t with goodSince := some 1500000 }) = timing 1 1 fun t => { t with goodSince := some 1500000 } := by decide +kernel
theorem test_time_loss : (run .timeReferenceLoss (timing 2 2 id)).dev.time.state = 3 ∧ (run .timeReferenceLoss (timing 2 2 id)).dev.time.holdTo = 62000000 ∧
    (run .timeReferenceLoss (timing 2 2 fun t => { t with cfg := 2 })).dev.time.state = 0 ∧ (run .timeReferenceLoss (timing 2 1 id)).dev.time.state = 1 ∧
    (run .holdoverExpiry (timing 2 3 id)).dev.time.state = 0 ∧ run .holdoverExpiry (timing 2 2 id) = timing 2 2 id := by decide +kernel
theorem test_time_return : ([0, 1, 2, 3] : List (BitVec 2)).map (fun st => (run .timeReferenceReturn (timing 2 st id)).dev.time.state) = [1, 1, 2, 2] ∧
    run .timeReferenceReturn (timing 0 0 id) = timing 0 0 id := by decide +kernel
/-- An error of 1 µs is slewed, one above STEP_LIMIT stepped to the nearest frame; a LOCKED unit takes no edge that far off. -/
theorem test_time_pulse : (run (.tpulseEdge 900 true) (timing 1 1 id)).dev.time.slew = 900 ∧
    (run (.tpulseEdge 20000 true) (timing 1 1 id)).dev.time.phase = 0x40000 ∧ run (.tpulseEdge 20000 true) (timing 1 2 id) = timing 1 2 id ∧
    (run (.tpulseEdge (-100) true) (timing 1 2 id)).dev.time.goodSince = some 0 := by decide +kernel
def ptpMaster (p id : Nat) : PtpMaster := { priority1 := p, clockClass := 6, accuracy := 0x21, variance := 0, priority2 := 128, identity := id, steps := 0 }
/-- A clock that follows master 7. -/
def ptpOpen (arrival : Option Nat) : State :=
  let p : Ptp := { master := some (ptpMaster 10 7), heard := [ptpMaster 10 7], syncArrival := arrival, syncPhase := 0x38000, slaveToMaster := 100 }
  (timing 2 1 fun t => { t with ptp := p }).onDev fun d => { d with pins := { d.pins with ethPhyRstN := true } }
theorem test_ptp_hyps : (ptpOpen none).dev.pins.ethPhyRstN = true ∧ (ptpOpen none).dev.ready = true ∧ (ptpOpen none).dev.start.skips.getLsbD 18 = false ∧
    (timing 2 1 id).dev.pins.ethPhyRstN = false ∧ min 127 ((ptpOpen none).dev.time.cfg.toNat / 16777216) = 0 ∧
    (ptpOpen none).dev.time.ptp.master = some (ptpMaster 10 7) := by decide +kernel
theorem test_ptp : (run (.ptpMessage (.announce 0 (ptpMaster 9 8))) (ptpOpen none)).dev.time.ptp.master = some (ptpMaster 9 8) ∧
    run (.ptpMessage (.announce 1 (ptpMaster 9 8))) (ptpOpen none) = ptpOpen none ∧
    (run (.ptpMessage (.sync 7 1000 1200 true)) (ptpOpen none)).dev.time.ptp.syncArrival = some 1200 ∧
    run (.ptpMessage (.sync 8 1000 1200 true)) (ptpOpen none) = ptpOpen none ∧
    (run (.ptpMessage (.delayResp 7 5 9)) (ptpOpen none)).dev.time.ptp.slaveToMaster = 4 := by decide +kernel
/-- A frame of 24 a second and 150 ns of delay past the epoch's third frame: the unit, at 3 frames and a half, steps back. -/
theorem test_ptp_follow : (run (.ptpMessage (.followUp 7 125000000)) (ptpOpen (some 125000200))).dev.time.stepSeen = true ∧
    (run (.ptpMessage (.followUp 7 125000000)) (ptpOpen (some 125000200))).dev.time.phase = 0x30000 ∧
    run (.ptpMessage (.followUp 7 125000000)) (ptpOpen none) = ptpOpen none := by decide +kernel

-- Executions (TileExecutionsRun, PipelinesUnitsAndEnginesRun)

def bufAt (fmt : BFmt) (rank base : Nat) (exts strides : List Nat) : Buf :=
  { kind := 1, fmt := fmt, outliers := false, listed := false, rank := rank, tscale := 0, exts := exts, strides := strides, base := base,
    scaleOff := 0, sideOff := 0, home := 0, level := 0 }
/-- A kernel on tile 0 or pipeline 0 of kiln 0, marked by a format's code. -/
def kernelOf (kind mark : Nat) : Kernel :=
  { kind := kind, markFmt := mark, wideFmt := 0, range := 0, promote := 0, flags := 0, layer := 0, rotSeed := 0, bufA := 0, bufB := 1, bufOut := 2,
    bufAux := noIx, shape := 48, loop := 0, chain := noIx, auxIndex := 0, auxCount := 1, fnref := noIx, mMax := 8, nMax := 8, kMax := 64,
    entryMax := 1, execK := 1, kilnMask := 1, tileMask := 3 }
def loopOf (order flags : Nat) : Loop := { order := order, flags := flags, stepM := 0, stepN := 0, stepK := 0 }
/-- A product of two rows of K elements. -/
def prodImage (mark : Nat) : Image :=
  { size := 0, numerics := 0, layerCount := 1, classes := 7, loops := List.replicate 4 (loopOf 0 0), kernels := [{ kernelOf 0 mark with tileMask := 1 }],
    bufs := [bufAt .bf16 2 0x10000 [64, 1, 1, 1] [128, 0, 0], bufAt .bf16 2 0x20000 [64, 1, 1, 1] [128, 0, 0],
             bufAt .fp32 2 0x30000 [1, 1, 1, 1] [64, 0, 0]] }
def entryOf (m n k : Nat) : Entry :=
  { bases := [], m := m, n := n, k := k, qpos := 0, w0 := 0, w1 := 0, ctx := 0, reads := false, writes := false, headFirst := 0, headCount := 1 }
/-- A launch of an image over memory, with its entry. -/
def works (im : Image) (e : Entry) (m : Mem) (g : Launch → Launch) : Dev :=
  let p := { loaded.progs with programs := [{ handle := 5, image := im, retiring := false, scratch := List.replicate 12 0 }] }
  { withCmd launchCmd stacked.dev with mem := m, progs := p, launches := [g { launchOf 4 with entries := [e] }], nextLaunch := 4 }
/-- The same, a launch of the product over K elements; both operands of the first K-block hold a word. -/
def prodWorks (mark k : Nat) (w : Nat) (g : Launch → Launch) : Dev :=
  works (prodImage mark) (entryOf 1 1 k) { (bytesIn 0x10000 (leBytes 2 w)) with cells := (bytesIn 0x10000 (leBytes 2 w)).cells ++ (bytesIn 0x20000 (leBytes 2 w)).cells } g
def onTile0 (d : Dev) (f : TileSt → TileSt) : State := upWith fun _ => d.modTile 0 0 f
/-- Its operands are ready for its execution. -/
def readied (d : Dev) : State :=
  let s := run (.tileReadyMove 0 0 3 0 0) (upWith fun _ => d)
  run (.tileReadyMove 0 0 3 0 1) s
theorem test_ready_move_hyps : let s := upWith fun _ => prodWorks 1 32 0x4000 id
    (s.dev.launchOf 3).isSome = true ∧ s.dev.running = true ∧ ((s.dev.launchOf 3).bind s.dev.imageOf) = some (prodImage 1) ∧
    ((s.dev.launchOf 3).bind fun l => s.dev.fillable l (prodImage 1) 0 0) = some (0, { kernel := 0, entry := 0, head := 0, unit := 0, pos := (0, 0, 0) }) ∧
    (s.dev.tile 0 0).running = none ∧ (s.dev.tile 0 0).readyFor 3 0 0 = none ∧
    ((s.dev.launchOf 3).bind fun l => jobOf (prodImage 1) l { kernel := 0, entry := 0, head := 0, unit := 0, pos := (0, 0, 0) }).map (·.sides) = some [0, 1] ∧
    ((s.dev.launchOf 3).bind fun l => s.dev.gate l 0) = some s.dev ∧ (s.dev.launchOf 3).map (·.slips) = some [] := by decide +kernel
theorem test_ready_move : ((readied (prodWorks 1 32 0x4000 id)).dev.tile 0 0).ready.map (·.side) = [0, 1] := by decide +kernel
theorem test_ready_move_struck : let d := prodWorks 1 32 0x4000 id
    let s := upWith fun _ => { d with mem := { d.mem with poison := [0x10000 / 8] } }
    ((run (.tileReadyMove 0 0 3 0 0) s).dev.launchOf 3).map (·.phase) = some (.ending stUncorrectable) := by decide +kernel
/-- Its start, and its end: 2 times 2 is written as 4. -/
def started (d : Dev) : State := run (.tileExecutionStart 0 0 3) (readied d)
theorem test_start_hyps : ((readied (prodWorks 1 32 0x4000 id)).dev.startable 0 0 3).isSome = true ∧
    ((upWith fun _ => prodWorks 1 32 0x4000 id).dev.startable 0 0 3).isNone = true ∧
    ((started (prodWorks 1 32 0x4000 id)).dev.tile 0 0).running.map (·.launch) = some 3 := by decide +kernel
def endHyps (s : State) (im : Image) (y : Exec) : Bool :=
  match (s.dev.tile 0 0).running with
  | some r =>
    match s.dev.launchOf r.launch with
    | some l => l.mayEnd && decide (s.dev.imageOf l = some im) && decide ((s.dev.scheduleOf l)[r.ix]? = some y) && (jobOf im l y).isSome &&
        decide (im.startOf (l.policy.getD s.dev.num) (l.reference (l.policy.getD s.dev.num)) (s.dev.execHere im) (s.dev.scheduleOf l) l.done r.ix = some r.start)
    | none => false
  | none => false
def exec0 (k : Nat) : Exec := { kernel := 0, entry := 0, head := 0, unit := 0, pos := (0, 0, k) }
theorem test_end_hyps : endHyps (started (prodWorks 1 32 0x4000 id)) (prodImage 1) (exec0 0) = true ∧
    endHyps (started (prodWorks 5 32 0x7FC0 id)) (prodImage 5) (exec0 0) = true ∧
    endHyps (started (prodWorks 1 64 0x4000 id)) (prodImage 1) (exec0 0) = true := by decide +kernel
theorem test_end : (run (.tileExecutionEnd 0 0 false) (started (prodWorks 1 32 0x4000 id))).dev.mem.readNat 0x30000 4 = 0x40800000 ∧
    ((run (.tileExecutionEnd 0 0 true) (started (prodWorks 1 32 0x4000 id))).dev.tile 0 0).residueFails = 1 := by decide +kernel
/-- NaN operands at MXFP8 repeat at BF16, which ends with them. -/
theorem test_end_widens : let s := run (.tileExecutionEnd 0 0 false) (started (prodWorks 5 32 0x7FC0 id))
    (s.dev.tile 0 0).running.map (fun r => (r.rung, r.repeating)) = some (1, true) ∧
    ((run (.tileExecutionEnd 0 0 false) s).dev.launchOf 3).map (fun l => (l.done.map (·.wide), l.nanFinal)) = some ([true], true) := by decide +kernel
/-- The first of two executions of a position keeps its group open; a cancelled launch's is free. -/
theorem test_end_open : let s := started (prodWorks 1 64 0x4000 id)
    (s.dev.launchOf 3).any (fun l => s.dev.addsLater l (prodImage 1) 0 (exec0 0)) = true ∧
    ((run (.tileExecutionEnd 0 0 false) s).dev.tile 0 0).groups.length = 1 ∧
    ((run (.tileExecutionEnd 0 0 false) (s.onDev fun d => d.modLaunch 3 fun l => { l with phase := .ending stCancelled })).dev.tile 0 0).groups = [] := by
  decide +kernel
/-- A REFERENCE execution at FP32 of two segments (R218). -/
def segImage : Image := { prodImage 5 with kernels := [{ kernelOf 0 5 with tileMask := 1, wideFmt := 2, execK := 4096, shape := 9 }] }
theorem test_segments : let d := works segImage (entryOf 1 1 131072) {} fun l => { l with mode := 2 }
    ((d.launchOf 3).bind fun l => jobOf segImage l (exec0 0)).any (fun j => decide (1 < j.segs true)) = true ∧
    segImage.fmtsFrom (kernelOf 0 5) true 0 = [.bf16] := by decide +kernel
/-- A position of a chain of three members on this device: member 1 adds its partial to what member 0 sends. -/
def chainImage : Image := { prodImage 1 with
  kernels := [{ kernelOf 0 1 with chain := 0, tileMask := 7 }],
  chains := [{ scope := 0, group := 0, members := (List.range 3).map fun i => { rank := 0, kiln := 0, tile := i } }] }
def chained : Dev := works chainImage (entryOf 1 1 32) {} fun l =>
  { l with chains := [{ kernel := 0, entry := 0, head := 0, m := 0, n := 0, partials := [(0, [[0x3F800000]]), (1, [[0x40000000]])] }] }
theorem test_chain_hyps : ((chained.launchOf 3).map fun l => (l.chains.map (·.written), l.chainsRun)) = some ([false], true) ∧
    ((chained.launchOf 3).bind fun l => l.chains.head?).any (fun c => decide (c.sumAt 0 0 = some [0x3F800000] ∧ c.sumAt 1 0 = none ∧
      0 < segsOf [[0x40000000#32]])) = true := by decide +kernel
theorem test_chain : ((run (.chainSegmentArrive 3 0 0) (upWith fun _ => chained)).dev.launchOf 3).map (fun l => l.chains.map (·.sums)) =
    some [[(1, 0, [0x40400000])]] := by decide +kernel
/-- A slip-coded M side whose 64 bytes have come out of the stream, have not, or lie behind it. -/
def slipWorks (pos n : Nat) : Dev :=
  let d := prodWorks 1 32 0x4000 fun l => { l with slips := [0] }
  let st : SlipStream := { launch := 3, kernel := 0, buf := 0, unit := 0, entry := { stream := 0x40000, kind := 1, stored := 128, expanded := 64 },
                           nextDa := 0x40040, out := 64, pos := pos, ready := List.replicate n 1 }
  d.putStream 0 st
theorem test_slip_move_hyps : ((slipWorks 0 64).launchOf 3).any (fun l => ((slipWorks 0 64).slipMoves
      { l := l, im := prodImage 1, kernel := 0, k := { kernelOf 0 1 with tileMask := 1 }, buf := 0 } 0).1 == [{ ix := 0, side := 0, first := 0, len := 64 }]) = true ∧
    ((slipWorks 0 64).findStream 0 3 0 0 0).map (·.pos) = some 0 ∧ ((slipWorks 0 64).launchOf 3).bind (fun l => (slipWorks 0 64).gate l 0) = some (slipWorks 0 64) := by
  decide +kernel
theorem test_slip_move : let m (d : Dev) : Dev := (run (.tileReadyMove 0 0 3 0 0) (upWith fun _ => d)).dev
    ((m (slipWorks 0 64)).tile 0 0).ready.length = 1 ∧ ((m (slipWorks 0 63)).tile 0 0).ready = [] ∧ ((m (slipWorks 0 63)).slip 0).frStallSeen = true ∧
    ((m (slipWorks 8 0)).findStream 0 3 0 0 0).map (fun s => (s.pos, s.need)) = some (0, 64) := by decide +kernel

/-- Attention of one query over one key of context 3, on pipeline 0 of kiln 0, in a mode. -/
def attnPattern : List Byte := leBytes 2 1 ++ List.replicate 38 0 ++ leBytes 2 1 ++ [1, 1] ++ List.replicate 20 0
def attnImage (mark : Nat) : Image :=
  let bufs := [bufAt .bf16 3 0x10000 [64, 1, 1, 1] [128, 128, 0], bufAt .bf16 3 0x20000 [64, 1, 1, 1] [128, 128, 0],
    bufAt .fp32 3 0x30000 [64, 1, 1, 1] [256, 256, 0]]
  { prodImage 1 with kernels := [{ kernelOf 1 mark with bufB := noIx, shape := 0 }], patterns := [attnPattern], bufs := bufs }
def attnWorks (mark mode w : Nat) : Dev :=
  let d := works (attnImage mark) { entryOf 1 1 1 with ctx := 3, reads := true } (bytesIn 0x10000 (leBytes 2 w)) fun l => { l with mode := mode }
  { d.modKiln 0 fun x => { x with pipesFormed := 1 } with cx := held.cx, tier := stackedTier.tier }
def attnHyps (d : Dev) (im : Image) : Bool :=
  match d.mayRun 3 (.pipe 0 0) with
  | some (l, x) =>
    decide (x = im) && d.pipeFree l 0 0 &&
    (match d.pipeTake l im 0 0, d.gate l 0 with
     | some (n, y, j, _, _), some _ =>
       decide (d.mem.struckIn (d.attnReads j ((j.runs.getD y.pos.2.1 [[]]).getD y.pos.2.2 [])) = none) &&
       decide (im.startOf (l.policy.getD d.num) (l.reference (l.policy.getD d.num)) (d.execHere im) (d.scheduleOf l) l.done n = some 0)
     | _, _ => false)
  | none => false
/-- In REFERENCE mode one form; at an FP8 mark two, and a NaN query makes the first run's detector fire whatever its other sums are. -/
theorem test_pipe_hyps : attnHyps (attnWorks 1 2 0x4000) (attnImage 1) = true ∧ attnHyps (attnWorks 5 1 0x7FC0) (attnImage 5) = true ∧
    ((attnImage 1).formsFrom (kernelOf 1 1) false true 0).length = 1 ∧ ((attnImage 5).formsFrom (kernelOf 1 5) false false 0).length = 2 := by
  decide +kernel
theorem detectors_nan (pol : NumPolicy) (a b c : Nat) : detectors pol a b c true ≠ 0 := by simp [detectors, b2n]
/-- The quantiser of an attention job's queries at a format, no range method applied. -/
def queryQuant (j : AttnJob) (pol : NumPolicy) (f : BFmt) : QuantCtx := { pol := pol, run := f, outlier := j.k.range == 2, rotate := j.k.range == 1, seed := j.k.rotSeed, group := rotGroup j.hd, k0 := 0, nkb := j.hd / 32, kExt := j.hd }
theorem attnRun_query_nan (d : Dev) (j : AttnJob) (pol : NumPolicy) (f : BFmt) (p : Bool) (vs : List Visit) (rows : List AttnRow)
    (h : (prepOperand (queryQuant j pol f) 128 128 (j.hd / 32) (d.queryOp j).1).nanInf = true) :
    (d.attnRun j pol false f p vs rows).nanInf = true := by
  simp only [Bool.and_true, Dev.attnRun, Bool.not_false, Bool.or_eq_true]
  exact .inr h
theorem test_pipe_nan : let d := attnWorks 5 1 0x7FC0
    ((d.launchOf 3).bind fun l => d.attnJobOf l (attnImage 5) (exec0 0)).any (fun j =>
      (prepOperand (queryQuant j d.num .mxfp8e4m3) 128 128 (j.hd / 32) (d.queryOp j).1).nanInf) = true := by decide +kernel
theorem test_pipe_struck : let d := attnWorks 1 2 0x4000
    ((run (.pipelineExecutionEnd 0 0 3 false) (upWith fun _ => { d with mem := { d.mem with poison := [0x10000 / 8] } })).dev.launchOf 3).map (·.phase) =
      some (.ending stUncorrectable) := by decide +kernel
/-- A vector kernel's one execution: ABS of row 0's first element. -/
def vecWorks : Dev := { launched 4 with mem := bytesIn 0x10000 (leBytes 4 0xC0000000) }
theorem test_vec_hyps : (vecWorks.mayRun 3 (.vec 0 0)).isSome = true ∧ ((vecWorks.launchOf 3).map fun l => (vecWorks.workAt l vecImage (.vec 0 0)).map (·.1)) = some [0] ∧
    ((vecWorks.launchOf 3).bind fun l => vecWorks.gate l 0) = some vecWorks ∧ (vecWorks.kilns.get 0).halted = false := by decide +kernel
theorem test_vec : (run (.vectorExecutionEnd 0 0 3 0 0) (upWith fun _ => vecWorks)).dev.mem.readNat 0x20000 4 = 0x40000000 ∧
    (run (.vectorExecutionEnd 0 0 3 0 1) (upWith fun _ => vecWorks)).dev.repair.ue.valid = true ∧
    ((run (.vectorExecutionEnd 0 0 3 0 2) (upWith fun _ => vecWorks)).dev.launchOf 3).map (·.phase) = some (.ending stUncorrectable) ∧
    ((run (.vectorExecutionEnd 0 0 3 0 0) (upWith fun _ => { vecWorks with mem := { vecWorks.mem with poison := [0x10000 / 8] } })).dev.launchOf 3).map (·.phase) =
      some (.ending stUncorrectable) := by decide +kernel
/-- A pixel kernel of one channel over one position, 3 times 2. -/
def pixelRecord : List Byte :=
  [1, 1, 0, 2] ++ leBytes 2 1 ++ leBytes 2 1 ++ leBytes 2 1 ++ List.replicate 9 1 ++ List.replicate 6 0 ++ [1, 1, 0] ++ leBytes 4 4 ++ List.replicate 96 0
def pixelImage : Image :=
  let bufs := [bufAt .fp32 4 0x10000 [1, 1, 1, 1] [64, 64, 64], bufAt .fp32 4 0x20000 [1, 1, 1, 1] [64, 64, 64],
    bufAt .fp32 4 0x30000 [1, 1, 1, 1] [64, 64, 64]]
  { prodImage 1 with kernels := [{ kernelOf 3 0 with kilnMask := 0 }], pixels := [pixelRecord], bufs := bufs }
def pixelWorks : Dev :=
  let d := works pixelImage (entryOf 1 1 1) { cells := (bytesIn 0x10000 (leBytes 4 0x40400000)).cells ++ (bytesIn 0x20000 (leBytes 4 0x40000000)).cells } id
  d.modWheel 0 fun w => { w with engine := { ok := true }, ready := true }
theorem test_pixel_hyps : (parsePixel pixelRecord).isSome = true ∧ (pixelWorks.mayRun 3 (.engine 0)).isSome = true ∧
    ((pixelWorks.launchOf 3).map fun l => (pixelWorks.workAt l pixelImage (.engine 0)).map (·.1)) = some [0] ∧ (pixelWorks.wheel 0).engine.ok = true ∧
    ((pixelWorks.launchOf 3).bind fun l => pixelWorks.gate l 0) = some pixelWorks := by decide +kernel
theorem test_pixel : (run (.pixelExecutionEnd 0 3 0 false) (upWith fun _ => pixelWorks)).dev.mem.readNat 0x30000 4 = 0x40C00000 ∧
    ((run (.pixelExecutionEnd 0 3 0 true) (upWith fun _ => pixelWorks)).dev.wheel 0).residueSeen = true ∧
    ((run (.pixelExecutionEnd 0 3 0 false) (upWith fun _ => { pixelWorks with mem := { pixelWorks.mem with poison := [0x10000 / 8] } })).dev.launchOf 3).map (·.phase) =
      some (.ending stUncorrectable) := by decide +kernel

-- Repair in service (ScrubbingRepairsAndRecords, CoresAndElementsFail)

def repairing (f : RepairPart → RepairPart) (d : Dev) : State := upWith fun _ => { d with repair := f d.repair }
/-- Issuers of a mesh transfer. -/
theorem test_mesh_hyps : ((upWith fun _ => launched 4).dev.launchOf 3).map (·.phase == .ended) = some false ∧
    ((upWith fun _ => { launched 4 with launches := [{ launchOf 4 with phase := .ended }] }).dev.launchOf 3).map (·.phase) = some .ended ∧
    ((waits (fillPack) stacked.dev).dev.tagHolder 1).map (·.phase) = some .waiting ∧
    ((upWith fun _ => launched 4).dev.tagHolder 2).map (fun c => (c.phase, c.pkt.opcode)) = some (.running, 0x12#8) ∧
    ((up.onDev fun _ => withCmd { cmdOf fillPack with phase := .done } stacked.dev).dev.tagHolder 1).map (·.phase) = some .done ∧
    (waits (fillPack) stacked.dev).dev.media.jobs = [] ∧
    ((working true 64).dev.mediaJob 8).map (·.owner) = some (.cmd 0) ∧ ((working true 64).dev.cmd 0).map (·.phase) = some .running := by decide +kernel
theorem test_mesh : (run (.meshRetryExhausted .atomic) up).dev.repair.ue.where_ = 9#4 := by decide +kernel

/-- A word that the scrubber reads. -/
def scrubRead (w unit loc : Nat) (up : BitVec 80) : ScrubRead := { where_ := w, unit := unit, location := loc, upset := up, row := 9, col := 5 }
def scrubHyps (s : State) (r : ScrubRead) : Nat × Bool × Bool × Bool :=
  (popcount 80 r.upset.toNat, s.dev.running && s.dev.scrubs r.where_, decide (r.where_ ≤ 4) && s.dev.whereOf r.location == r.where_ && s.dev.daOk r.location 1,
   s.dev.repair.corrected.contains (r.where_, r.unit, r.location))
def bufferRow : ScrubRead := scrubRead 7 16 0 1
def sramRow (n : Nat) : SpareUse := { rep := { kind := 5, unit := 16, element := 3, detail := n * 2 ^ 24 } }
theorem test_scrub_hyps : scrubHyps stacked (scrubRead 1 0 0x1000 1) = (1, true, true, false) ∧ scrubHyps stacked (scrubRead 1 0 0x1000 7) = (3, true, true, false) ∧
    scrubHyps stacked (scrubRead 1 0 0x1000 15) = (4, true, true, false) ∧ scrubHyps stacked (scrubRead 1 0 0x1000 0) = (0, true, true, false) ∧
    scrubHyps (run (.scrubTick bufferRow) stacked) bufferRow = (1, true, false, true) ∧ State.reset.dev.running = false := by decide +kernel
theorem test_scrub_spares : stacked.dev.sparesUsed { kind := 5, unit := 16, element := 3, detail := 9 } = 0 ∧
    ({ kind := 5, unit := 16, element := 3, detail := 9 } : Repair).poolSize = 32 ∧
    (repairing (fun r => { r with spares := (List.range 32).map sramRow }) stacked.dev).dev.sparesUsed { kind := 5, unit := 16, element := 3, detail := 9 } = 32 := by
  decide +kernel
theorem test_scrub_repairs : let s := run (.scrubTick bufferRow) (run (.scrubTick bufferRow) stacked)
    s.dev.repair.spares.map (·.rep) = [{ kind := 5, unit := 16, element := 3, detail := 9 }] ∧ s.dev.repair.corrected = [] := by decide +kernel
/-- A lane, and the third of its group. -/
theorem test_lane_hyps : stacked.dev.running = true ∧ stacked.dev.stackOk 1 = true ∧ State.reset.dev.running = false := by decide +kernel
theorem test_lane : let l (s : State) : State := run (.laneRepair 1 4 2 64) s
    (l stacked).dev.repair.spareOutSeen = false ∧ (l (l (l stacked))).dev.repair.spareOutSeen = true ∧ run (.laneRepair 1 4 2 63) stacked = stacked := by decide +kernel

def rowRepair (n : Nat) : Repair := { kind := 5, unit := 16, element := 3, detail := n }
def ledgered (area : List LedgerRec) : State := (repairing (fun r => { r with unwritten := [rowRepair 1] }) stacked.dev).onDev fun d =>
  d.modFlash fun f => { f with ledger := f.ledger.set 0 area }
def snapRec : LedgerRec := { version := 1, rep := { kind := 1, unit := 0, element := 0, detail := 0 }, start := 0, time := 0 }
theorem test_ledger_hyps : (ledgered []).dev.ready = true ∧ (ledgered []).dev.repair.unwritten = [rowRepair 1] ∧ (ledgered []).dev.repair.standing = [] ∧
    (ledgered [snapRec]).dev.start.flash.ledger.get 0 = [snapRec] ∧ (ledgered [snapRec]).dev.repair.activeArea = 0 ∧ stacked.dev.repair.unwritten = [] := by decide +kernel
theorem test_ledger : ((run .ledgerRecordWrite (ledgered [])).dev.start.flash.ledger.get 1).map (fun x => (x.version, x.rep.kind)) = [(1, 1), (2, 5)] ∧
    ((run .ledgerRecordWrite (ledgered [snapRec])).dev.start.flash.ledger.get 0).map (·.version) = [1, 1] := by decide +kernel
def ledgerFull : State := (ledgered []).onDev fun d => { d with repair := { d.repair with standing := List.replicate 60000 { snapRec with rep := rowRepair 2 } } }
theorem test_full_hyps : ledgerFull.dev.ready = true ∧ ledgerFull.dev.repair.unwritten = [rowRepair 1] ∧ (rowRepair 1).undoes = false ∧
    (¬ ∃ x ∈ ledgerFull.dev.repair.standing, x.rep.place = (rowRepair 1).place) ∧ 60000 ≤ ledgerFull.dev.repair.standing.length := by
  refine ⟨by decide +kernel, by decide +kernel, by decide +kernel, ?_, ?_⟩
  · rintro ⟨x, hx, h⟩
    have hx' : x ∈ List.replicate 60000 ({ snapRec with rep := rowRepair 2 } : LedgerRec) := hx
    obtain ⟨-, rfl⟩ := List.mem_replicate.mp hx'
    exact absurd h (by decide)
  · exact Nat.le_of_eq (List.length_replicate (n := 60000) (a := ({ snapRec with rep := rowRepair 2 } : LedgerRec))).symm

/-- Cores, with and without a spare; a command of core 1 waits. -/
def cored (spare : Bool) (stopped : List Nat) (core : Nat) : State := upWith fun _ =>
  let d := withCmd { cmdOf fillPack with core := core } stacked.dev
  { d with repair := { d.repair with lamps := Vector.ofFn fun i : Fin 9 => { ok := i.val ≠ 8 ∧ i.val ∉ stopped, spare := decide (i.val = 8) && spare } } }
def coreHyps (s : State) (c : Fin 9) : Bool × Bool × Bool × Nat :=
  ((s.dev.repair.lamps.get c).ok, (s.dev.repair.lamps.get c).spare, (s.dev.repair.lamps.get 8).spare && s.dev.repair.takeover.isNone, s.dev.lampsLeft)
theorem test_core_hyps : coreHyps (cored true [] 1) 1 = (true, false, true, 8) ∧ coreHyps (cored false [] 1) 1 = (true, false, false, 8) ∧
    coreHyps (cored false [2, 3, 4, 5] 1) 1 = (true, false, false, 4) ∧ coreHyps (cored false [1] 1) 1 = (false, false, false, 7) ∧
    ((cored false [] 1).dev.link.cmds.map (fun x => (x.core, x.phase, x.pkt.opcode == 0x81#8))) = [(1, .waiting, false)] ∧
    ((cored false [] 0).dev.link.cmds.all (·.core != 1)) = true := by decide +kernel
theorem test_core : ((run (.lamplighterWatchdog 1) (cored false [] 1)).dev.cmd 0).map (·.reply.status) = some stUncorrectable ∧
    (run (.lamplighterWatchdog 1) (cored true [] 1)).dev.repair.takeover = some 1 := by decide +kernel
def takesOver : State := run (.lamplighterWatchdog 1) (cored true [] 0)
theorem test_takeover_hyps : takesOver.dev.repair.takeover = some 1 ∧ takesOver.dev.link.cmds.all (·.core != 1) = true ∧
    up.dev.repair.takeover = none := by decide +kernel

/-- Elements. -/
def channeled : State := upWith fun d => { d with tier := { d.tier with chOk := 0xFFF } }
theorem test_element_hyps : State.reset.dev.ready = false ∧ up.dev.ready = true ∧ ((stacked.dev.kiln 0).phys.get 0).out = false ∧
    (stacked.dev.tile 0 4).phys = 0 ∧ (stacked.dev.tile 0 4).unbound = false ∧ (linked.dev.port 5).trained = true ∧ (up.dev.port 5).trained = false ∧
    (linked.dev.port 5).lanes.getLsbD 2 = true ∧ (0, 3) ∉ up.dev.fabric.engineOut ∧ channeled.dev.tier.chOk.getLsbD 3 = true ∧ up.dev.media.jobs = [] ∧
    stacked.dev.sparesUsed { kind := 8, unit := 1, element := 3, detail := 4 } = 0 := by decide +kernel
/-- A port alone on its engine, with a spare engine and without. -/
def enginePort (spent : Bool) : State := linkFab fun f =>
  { f with ports := (f.ports.set 6 {}).set 5 { linkPort with engine := 5 },
           engineOut := if spent then (List.range 34).filterMap fun e => if e = 5 then none else some (0, e) else [] }
theorem test_engine_hyps : (∀ x ∈ [enginePort false, enginePort true], portLantern 5 = 0 ∧ (x.dev.port 5).engine = 5 ∧ (x.dev.port 5).trained = true ∧ (0, 5) ∉ x.dev.fabric.engineOut ∧
      ((List.finRange 128).filter fun q => portLantern q == 0 && (x.dev.port q).engine == 5) = [5]) ∧
    ((enginePort false).dev.spareEngine 0).isSome = true ∧ (enginePort true).dev.spareEngine 0 = none := by decide +kernel
def codecJob : Option MediaJob := (working true 64).dev.media.jobs.find? fun j =>
  j.started && j.cores.contains 0 && ((working true 64).dev.session j.session).any fun x => x.desc.wheel == (0 : Fin 2)
theorem test_codec_fails_hyps : codecJob.isSome = true ∧ (working true 64).dev.ready = true := by decide +kernel
theorem test_tile_fails : let s := run (.elementFailure (.tile 0 0)) stacked
    ((s.dev.kiln 0).phys.get 0).out = true ∧ (s.dev.tile 0 4).unbound = true := by decide +kernel
theorem test_channel_fails : (run (.elementFailure (.ddrChannel 3)) channeled).dev.mem.dead = [3] ∧
    (run (.elementFailure .timeUnit) up).dev.start.state = 2 := by decide +kernel

-- Start and reset (StartStepsRunInOrder, ResetsLeaveWhatTheyKeep)

/-- A device in a step of a start, after starts before it in which the step failed. -/
def starting (n fails selfs : Nat) : State := State.reset.onDev fun d =>
  let log := (List.range fails).map fun k => ({ start := k + 1, step := n, outcome := 3, time := 0 } : Sherd)
  let st : StartPart := { d.start with started := true, step := n, startNo := fails + 1, selfStarts := selfs, flash := { d.start.flash with sherds := log } }
  { d with pins := { d.pins with perstN := true }, start := st }
def stepIs (s : State) : Bool × Bool × Nat × StepPolicy :=
  let st := s.dev.start
  (st.started && st.state == 0#3 && !st.selfStartDue, s.dev.methodOf st.step == .skip, st.step, policyAt st.step (st.flash.failures st.step st.startNo + 1))
def recovering (n : Nat) : State := (starting n 0 0).onDev (Dev.modStart fun x => { x with recovery := true })
theorem test_step_hyps : stepIs (starting 5 0 0) = (true, false, 5, .retry) ∧ stepIs (starting 5 2 0) = (true, true, 5, .skip) ∧
    stepIs (starting 24 0 0) = (true, false, 24, .hold) ∧ stepIs (starting 7 0 0) = (true, false, 7, .wait) ∧ stepIs (starting 5 0 8) = (true, false, 5, .retry) ∧
    stepIs (recovering 8) = (true, false, 8, .retry) ∧ stepIs (recovering 3) = (true, false, 3, .retry) ∧ up.dev.start.state = 1#3 := by decide +kernel
theorem test_step_holds_hyps : (starting 8 0 0).dev.mustHold 8 .primary { diesFailed := [hubDie] } = true ∧
    (starting 5 0 0).dev.mustHold 5 .primary {} = false ∧ (starting 5 2 0).dev.mustHold 5 .skip {} = false ∧
    (starting 5 0 0).dev.start.selfStarts < 8 ∧ 8 ≤ (starting 5 0 8).dev.start.selfStarts := by decide +kernel
/-- R475, R476: the next step; a step that fails; S24; S08 of a start in recovery. -/
theorem test_step : (run (.startStepComplete true {}) (starting 5 0 0)).dev.start.step = 6 ∧
    (run (.startStepComplete false {}) (starting 5 0 0)).dev.start.selfStartDue = true ∧
    (run (.startStepComplete true {}) (starting 24 0 0)).dev.start.state = 1 ∧ (run (.startStepComplete true {}) (recovering 8)).dev.start.state = 3 ∧
    (run (.startStepComplete true {}) (recovering 3)).dev.start.step = 5 := by decide +kernel
def coolant : State := (starting 7 0 0).onDev (Dev.modStart fun x => { x with state := 4 })
theorem test_coolant_hyps : coolant.dev.start.state = 4#3 ∧ coolant.dev.start.step = 7 ∧ coolant.dev.start.recovery = false ∧ up.dev.start.state ≠ 4#3 := by decide +kernel
theorem test_coolant : ((run (.coolantRecheck 100 30) coolant).dev.start.step, (run (.coolantRecheck 101 30) coolant).dev.start.step,
    (run (.coolantRecheck 100 29) coolant).dev.start.step) = (8, 7, 7) := by decide +kernel
/-- R239: two channels of one DIMM each train at the highest speed both support. -/
def dimm : Dimm := { mrdimm := false, ranks := 2, gib := 64, speeds := [1, 3] }
def crockFound : CrockFound := { dimms := (Vector.replicate 12 []).set 0 [dimm] |>.set 3 [{ dimm with speeds := [1, 3, 4] }], failed := 8 }
theorem test_crock_hyps : crockFound.ladder = [3, 1] ∧ crockFound.served = [0, 3] ∧ up.dev.start.diesOut.contains crockDie = false := by decide +kernel
theorem test_crock : (up.dev.stepEffect 14 .primary { crock := crockFound }).tier.chOk = 1 := by decide +kernel
def trainingPort : State := (linkFab fun f => { f with ports := f.ports.set 5 { linkPort with state := psTraining } }).onDev (Dev.modStart fun x => { x with identityOk := true })
theorem test_port_auth_hyps : (trainingPort.dev.port 5).state = psTraining ∧ trainingPort.dev.start.identityOk = true := by decide +kernel

/-- The pins, and a device that is to start itself. -/
def inRange (low : Bool) : State := State.reset.onDev (Dev.modPins fun p => { p with input := true, thermTripN := true, perstN := !low })
theorem test_perst_hyps : (inRange true).dev.pins.perstN = false ∧ (inRange true).dev.pins.input = true ∧ (inRange true).dev.pins.thermTripN = true ∧
    (inRange false).dev.pins.perstN = true ∧ State.reset.dev.pins.perstN = false ∧ (State.reset.onDev (Dev.modPins fun p => { p with input := false })).dev.pins.input = false ∧ State.reset.dev.start.selfStartDue = false ∧
    (run (.startStepComplete false {}) (starting 5 0 0)).dev.start.selfStartDue = true := by decide +kernel
theorem test_perst : (run (.perstNRelease 2) (inRange true)).dev.start.step = 1 ∧ (run (.perstNAssert 0) up).dev.start.step = 24 ∧
    (run (.perstNAssert 1) up).dev.start.step = 0 := by decide +kernel
theorem test_self_start : let s := run .selfStart (run (.startStepComplete false {}) (starting 5 0 0))
    (s.dev.start.step, s.dev.start.selfStarts, s.dev.start.startNo) = (1, 1, 2) := by decide +kernel
/-- States that a Function Level Reset finds. -/
def resetIn (power : BitVec 2) : State := upWith fun _ => { launched 4 with power := { (launched 4).power with state := power } }
theorem test_flr_hyps : (∀ p ∈ [0#2, 1#2, 2#2, 3#2], (resetIn p).dev.pins.perstN = true ∧ (resetIn p).dev.ready = true ∧ (resetIn p).dev.power.state = p) ∧
    State.reset.dev.pins.perstN = false ∧ up.dev.launches = [] ∧ up.dev.commitSlot = none ∧ up.dev.fabric.state = 0 ∧
    (member 2 [0, 1]).fabric.state = 2 := by decide +kernel
theorem test_flr : (run .functionLevelReset (resetIn 0)).dev.link.cmds = [] ∧ (run .linkDown (upWith fun _ => member 2 [0, 1])).dev.fabric.state = 3 ∧
    (run .functionLevelReset (resetIn 2)).dev.power.state = 3 := by decide +kernel

-- Time, rings, the saggar code (TimePassesOnAnEmptyQueue, EveryStepKeepsTheRings, the codewords)

theorem test_tick_empty_hyps : up.pending = [] ∧ up.dev.timeRuns = true ∧ up.dev.time.slew = 0 ∧ 0 < up.dev.time.den ∧ State.reset.pending = [] ∧
    State.reset.dev.timeRuns = false ∧ State.reset.dev.dieUp 3 = false ∧ (starting 9 0 0).dev.dieUp 3 = true := by decide +kernel
theorem test_tick_empty : (left (step up) up).dev.nowUs = up.dev.nowUs + 1 ∧ ((left (step (starting 9 0 0)) up).dev.ctrs.blocks.get 3).cycle = 3300 := by decide +kernel
theorem test_rings_hyps : ({ ringed with pending := [.functionLevelReset] } : State).RingsOk := by
  unfold State.RingsOk
  decide +kernel
/-- R500: the codeword of 1, and a word a bit from it. -/
theorem test_saggar : saggarDecode (saggarEncode 1) = .clean 1 ∧ saggarDecode (flipBits [3] (saggarEncode 1)) = .corrected 1 [3] := by decide +kernel
theorem test_saggar_hyps : (5 : Nat) < 2 ^ 64 ∧ (6 : Nat) < 2 ^ 64 ∧ (5 : Nat) ≠ 6 ∧ [79, 3].Nodup ∧ (∀ i ∈ [79, 3], i < 80) := by decide

-- WellFormed: an ill-formed term for each check, which it refuses

theorem test_ill_formed : ([.registerWrite .eventEnable .lower 0, .reg64LowerHalfWrite .eventEnable 0, .reg64LowHalfRead .eventEnable,
    .bar2Read 0 0 [], .bar2Write 0 [], .atomic { atomicAdd .lineFadd 0x1000 with line := [0#32] }] : List Instr).map Instr.wellFormed =
    [false, false, false, false, false, false] := by decide +kernel
theorem test_well_formed : ([.registerWrite .pwrCap .lower 0, .registerWrite .eventEnable .whole 0, .reg64LowerHalfWrite .pwrCap 0,
    .reg64LowHalfRead .timeNow, .bar2Read 0 1 [], .bar2Write 0 [1], .atomic { atomicAdd .lineFadd 0x1000 with line := List.replicate 16 0 }] :
    List Instr).map Instr.wellFormed = [true, true, true, true, true, true, true] := by decide +kernel

end Sys2Proof.Tests
end

section
/-! Register writes: what a write of a whole register does, register by register (R2, R3, R102, R388, R415). -/
namespace Sys2Proof.Machine

-- Masks

/-- A number masked by n bits from bit k up is zero just when it lies below bit k, where it has no bit above the mask. -/
theorem and_highMask_eq_zero_iff {v k n : Nat} (hv : v < 2 ^ (k + n)) : v &&& (2 ^ n - 1) <<< k = 0 ↔ v < 2 ^ k := by
  have hshift : v &&& (2 ^ n - 1) <<< k = ((v >>> k) &&& (2 ^ n - 1)) <<< k := by
    apply Nat.eq_of_testBit_eq
    intro i
    by_cases hi : k ≤ i <;> simp [hi, Bool.and_comm]
  have hq : v / 2 ^ k < 2 ^ n := Nat.div_lt_of_lt_mul (by rwa [← Nat.pow_add])
  rw [hshift, Nat.and_two_pow_sub_one_eq_mod, Nat.shiftRight_eq_div_pow, Nat.mod_eq_of_lt hq, Nat.shiftLeft_eq]
  have hpow : 2 ^ k ≠ 0 := Nat.ne_of_gt (Nat.two_pow_pos k)
  simp only [Nat.mul_eq_zero, Nat.div_eq_zero_iff, hpow, false_or, or_false]

/-- A word's reserved bits are clear just when those of its number are. -/
theorem word_and_eq_zero_iff {v : Nat} (m : Word) (hv : v < 2 ^ 32) : BitVec.ofNat 32 v &&& m = 0#32 ↔ v &&& m.toNat = 0 := by
  rw [← BitVec.toNat_inj, BitVec.toNat_and, BitVec.toNat_ofNat, Nat.mod_eq_of_lt hv]
  rfl

-- Reserved bits in the registers that have an operation of their own (R3)

theorem State.ringBase_reserved (isCq : Bool) (n : Fin 64) (v : Nat) (s : State) (ho : s.dev.ringsOpen = true) (hv : v &&& 0xFFF ≠ 0) :
    s.ringBase isCq n (BitVec.ofNat 64 v) = s.onDev Dev.protoError := by
  have hmod : (BitVec.ofNat 64 v).toNat % 4096 = v &&& 0xFFF := by
    rw [BitVec.toNat_ofNat, Nat.mod_mod_of_dvd v (by decide : 4096 ∣ 2 ^ 64), ← Nat.and_two_pow_sub_one_eq_mod v 12]
  rw [State.ringBase, if_neg (by simp [ho]), if_pos (hmod ▸ hv)]

theorem State.sqWrite_reserved (n : Fin 64) (v : Word) (s : State) (ho : s.dev.ringsOpen = true) (hv : v &&& sqRsv ≠ 0#32) :
    s.sqWrite n v = s.onDev Dev.protoError := by simp [State.sqWrite, ho, hv]

theorem State.cqWrite_reserved (n : Fin 64) (v : Word) (s : State) (ho : s.dev.ringsOpen = true) (hv : v &&& cqRsv ≠ 0#32) :
    s.cqWrite n v = s.onDev Dev.protoError := by simp [State.cqWrite, ho, hv]

theorem Dev.shmemWrite_reserved (k : Fin 12) (v : Word) (d : Dev) (hr : d.ready = true) (hp : d.power.state = 0#2)
    (hv : v &&& 0xFFFF80E0#32 ≠ 0#32) : Dev.shmemWrite k v d = d.protoError := by
  rw [Dev.shmemWrite, Dev.dieWrite_up _ d hr hp, if_pos hv]

theorem Dev.saccWrite_reserved (k : Fin 12) (v : Word) (d : Dev) (hr : d.ready = true) (hp : d.power.state = 0#2)
    (hv : v &&& 0xFE008080#32 ≠ 0#32) : Dev.saccWrite k v d = d.protoError := by
  rw [Dev.saccWrite, Dev.dieWrite_up _ d hr hp, if_pos hv]

/-- R102: outside debug mode the selection stays. -/
theorem Dev.saccWrite_no_debug (k : Fin 12) (v : Word) (d : Dev) (hr : d.ready = true) (hp : d.power.state = 0#2)
    (hv : v &&& 0xFE008080#32 = 0#32) (hd : d.ctrs.debugMode = false) : Dev.saccWrite k v d = d := by
  have hoff : (!d.ctrs.debugMode) = true := by rw [hd]; rfl
  rw [Dev.saccWrite, Dev.dieWrite_up _ d hr hp, if_neg (fun hn => hn hv), if_pos hoff]

theorem Dev.timeCfg_reserved (v : Word) (d : Dev) (hr : d.ready = true) (hv : v &&& 0x000000F0#32 ≠ 0#32) :
    d.timeCfg v = d.protoError := by simp [Dev.timeCfg, hr, hv]

theorem Dev.timeRate_reserved (v : Word) (d : Dev) (hr : d.ready = true) (hv : v &&& 0xFC000000#32 ≠ 0#32) :
    d.timeRate v = d.protoError := by simp [Dev.timeRate, hr, hv]

theorem Dev.ueWrite_reserved (v : Nat) (d : Dev) (hr : d.ready = true) (hv : v &&& 2 ^ 62 ≠ 0) : Dev.ueWrite v d = d.protoError := by
  have hbit : bit v 62 = true := by
    obtain ⟨i, hi⟩ := Nat.exists_testBit_of_ne_zero hv
    rw [Nat.testBit_and, Nat.testBit_two_pow, Bool.and_eq_true, decide_eq_true_iff] at hi
    obtain ⟨hvi, rfl⟩ := hi
    exact hvi
  rw [Dev.ueWrite, Dev.hubWrite_ready _ d hr, if_pos hbit]

/-- A block's register is written on a device that is ready and whose dies are up. -/
theorem Dev.blockWrite_up (b : DieIx) (f : Dev → Dev) (d : Dev) (hr : d.ready = true) (hp : d.power.state = 0#2) :
    d.blockWrite b f = f d := by
  rw [Dev.blockWrite, Dev.hubWrite_ready f d hr, Dev.dieWrite_up f d hr hp, ite_self]

theorem selOk_reserved (k : DieKind) {v : Nat} (hv : v < 2 ^ 32) (h : v &&& 0xFFC00000 ≠ 0) : selOk k (BitVec.ofNat 32 v) = false := by
  have hlow : ¬ v < 2 ^ 22 := fun hlt => h ((and_highMask_eq_zero_iff (k := 22) (n := 10) hv).mpr hlt)
  have hfield : field v 31 22 ≠ 0 := by
    rw [field, Nat.shiftRight_eq_div_pow]
    omega
  have hval : (BitVec.ofNat 32 v).toNat = v := Nat.mod_eq_of_lt hv
  simp only [selOk, hval, beq_false_of_ne hfield, Bool.false_and]

theorem Dev.selWrite_reserved (b : DieIx) (i : Fin 8) {v : Nat} (d : Dev) (hr : d.ready = true) (hp : d.power.state = 0#2)
    (hv : v < 2 ^ 32) (h : v &&& 0xFFC00000 ≠ 0) : Dev.selWrite b i (BitVec.ofNat 32 v) d = d.protoError := by
  rw [Dev.selWrite, Dev.blockWrite_up b _ d hr hp, selOk_reserved _ hv h]
  rfl

-- A write of a whole register

/-- Only what a change does to the device at hand counts. -/
theorem State.onDev_congr (s : State) {f g : Dev → Dev} (h : f s.dev = g s.dev) : s.onDev f = s.onDev g := by
  rw [State.onDev, State.onDev, h]

/-- The registers whose writes have an operation of their own; Dev.regSet serves the others. -/
def Reg.ownWrite : Reg → Bool
  | .sqBase _ | .cqBase _ | .sqCfg _ | .cqCfg _ | .sqDoorbell _ | .cqDoorbell _ | .msixControl | .shmemPart _ | .saccSel _
  | .timeCfg | .timeRate | .ueLog | .ctrSel _ _ => true
  | _ => false

theorem exec_registerWrite (r : Reg) (p : Part) (v : Long) (s : State) :
    exec (.registerWrite r p v) s = execRegisterWrite r p v s := rfl

/-- A value that fits the register is written as it is. -/
theorem exec_registerWrite_whole (r : Reg) (v : Long) (s : State) (hv : r.is64 = true ∨ v.toNat < 2 ^ 32) :
    exec (.registerWrite r .whole v) s = .next (s.regWrite r v.toNat) := by
  have hval : (if r.is64 then v.toNat else v.toNat % 2 ^ 32) = v.toNat := by
    rcases hv with h64 | hlt
    · rw [if_pos h64]
    · rw [Nat.mod_eq_of_lt hlt, ite_self]
  simp only [exec_registerWrite, execRegisterWrite, hval]

section
variable {s : State} (hr : s.dev.ready = true) (hp : s.dev.power.state = 0#2)
include hr hp

/-- Where the device is ready and its dies are up, a register without an operation of its own takes the write unless a reserved bit is
set. -/
theorem State.regWrite_of_not_own {r : Reg} (v : Nat) (hown : r.ownWrite = false) :
    s.regWrite r v = s.onDev fun d => if v &&& r.rsv ≠ 0 then d.protoError else d.regSet v r := by
  have hgo : s.regWrite r v = s.onDev
      ((if r.onHub then Dev.hubWrite else Dev.dieWrite) fun d => if v &&& r.rsv ≠ 0 then d.protoError else d.regSet v r) := by
    unfold State.regWrite
    split
    case h_14 => cases r.onHub <;> rfl
    all_goals cases hown
  rw [hgo]
  apply State.onDev_congr
  split
  · exact Dev.hubWrite_ready _ _ hr
  · exact Dev.dieWrite_up _ _ hr hp

/-- R3, R415: a write with a reserved bit set is discarded whole and counts one register-protocol error. -/
theorem State.regWrite_reserved {r : Reg} {v : Nat} (hv : r.is64 = true ∨ v < 2 ^ 32) (h : v &&& r.rsv ≠ 0) :
    s.regWrite r v = s.onDev Dev.protoError := by
  have ho : s.dev.ringsOpen = true := by simp [Dev.ringsOpen, hr]
  have hw (m : Word) (h4 : r.is64 = false) (hm : r.rsv = m.toNat) : BitVec.ofNat 32 v &&& m ≠ 0#32 := by
    rw [hm] at h
    have hlt : v < 2 ^ 32 := hv.resolve_left (by rw [h4]; exact Bool.false_ne_true)
    exact fun hm => h ((word_and_eq_zero_iff m hlt).mp hm)
  cases hown : r.ownWrite with
  | false => simp only [State.regWrite_of_not_own hr hp v hown, if_pos h]
  | true =>
    cases r with
    | sqBase n => exact s.ringBase_reserved false n v ho h
    | cqBase n => exact s.ringBase_reserved true n v ho h
    | sqCfg n => exact s.sqWrite_reserved n _ ho (hw sqRsv rfl rfl)
    | cqCfg n => exact s.cqWrite_reserved n _ ho (hw cqRsv rfl rfl)
    | sqDoorbell | cqDoorbell | msixControl => exact absurd (Nat.and_zero v) h
    | shmemPart k => exact s.onDev_congr (s.dev.shmemWrite_reserved k _ hr hp (hw _ rfl rfl))
    | saccSel k => exact s.onDev_congr (s.dev.saccWrite_reserved k _ hr hp (hw _ rfl rfl))
    | timeCfg => exact s.onDev_congr (s.dev.timeCfg_reserved _ hr (hw _ rfl rfl))
    | timeRate => exact s.onDev_congr (s.dev.timeRate_reserved _ hr (hw _ rfl rfl))
    | ueLog => exact s.onDev_congr (s.dev.ueWrite_reserved v hr h)
    | ctrSel b i => exact s.onDev_congr (s.dev.selWrite_reserved b i hr hp (hv.resolve_left Bool.false_ne_true) h)
    | _ => cases hown

/-- A register without an operation of its own takes a write with no reserved bit. -/
theorem exec_registerWrite_taken {r : Reg} {v : Long} (hown : r.ownWrite = false) (hv : r.is64 = true ∨ v.toNat < 2 ^ 32)
    (h : v.toNat &&& r.rsv = 0) : exec (.registerWrite r .whole v) s = .next (s.onDev fun d => d.regSet v.toNat r) := by
  rw [exec_registerWrite_whole r v s hv, State.regWrite_of_not_own hr hp v.toNat hown]
  exact congrArg Host.Outcome.next (s.onDev_congr (if_neg fun hn => hn h))

/-- R102: KLN_SACC_SEL outside debug mode ignores a write with no reserved bit. -/
theorem exec_registerWrite_saccSel_no_debug (k : Fin 12) {v : Long} (hv : v.toNat < 2 ^ 32) (h : v.toNat &&& (Reg.saccSel k).rsv = 0)
    (hd : s.dev.ctrs.debugMode = false) : exec (.registerWrite (.saccSel k) .whole v) s = .next s := by
  have hw : BitVec.ofNat 32 v.toNat &&& 0xFE008080#32 = 0#32 := (word_and_eq_zero_iff _ hv).mpr h
  rw [exec_registerWrite_whole _ v s (.inr hv)]
  exact congrArg Host.Outcome.next (s.onDev_congr (g := id) (s.dev.saccWrite_no_debug k _ hr hp hw hd))

end

-- Registers of one RW word, and RO registers (R2)

/-- The registers that hold what is written, in a word of their own of w bits. -/
inductive Reg.HoldsBits : Reg → Nat → Prop
  | eventEnable : HoldsBits .eventEnable 8
  | bar2Map : HoldsBits .bar2Map 18
  | prioMap : HoldsBits .prioMap 32
  | gradCfg : HoldsBits .gradCfg 32
  | scrubCfg : HoldsBits .scrubCfg 32
  | ctrGrant : HoldsBits .ctrGrant 20
  | bwCfg : HoldsBits .bwCfg 16
  | migCfg : HoldsBits .migCfg 32
  | unifiedCfg : HoldsBits .unifiedCfg 32
  | linkCfg (l : Fin 4) : HoldsBits (.linkCfg l) 32

namespace Reg.HoldsBits

theorem of_listed {r : Reg}
    (h : r ∈ [Reg.eventEnable, .bar2Map, .prioMap, .gradCfg, .scrubCfg, .ctrGrant, .bwCfg, .migCfg, .unifiedCfg] ∨ ∃ l, r = .linkCfg l) :
    ∃ w, r.HoldsBits w := by
  simp only [List.mem_cons, List.not_mem_nil, or_false] at h
  rcases h with (rfl | rfl | rfl | rfl | rfl | rfl | rfl | rfl | rfl) | ⟨l, rfl⟩ <;> exact ⟨_, by constructor⟩

variable {r : Reg} {w : Nat} (h : r.HoldsBits w)
include h

theorem not_own : r.ownWrite = false := by cases h <;> rfl

/-- A value without reserved bits fits the register's word. -/
theorem value_lt {v : Nat} (hv : v < 2 ^ 32) (h0 : v &&& r.rsv = 0) : v < 2 ^ w := by
  cases h
  case eventEnable => exact (and_highMask_eq_zero_iff (k := 8) (n := 24) hv).mp h0
  case bar2Map => exact (and_highMask_eq_zero_iff (k := 18) (n := 14) hv).mp h0
  case ctrGrant => exact (and_highMask_eq_zero_iff (k := 20) (n := 12) hv).mp h0
  case bwCfg => exact (and_highMask_eq_zero_iff (k := 16) (n := 16) hv).mp h0
  all_goals exact hv

/-- What is written is read back. -/
theorem regValue_regSet (v : Nat) (s : State) (hv : v < 2 ^ w) : (s.onDev fun d => d.regSet v r).regValue r = v := by
  have hword : (BitVec.ofNat w v).toNat = v := by rw [BitVec.toNat_ofNat, Nat.mod_eq_of_lt hv]
  cases h
  case linkCfg l => exact (congrArg BitVec.toNat (vec_set_get_same _ l _)).trans hword
  all_goals exact hword

/-- No write reaches beyond the parts that hold these registers. -/
theorem regSet_frame (v : Nat) (d : Dev) :
    d.regSet v r = { d with link := (d.regSet v r).link, tier := (d.regSet v r).tier, coll := (d.regSet v r).coll,
                            repair := (d.regSet v r).repair, ctrs := (d.regSet v r).ctrs, fabric := (d.regSet v r).fabric } := by
  cases h <;> rfl

end Reg.HoldsBits

/-- A register of RO fields has no operation of its own and stays as it is. -/
theorem Dev.regSet_readOnly {r : Reg}
    (h : r ∈ [Reg.fnSlotStatus, .unifiedStatus, .crkMemStatus, .timeNow, .candleState, .pwrCap, .startStatus, .ledgerVersion] ∨
      (∃ n, r = .sqHead n) ∨ (∃ k, r = .dieStatus k) ∨ (∃ k, r = .saccData k) ∨ (∃ l p, r = .portPeer l p)) (v : Nat) (d : Dev) :
    r.ownWrite = false ∧ d.regSet v r = d := by
  simp only [List.mem_cons, List.not_mem_nil, or_false] at h
  rcases h with (rfl | rfl | rfl | rfl | rfl | rfl | rfl | rfl) | ⟨n, rfl⟩ | ⟨k, rfl⟩ | ⟨k, rfl⟩ | ⟨l, p, rfl⟩ <;> exact ⟨rfl, rfl⟩

/-- Settles O11: registers without an operation of their own take what is written, and every register refuses reserved bits. -/
theorem registerWritesTakeTheirFields : Obligations.RegisterWritesTakeTheirFields := by
  unfold Obligations.RegisterWritesTakeTheirFields
  refine ⟨fun r v s hr hp hv h0 => ⟨fun hrw => ?_, ?_, fun hro => ?_⟩, fun r v s hr hp hv => ⟨fun h => ?_, ?_⟩⟩
  · obtain ⟨w, hw⟩ := Reg.HoldsBits.of_listed hrw
    refine ⟨_, exec_registerWrite_taken hr hp hw.not_own (.inr hv) h0, hw.regValue_regSet _ s (hw.value_lt hv h0), ?_⟩
    exact s.onDev_congr (g := fun _ => _) (hw.regSet_frame v.toNat s.dev)
  · rintro rfl
    exact ⟨_, exec_registerWrite_taken hr hp rfl (.inr hv) h0, rfl, rfl⟩
  · obtain ⟨hown, hsame⟩ := Dev.regSet_readOnly hro v.toNat s.dev
    rw [exec_registerWrite_taken hr hp hown (.inr hv) h0]
    exact congrArg Host.Outcome.next (s.onDev_congr (g := id) hsame)
  · rw [exec_registerWrite_whole r v s hv, State.regWrite_reserved hr hp hv h]
  · rintro h0 k rfl hd
    exact exec_registerWrite_saccSel_no_debug hr hp k (hv.resolve_left Bool.false_ne_true) h0 hd

end Sys2Proof.Machine
end

section
/-! Scrubbing: a row of a stack for which no spare is left has its slot retired, and a MIGRATE that waited for the slot's unit ends with
it (R245, R430, R511). -/
namespace Sys2Proof.Machine

-- A row of a stack without a spare (R20, R511)

/-- The record for which a row of a stack, die and bank in its number, takes a spare (R515). -/
def dramRow (stack : Fin 24) (row : Nat) : Repair :=
  { kind := 6, unit := dieCode (dieIx (stack.val / 2)), element := stack.val, detail := field row 27 0 }

/-- An element's pool is empty once all its spares serve that element. -/
theorem Dev.not_sparesUsed_lt_poolSize {d : Dev} {r : Repair} (h : d.repair.spares = List.replicate r.poolSize { rep := r }) :
    ¬ d.sparesUsed r < r.poolSize := by
  simp [Dev.sparesUsed, h]

theorem Dev.takeSpare_eq_none {d : Dev} {r : Repair} (h : ¬ d.sparesUsed r < r.poolSize) (col : Nat) (upset : BitVec 80) :
    d.takeSpare r col upset = none := if_neg h

/-- A spare column comes only with a spare row. -/
theorem Dev.dramRepair_eq_none {d : Dev} {stack : Fin 24} {row : Nat}
    (h : ¬ d.sparesUsed (dramRow stack row) < (dramRow stack row).poolSize) (col : Nat) (upset : BitVec 80) :
    d.dramRepair stack row col upset = none := by
  rw [Dev.dramRepair, ← dramRow, Dev.takeSpare_eq_none h]
  rfl

/-- The slot of a stack's row without a spare is retired. -/
theorem Dev.repairRow_eq_retireSlot {d : Dev} {r : ScrubRead} {stack slot : Nat} (hw : r.where_ = 1)
    (hslot : d.slotOf r.location = (stack, slot))
    (h : ¬ d.sparesUsed (dramRow (Fin.ofNat 24 stack) r.row) < (dramRow (Fin.ofNat 24 stack) r.row).poolSize) :
    d.repairRow r = d.retireSlot stack slot := by
  simp only [Dev.repairRow, hw, hslot, Dev.dramRepair_eq_none h, Option.getD_none, if_true]
  rfl

/-- A device that has corrected a stack's word once more: the word is counted, and an earlier pass's mark of it goes. -/
def Dev.recorrected (r : ScrubRead) (d : Dev) : Dev :=
  let d1 := d.count (d.dieOf r.location) 0x22 ((d.stackOf r.location).getD 0 % 2) 1
  { d1 with repair := { d1.repair with corrected := d1.repair.corrected.filter (· != (r.where_, r.unit, r.location)) } }

theorem Dev.recorrected_slotOf (r : ScrubRead) (d : Dev) (a : Nat) : (d.recorrected r).slotOf a = d.slotOf a := rfl

/-- R511: a stack's word that an earlier pass corrected and this one corrects again has its row repaired. -/
theorem Dev.scrub_corrected_again {d : Dev} {r : ScrubRead} (hon : d.scrubs r.where_ = true) (hw : r.where_ = 1)
    (hat : d.whereOf r.location = r.where_) (hda : d.daOk r.location 1 = true) (hgood : d.mem.poisoned r.location = false)
    (hn : popcount 80 r.upset.toNat = 1) (hkey : d.repair.corrected.contains (r.where_, r.unit, r.location) = true) :
    d.scrub r = (d.recorrected r).repairRow r := by
  have hcorrected : d.scrub r = d.scrubCorrected r := by simp [Dev.scrub, hon, hat, hda, hgood, hn]
  rw [hcorrected, Dev.scrubCorrected, if_pos hkey, if_neg (by omega), if_pos hw, Dev.recorrected]

-- The last unit of the stacks, whose slot retires

/-- A MIGRATE in progress that sends unit 0 down, of the bounded class, its DEADLINE phase 0. -/
def boundedMigrate : Cmd :=
  { id := 0, sq := 0, cq := 0, core := 0, holdsTag := true, phase := .running,
    pkt := { opcode := 0x22, cls := 2, fenceBefore := false, tag := 1, deadline := 0, o0 := BitVec.ofNat 64 windowBase,
             o1 := BitVec.ofNat 64 unitBytes, o2 := 1, o3 := 0, o4 := 0, o5 := 0 } }

/-- A word of row 0 of stack 0 that reads with one bit flipped: the first of the unified window. -/
def weakWord : ScrubRead := { where_ := 1, unit := 0, location := windowBase, upset := 1, row := 0, col := 0 }

/-- A running device at phase 2, with a unified window of one unit in the one backing slot of stack 0, and room for it in the crock. An
earlier pass corrected the unit's first word, whose bank has no spare row left; the MIGRATE is in progress. -/
def retiringDev : Dev :=
  let d : Dev := {}
  { d with
    start := { d.start with state := 1 }
    time := { d.time with phase := 2 }
    kilns := d.kilns.set 0 { stackOk := Vector.replicate 2 true }
    tier := { d.tier with
      units := 1, stackUnits := 1, crockUnits := 1, stackShare := 1, inStack := 1, stacksIn := [0]
      moves := [{ ix := 0, dest := none }]
      migCmds := [{ cmd := 0, left := [0], up := false, named := 1, count := 1 }] }
    link := { d.link with cmds := [boundedMigrate], nextId := 1 }
    repair := { d.repair with corrected := [(1, 0, windowBase)], spares := List.replicate Config.bankRows { rep := dramRow 0 0 } } }

def retiring : State := { State.reset with dev := retiringDev }

theorem retiringDev_slotOf : retiringDev.slotOf weakWord.location = (0, 24064) := by decide +kernel

theorem retiringDev_no_spare : ¬ retiringDev.sparesUsed (dramRow 0 0) < (dramRow 0 0).poolSize :=
  Dev.not_sparesUsed_lt_poolSize rfl

/-- The second correction retires the slot; its unit goes down, and the MIGRATE ends late, which sets OVERRUN_SEEN. -/
theorem retiringDev_scrub_overruns : (retiringDev.scrub weakWord).candle.seen = 16#6 := by
  have hrepair : retiringDev.scrub weakWord = (retiringDev.recorrected weakWord).repairRow weakWord :=
    Dev.scrub_corrected_again (by decide +kernel) rfl (by decide +kernel) (by decide +kernel) (by decide +kernel) (by decide +kernel)
      (by decide +kernel)
  have hretire : (retiringDev.recorrected weakWord).repairRow weakWord = (retiringDev.recorrected weakWord).retireSlot 0 24064 :=
    Dev.repairRow_eq_retireSlot rfl ((Dev.recorrected_slotOf ..).trans retiringDev_slotOf) retiringDev_no_spare
  rw [hrepair, hretire]
  decide +kernel

/-- Refutes O52: the frame of a retired slot's repair keeps the scheduler's sticky bits, but where the slot's unit is the last that a
bounded MIGRATE waits for, that command ends with the repair, and past its DEADLINE it sets OVERRUN_SEEN (R430). -/
theorem not_scrubbingRepairsAndRecords : ¬ Obligations.ScrubbingRepairsAndRecords := by
  unfold Obligations.ScrubbingRepairsAndRecords
  intro h
  obtain ⟨-, hscrub, -⟩ := h retiring
  obtain ⟨-, -, -, hagain, -⟩ := hscrub weakWord
  obtain ⟨t, hstep, -, -, -, hframe⟩ := hagain (by decide +kernel) (by decide +kernel) (by decide +kernel) (by decide +kernel)
  have ht : retiring.onDev (Dev.scrub weakWord) = t := Host.Outcome.next.inj hstep
  have hkept : t.dev.candle = retiringDev.candle := by
    rw [hframe ⟨rfl, retiringDev_no_spare, by decide +kernel⟩]
    rfl
  have hset : t.dev.candle.seen = 16#6 := by
    rw [← ht]
    exact retiringDev_scrub_overruns
  rw [hkept] at hset
  exact absurd hset (by decide)

end Sys2Proof.Machine
end

section
/-! The end of a launch whose entry is a zero shape that names a write range: its context keeps its length (R181, R216). O17 gives the
device at the end of the launch only by what goes on after it; that can remove a context but makes none shorter, so the context was no
longer there either. -/
namespace Sys2Proof.Machine

-- Insertion under find?

theorem find?_insertBy_match {α : Type} (le : α → α → Bool) {p : α → Bool} {x : α} {l : List α} (hx : p x = true)
    (hl : ∀ y ∈ l, p y = false) : (insertBy le x l).find? p = some x := by
  induction l with
  | nil => simp [insertBy, hx]
  | cons y l ih =>
    rw [List.forall_mem_cons] at hl
    obtain ⟨hy, hl⟩ := hl
    unfold insertBy
    split
    · simp [hy, ih hl]
    · simp [hx]

theorem find?_insertBy_skip {α : Type} (le : α → α → Bool) {p : α → Bool} {x : α} (hx : p x = false) (l : List α) :
    (insertBy le x l).find? p = l.find? p := by
  induction l with
  | nil => simp [insertBy, hx]
  | cons y l ih =>
    unfold insertBy
    split
    · simp only [List.find?_cons, ih]
    · simp [hx]

-- Contexts by number

theorem CtxPart.find_num {x : CtxPart} {n : Nat} {c : Ctx} (h : x.find n = some c) : c.num = n := by
  simpa using find?_prop _ _ _ h

theorem CtxPart.find_put_same (x : CtxPart) (c : Ctx) : (x.put c).find c.num = some c :=
  find?_insertBy_match _ (beq_self_eq_true c.num) fun y hy => by simpa using (List.mem_filter.mp hy).2

theorem CtxPart.find_put_other (x : CtxPart) {c : Ctx} {n : Nat} (h : c.num ≠ n) : (x.put c).find n = x.find n := by
  rw [CtxPart.find, CtxPart.put, find?_insertBy_skip _ (by simpa using h), List.find?_filter, CtxPart.find]
  congr 1
  funext e
  by_cases he : e.num = n <;> simp [he, Ne.symm h]

/-- The context of a number, where there is one, has at least a length. -/
def CtxPart.Reaches (n w : Nat) (x : CtxPart) : Prop := ∀ c, x.find n = some c → w ≤ c.length

namespace CtxPart.Reaches
variable {n w : Nat} {x : CtxPart}

theorem put (h : x.Reaches n w) {c : Ctx} (hc : c.num = n → w ≤ c.length) : (x.put c).Reaches n w := by
  intro c' hfind
  by_cases hn : c.num = n
  · rw [← hn, CtxPart.find_put_same, Option.some.injEq] at hfind
    exact hfind ▸ hc hn
  · exact h c' (by rwa [CtxPart.find_put_other x hn] at hfind)

/-- What a context found by its number satisfies. -/
theorem of_find (h : x.Reaches n w) {m : Nat} {c : Ctx} (hfind : x.find m = some c) (hn : c.num = n) : w ≤ c.length :=
  h c (by rw [← hn, CtxPart.find_num hfind, hfind])

theorem setPool (h : x.Reaches n w) (i : Fin 16) (p : Option Pool) : (x.setPool i p).Reaches n w := h

theorem unmapPage (h : x.Reaches n w) (m : Nat) (key : Nat × Nat × Nat) : (unmapPage m key x).Reaches n w := by
  unfold Machine.unmapPage
  split
  · exact h
  next c hfind =>
    split
    · exact (h.setPool _ _).put fun hn => (h.of_find hfind hn : w ≤ c.length)
    · exact h

/-- R187: the context destroyed is gone, the others keep their lengths. -/
theorem destroyCtx (h : x.Reaches n w) (m : Nat) : (destroyCtx m x).Reaches n w := by
  unfold Machine.destroyCtx
  split
  · exact h
  next c hfind =>
    have hun := List.foldlRecOn (motive := CtxPart.Reaches n w) (c.table.map (·.1)) (fun acc k => Machine.unmapPage m k acc) h
      fun acc hacc k _ => hacc.unmapPage m k
    intro c' hc'
    refine hun c' ?_
    rw [CtxPart.find, List.find?_filter] at hc'
    have hnum : c'.num ≠ m ∧ c'.num = n := by simpa using List.find?_some hc'
    rw [← hc', CtxPart.find]
    congr 1
    funext e
    by_cases he : e.num = n
    · simp [he, ← hnum.2, hnum.1]
    · simp [he]

end CtxPart.Reaches

-- Frame preparation keeps every length (R180)

section
variable {n w : Nat} {e : CtxEnv} (inStack : Nat → Bool)

theorem newFrame_reaches (h : e.cx.Reaches n w) {c : Ctx} (hc : c.num = n → w ≤ c.length) (key : Nat × Nat × Nat) :
    (newFrame inStack c key e).1.cx.Reaches n w := by
  unfold newFrame
  split
  · exact h
  · exact (h.setPool _ _).put hc

theorem preparePage_reaches (h : e.cx.Reaches n w) (m len : Nat) (key : Nat × Nat × Nat) :
    (preparePage inStack m len key e).cx.Reaches n w := by
  unfold preparePage
  split
  · exact h
  next c hfind =>
    have hnew := newFrame_reaches inStack h (h.of_find hfind) key
    split
    · exact h
    · dsimp only
      split
      · exact hnew
      · split
        · split
          · exact hnew
          · exact hnew.setPool _ _
        · exact h

theorem prepareCtx_reaches (h : e.cx.Reaches n w) (m len : Nat) (pages : List Nat) :
    (prepareCtx inStack m len pages e).cx.Reaches n w := by
  unfold prepareCtx
  split
  · exact h
  next c _ =>
    exact List.foldlRecOn (motive := fun e : CtxEnv => e.cx.Reaches n w) pages _ h fun acc hacc pg _ =>
      List.foldlRecOn (motive := fun e : CtxEnv => e.cx.Reaches n w) c.heads _ hacc fun acc' hacc' y _ =>
        preparePage_reaches inStack hacc' m len (y.1, y.2, pg)

end

-- A device whose commands have ended, without gradient jobs, candle tables or media sessions

/-- Every command in flight has ended and asks for no fork or trim, no gradient job, candle table or media session is there, and the
context of a number has at least a length. -/
structure Dev.Idle (n w : Nat) (d : Dev) : Prop where
  ended : ∀ c ∈ d.link.cmds, c.phase = .done ∧ c.pkt.opcode ≠ 0x31#8 ∧ c.pkt.opcode ≠ 0x33#8
  jobs : d.coll.jobs = []
  tables : ∀ k, (d.candle.streams.get k).table = none
  media : d.media.jobs = [] ∧ d.media.sessions = []
  reaches : d.cx.Reaches n w

/-- A change of the device through a list keeps what each of its steps keeps. -/
theorem Dev.each_keeps {α : Type} {P : Dev → Prop} {l : List α} {f : α → Dev → Dev} {d : Dev} (h : P d)
    (hf : ∀ x d, P d → P (f x d)) : P (d.each l f) :=
  List.foldlRecOn l _ h fun d hd x _ => hf x d hd

namespace Dev.Idle
variable {n w : Nat} {d e : Dev} (h : d.Idle n w)
include h

/-- Only these parts of the device count. -/
theorem of_eq (hl : e.link.cmds = d.link.cmds := by rfl) (hj : e.coll = d.coll := by rfl)
    (hs : e.candle.streams = d.candle.streams := by rfl) (hm : e.media = d.media := by rfl) (hx : e.cx.ctxs = d.cx.ctxs := by rfl) :
    e.Idle n w where
  ended := hl ▸ h.ended
  jobs := hj ▸ h.jobs
  tables := hs ▸ h.tables
  media := hm ▸ h.media
  reaches := by
    intro c hc
    rw [CtxPart.find, hx] at hc
    exact h.reaches c hc

/-- A device with other contexts, memory and choices made. -/
theorem withEnv {v : CtxEnv} (hv : v.cx.Reaches n w) : (d.withEnv v).Idle n w :=
  ⟨h.ended, h.jobs, h.tables, h.media, hv⟩

theorem cmd_ended {id : Nat} {c : Cmd} (hc : d.cmd id = some c) : c.phase = .done ∧ c.pkt.opcode ≠ 0x31#8 ∧ c.pkt.opcode ≠ 0x33#8 :=
  h.ended c (List.mem_of_find?_eq_some hc)

/-- No command ends any more. -/
theorem endCmd (id : Nat) (st : Half) (body : List Byte) : d.endCmd id st body = d := by
  cases hc : d.cmd id with
  | none => simp [Dev.endCmd, hc]
  | some c => exact d.endCmd_done id st body c hc (h.cmd_ended hc).1

theorem noteStatus (st : Half) : (d.noteStatus st).Idle n w := by
  unfold Dev.noteStatus
  split
  · exact h.of_eq
  · split
    · exact h.of_eq
    · exact h

theorem okCmd (id a b c : Nat) : (d.okCmd id a b c).Idle n w := by
  unfold Dev.okCmd
  split
  · exact h
  next cm _ =>
    have hover : (d.overrun cm stOk).2.Idle n w := by
      unfold Dev.overrun
      split
      · exact h.of_eq
      · exact h
    dsimp only
    rwa [hover.endCmd]

theorem ueAt_struck (a : Nat) : (d.ueAt a true).Idle n w := by
  unfold Dev.ueAt
  dsimp only
  rw [if_pos rfl]
  split <;> exact h.of_eq

theorem boundEnd (cls deadline : Nat) (st : Half) : (d.boundEnd cls deadline st).2.Idle n w := by
  unfold Dev.boundEnd
  split
  · exact h.of_eq
  · exact h

-- Launches and lists (R213, R405)

theorem modLaunch (id : Nat) (f : Launch → Launch) : (d.modLaunch id f).Idle n w := h.of_eq

theorem listSettle (cmd : Nat) : (d.listSettle cmd).Idle n w := by
  unfold Dev.listSettle
  split
  · exact h
  · dsimp only
    split
    · exact h
    · split
      · exact h.of_eq
      next x _ _ _ c _ =>
        rw [((h.of_eq).boundEnd _ _ _).endCmd]
        exact (h.of_eq).boundEnd _ _ _

theorem candleEnd (k : Fin 32) (cycle entry : Nat) (st : Half) (widened escalated nanRows : Nat) :
    d.candleEnd k cycle entry st widened escalated nanRows = d := by
  simp [Dev.candleEnd, Dev.stream, h.tables]

theorem launchRefused (owner : LaunchOwner) (st : Half) (entry : Nat) : (d.launchRefused owner st entry).Idle n w := by
  have hnote := h.noteStatus st
  cases owner with
  | cmd c =>
    show ((d.noteStatus st).endCmd _ _ _).Idle n w
    rwa [hnote.endCmd]
  | listRec c i => exact (hnote.of_eq).listSettle c
  | candle k m e =>
    show ((d.noteStatus st).candleEnd _ _ _ _ _ _ _).Idle n w
    rwa [hnote.candleEnd]

theorem gradCancelLaunch (id : Nat) : d.gradCancelLaunch id = d := by
  unfold Dev.gradCancelLaunch
  split
  · rfl
  · simp [Dev.job, h.jobs]

theorem gradAdmit (id handle : Nat) : (d.gradAdmit id handle).Idle n w := by
  simpa [Dev.gradAdmit, h.jobs] using h

theorem fnHold (id : Nat) (ks : List (Fin 8)) : (d.fnHold id ks).Idle n w := by
  refine Dev.each_keeps h fun k d hd => ?_
  dsimp only
  split
  · exact hd
  · exact hd.of_eq

theorem fnDrop (id : Nat) : (d.fnDrop id).Idle n w := by
  refine Dev.each_keeps h fun k d hd => ?_
  dsimp only
  split
  · exact hd
  · split <;> exact hd.of_eq

theorem dropLaunch (id : Nat) : (d.dropLaunch id).Idle n w := by
  have hdrop := h.fnDrop id
  unfold Dev.dropLaunch
  generalize d.fnDrop id = d1 at hdrop
  exact hdrop.of_eq

theorem launchTurnedAway (l : Launch) (st : Half) (entry : Nat) : (d.launchTurnedAway l st entry).Idle n w := by
  unfold Dev.launchTurnedAway
  rw [h.gradCancelLaunch]
  have hleft := (h.modLaunch l.id fun x => { x with phase := .ended, ended := st }).dropLaunch l.id
  dsimp only
  generalize Dev.dropLaunch l.id _ = d1 at hleft
  exact (hleft.of_eq).launchRefused _ _ _

theorem prepareAll (l : Launch) : (d.prepareAll l).Idle n w := by
  refine Dev.each_keeps h fun e d hd => ?_
  split
  · exact hd
  next c _ =>
    exact (hd.withEnv (prepareCtx_reaches d.inStackUnit (e := d.ctxEnv) hd.reaches c.num c.length _)).of_eq

theorem launchGo (l : Launch) : (d.launchGo l).Idle n w := by
  unfold Dev.launchGo
  split
  · exact h.launchTurnedAway _ _ _
  · split
    · exact h.launchTurnedAway _ _ _
    · split
      · exact (h.of_eq).launchTurnedAway _ _ _
      · dsimp only
        split
        · exact h.launchTurnedAway _ _ _
        · refine Dev.Idle.modLaunch (Dev.Idle.prepareAll ?_ l) _ _
          exact h.of_eq

theorem admitLaunch (r : LaunchReq) : (d.admitLaunch r).Idle n w := by
  unfold Dev.admitLaunch
  split
  · dsimp only
    refine Dev.Idle.launchRefused ?_ _ _ _
    split
    · split
      · exact h.ueAt_struck _
      · exact h
    · exact h
  · refine Dev.Idle.gradAdmit (Dev.Idle.fnHold ?_ _ _) _ _
    exact h.of_eq

-- The arbiter (R188)

theorem destroyGo (c : Cmd) : (d.destroyGo c).Idle n w := by
  have hgone : ({ d with cx := destroyCtx (opnd c.pkt.o1 13 0) d.cx } : Dev).Idle n w :=
    ⟨h.ended, h.jobs, h.tables, h.media, h.reaches.destroyCtx _⟩
  unfold Dev.destroyGo
  dsimp only
  split
  · exact (hgone.of_eq).okCmd _ _ _ _
  · exact hgone.okCmd _ _ _ _

theorem arbStep (hstep : d.arbStep = some e) : e.Idle n w := by
  unfold Dev.arbStep at hstep
  split at hstep
  · cases hstep
  next o _ =>
    split at hstep
    · split at hstep
      · split at hstep
        · cases hstep
          exact h.launchGo _
        · cases hstep
          exact h.of_eq
      · cases hstep
        exact h.of_eq
    · dsimp only at hstep
      split at hstep
      · cases hstep
        exact h.of_eq
      next c hc =>
        have hleft : Dev.Idle n w { d with cx := { d.cx with arb := d.cx.arb.filter fun x => !(!x.launch && x.owner == o.owner) } } :=
          h.of_eq
        obtain ⟨-, hfork, htrim⟩ := hleft.cmd_ended hc
        rw [if_neg hfork, if_neg htrim] at hstep
        cases hstep
        exact hleft.destroyGo c

theorem listNext {x : ListRun} (hstep : d.listNext x = some e) : e.Idle n w := by
  unfold Dev.listNext at hstep
  split at hstep
  · cases hstep
  · split at hstep
    · cases hstep
    · split at hstep
      · cases hstep
      · dsimp only at hstep
        split at hstep
        · cases hstep
        · split at hstep
          · cases hstep
            exact (h.of_eq).launchRefused _ _ _
          · cases hstep
            exact (h.of_eq).admitLaunch _

omit h in
theorem settleArb (fuel : Nat) (h : d.Idle n w) : (Dev.settleArb fuel d).Idle n w := by
  induction fuel generalizing d with
  | zero => exact h
  | succ fuel ih =>
    unfold Dev.settleArb
    split
    next d1 hstep => exact ih (h.arbStep hstep)
    · split
      next d1 hstep =>
        obtain ⟨x, -, hx⟩ := List.exists_of_findSome?_eq_some hstep
        exact ih (h.listNext hx)
      · exact h

-- What the end of a launch lets go on

theorem delivers : (d.delivers).Idle n w := by
  refine Dev.each_keeps h fun k d hd => Dev.each_keeps hd fun a d hd => ?_
  simpa [Dev.deliverTry, Dev.stream, hd.tables] using hd

theorem mediaPump : d.mediaPump = d := by
  obtain ⟨hjobs, hsessions⟩ := h.media
  simp [Dev.mediaPump, hjobs, hsessions, Dev.each]

theorem calm : (d.calm).Idle n w := by
  have hd : (d.settle.delivers).Idle n w := (h.settleArb _).delivers
  rw [Dev.calm, hd.mediaPump]
  exact hd

end Dev.Idle

-- Reports (R439)

theorem State.post_cx (k : Fin 64) (st : Half) (bytes : List Byte) (s : State) : (s.post k st bytes).dev.cx = s.dev.cx := by
  unfold State.post State.cqNotify
  dsimp only
  split
  · rfl
  · split
    · rw [State.onDev_dev, Dev.sendMsix_eq]
      rfl
    · rfl

theorem State.flushReports_cx (s : State) : s.flushReports.dev.cx = s.dev.cx :=
  List.foldlRecOn (motive := fun t : State => t.dev.cx = s.dev.cx) s.dev.candle.reports _ rfl fun t ht r _ => by
    dsimp only
    split
    · exact ht
    · exact (State.post_cx _ _ _ t).trans ht

/-- What a step lets go on makes no context shorter where only commands that have ended are in flight. -/
theorem State.act_reaches {n w : Nat} {d : Dev} (h : d.Idle n w) (s : State) : (s.act fun _ => d).dev.cx.Reaches n w := by
  rw [State.act, State.flushReports_cx]
  exact h.calm.reaches

-- A launch of one zero shape that names positions 0 to 3 of an empty context as its write range

/-- A vector kernel on kiln 0. -/
def shapeKernel : Kernel :=
  { kind := 2, markFmt := 0, wideFmt := 0, range := 0, promote := 0, flags := 0, layer := 0, rotSeed := 0, bufA := 0, bufB := noIx,
    bufOut := 1, bufAux := noIx, shape := 0, loop := noIx, chain := noIx, auxIndex := 0, auxCount := 1, fnref := noIx, mMax := 4,
    nMax := 4, kMax := 0, entryMax := 1, execK := 0, kilnMask := 1, tileMask := 0 }

def shapeImage : Image := { size := 0, numerics := 0, layerCount := 1, classes := 7, kernels := [shapeKernel] }

/-- EXT_M is zero (R216); the write range is [0, 4) of context 3. -/
def zeroShape : Entry :=
  { bases := [0, 0, 0, 0], m := 0, n := 4, k := 0, qpos := 0, w0 := 0, w1 := 4, ctx := 3, reads := false, writes := true, headFirst := 0,
    headCount := 1 }

def shapeLaunch : Launch :=
  { id := 3, owner := .cmd 7, handle := 5, mode := 0, seed := 0, cls := 1, entries := [zeroShape], phase := .running, dies := [0] }

/-- The LAUNCH command that runs it. -/
def shapeCmd : Cmd :=
  { id := 7, sq := 0, cq := 0, core := 0, holdsTag := true, phase := .running,
    pkt := { opcode := 0x12, cls := 1, fenceBefore := false, tag := 2, deadline := 0, o0 := 5, o1 := 0x3000, o2 := 0, o3 := 0, o4 := 0,
             o5 := 0 } }

/-- Context 3, with no token yet. -/
def emptyCtx : Ctx := { num := 3, pool := 1, layers := 1, groups := 1, hdCode := 0, fmtCode := 0, capacity := 64 }

/-- A running device on which the arbiter has taken the launch. -/
def shapeDev : Dev :=
  let d : Dev := {}
  { d with
    start := { d.start with state := 1 }
    link := { d.link with cmds := [shapeCmd], nextId := 8 }
    progs := { d.progs with programs := [{ handle := 5, image := shapeImage, scratch := [] }] }
    launches := [shapeLaunch]
    nextLaunch := 4
    cx := { d.cx with
      pools := d.cx.pools.set 1 { pool := some { frameKiB := 64, frameBase := 0, frameLen := 0x200000, tabBase := 0x400000,
                                                 tabLen := 0x400000, pinned := true } }
      ctxs := [emptyCtx]
      arb := [{ launch := true, owner := 3, ctx := 3, write := true, taken := true }] } }

def shapeState : State := { State.reset with dev := shapeDev }

theorem shapeDev_tables : ∀ k, (shapeDev.candle.streams.get k).table = none := by decide +kernel

/-- The launch completes and its context stays empty. -/
theorem shapeState_launchComplete_ctx : (shapeState.act (Dev.launchComplete 3)).dev.cx.find 3 = some emptyCtx := by decide +kernel

/-- Refutes O17: an entry that is a zero shape writes nothing (R216), so the end of its launch leaves the context it asks to write at its
length, though its write range goes further. -/
theorem not_launchCompletes : ¬ Obligations.LaunchCompletes := by
  unfold Obligations.LaunchCompletes
  intro h
  obtain ⟨-, d', hstep, hframe, -, hlength⟩ := h 3 shapeState shapeLaunch shapeImage shapeCmd (by decide +kernel) (by decide +kernel)
    rfl rfl (by decide +kernel) rfl (by decide +kernel) (by decide) (by decide)
  have hidle : d'.Idle 3 4 := by
    rw [hframe]
    refine ⟨fun c hc => ?_, rfl, shapeDev_tables, ⟨rfl, rfl⟩, hlength (by decide +kernel) zeroShape (List.mem_singleton_self _) rfl⟩
    obtain rfl := List.mem_singleton.mp hc
    exact ⟨rfl, by decide, by decide⟩
  have hact : shapeState.act (Dev.launchComplete 3) = shapeState.act fun _ => d' := Host.Outcome.next.inj hstep
  have hfour : 4 ≤ emptyCtx.length := State.act_reaches hidle shapeState emptyCtx (hact ▸ shapeState_launchComplete_ctx)
  exact absurd hfour (by decide)

end Sys2Proof.Machine
end

section
/-! Function tables and slip tables: what a load, a check's end and a release do to the slots (R121 to R126, R262, R263). -/
namespace Sys2Proof.Machine

-- Function-table slots (R121 to R126)

/-- R126: a refusal keeps the slot field it was asked for and leaves the reply. -/
theorem Dev.fnRefuse_eq (slot : Nat) {d : Dev} {id : Nat} {st : Half} {c : Cmd} (h : d.cmd id = some c) (hp : c.phase ≠ .done)
    (hst : st ≠ stDeadline ∧ st ≠ stDebugDenied := by decide) :
    d.fnRefuse id slot st =
      ({ d with fn := { d.fn with refusedValid := true, lastRefused := BitVec.ofNat 8 slot } } : Dev).replied id st (vals 0 0 0) :=
  Dev.refuse_eq _ id st c h hp hst.1 hst.2

/-- The slot that a FN_TABLE_LOAD packet names. -/
def Cmd.fnIx (c : Cmd) : Fin 8 := Fin.ofNat 8 (opnd c.pkt.o2 7 0)

/-- A FN_TABLE_LOAD names a FREE slot and a range of memory that reads (R121). -/
structure Dev.FnTableReads (d : Dev) (c : Cmd) : Prop where
  low : 8 ≤ opnd c.pkt.o2 7 0
  high : opnd c.pkt.o2 7 0 ≤ 15
  free : (d.fnSlot c.fnIx).state = 0
  inMemory : d.daOk (opDa c.pkt.o0) (opnd c.pkt.o1 31 0) = true
  clean : d.mem.firstPoison (opDa c.pkt.o0) (opnd c.pkt.o1 31 0) = none

section
variable {d : Dev} {c : Cmd}

/-- The slot check of FN_TABLE_LOAD, as the model makes it. -/
theorem fnSlot_valid {n : Nat} (hlow : 8 ≤ n) (hhigh : n ≤ 15) : ¬ (decide (n < 8) || decide (15 < n)) = true := by
  simp only [Bool.or_eq_true, decide_eq_true_eq]
  omega

theorem Dev.fnLoad_slot_invalid (h : opnd c.pkt.o2 7 0 < 8 ∨ 15 < opnd c.pkt.o2 7 0) :
    d.fnLoad c = d.fnRefuse c.id (opnd c.pkt.o2 7 0) stFnSlotInvalid := by
  simp [Dev.fnLoad, h]

theorem Dev.fnLoad_slot_busy (hlow : 8 ≤ opnd c.pkt.o2 7 0) (hhigh : opnd c.pkt.o2 7 0 ≤ 15) (h : (d.fnSlot c.fnIx).state ≠ 0) :
    d.fnLoad c = d.fnRefuse c.id (opnd c.pkt.o2 7 0) stFnSlotBusy := by
  rw [Dev.fnLoad, if_neg (fnSlot_valid hlow hhigh)]
  exact if_pos h

namespace Dev.FnTableReads
variable (h : d.FnTableReads c)
include h

theorem fnLoad_of_no_table (hparse : parseSegTable (d.mem.readBytes (opDa c.pkt.o0) (opnd c.pkt.o1 31 0)) = none) :
    d.fnLoad c = d.fnRefuse c.id (opnd c.pkt.o2 7 0) stFnTableFormat := by
  rw [Dev.fnLoad, if_neg (fnSlot_valid h.low h.high)]
  refine (if_neg (not_not_intro h.free)).trans ?_
  simp only [h.inMemory, Bool.not_true, Bool.false_eq_true, if_false, h.clean, hparse]

/-- A well-formed table is refused by its bounds or its seams, or its slot is CHECKING (R121, R122). -/
theorem fnLoad_of_table {t : SegTable} (hparse : parseSegTable (d.mem.readBytes (opDa c.pkt.o0) (opnd c.pkt.o1 31 0)) = some t) :
    d.fnLoad c =
      if segBoundsOk t = false then d.fnRefuse c.id (opnd c.pkt.o2 7 0) stFnTableBounds
      else if segSeamsOk t = false then d.fnRefuse c.id (opnd c.pkt.o2 7 0) stFnTableSeam
      else (d.setFnSlot c.fnIx { state := 1, table := some t, cmd := c.id }).setPhase c.id .running := by
  rw [Dev.fnLoad, if_neg (fnSlot_valid h.low h.high)]
  refine (if_neg (not_not_intro h.free)).trans ?_
  simp only [h.inMemory, Bool.not_true, Bool.false_eq_true, if_false, h.clean, hparse, Bool.not_eq_true', Cmd.fnIx]

end Dev.FnTableReads

/-- The end of the checks of a CHECKING slot: R122's range check comes before R123's monotone check. -/
theorem Dev.fnChecked_eq {k : Fin 8} {t : SegTable} (hstate : (d.fnSlot k).state = 1) (htable : (d.fnSlot k).table = some t) :
    d.fnChecked k =
      if segRangeOk t = false then (d.setFnSlot k {}).fnRefuse (d.fnSlot k).cmd (8 + k.val) stFnTableRange
      else if segMonoOk t = false then (d.setFnSlot k {}).fnRefuse (d.fnSlot k).cmd (8 + k.val) stFnNotMonotone
      else (d.setFnSlot k { d.fnSlot k with state := 2 }).okCmd (d.fnSlot k).cmd 0 0 0 := by
  simp [Dev.fnChecked, hstate, htable]

/-- What RELEASE does by the state of the slot it names (R124). -/
theorem Dev.fnRelease_eq (hlow : 8 ≤ opnd c.pkt.o2 7 0) (hhigh : opnd c.pkt.o2 7 0 ≤ 15) :
    d.fnRelease c =
      if (d.fnSlot c.fnIx).state = 2 then
        (if (d.fnSlot c.fnIx).holders.isEmpty then d.setFnSlot c.fnIx {}
          else d.setFnSlot c.fnIx { d.fnSlot c.fnIx with state := 3 }).okCmd c.id 0 0 0
      else if (d.fnSlot c.fnIx).state = 1 then d.fnRefuse c.id (opnd c.pkt.o2 7 0) stFnSlotBusy
      else d.fnRefuse c.id (opnd c.pkt.o2 7 0) stFnSlotState := by
  rw [Dev.fnRelease, if_neg (fnSlot_valid hlow hhigh)]
  rfl

end

-- Slip-table slots of one kiln (R263)

/-- A queued block is bound to a slot (R264, R265). -/
def SlipPart.binds (x : SlipPart) (i : Nat) : Bool := x.queue.any fun q => q.head.slot == i && q.table.isSome

/-- Slot i once a RETIRING slot without bound blocks is FREE (R263). -/
def SlipPart.settled (x : SlipPart) (i : Fin 4) : SlipSlot :=
  if (x.slots.get i).state = 2 && !x.binds i.val then {} else x.slots.get i

/-- R263 for one slot. -/
def SlipPart.settleSlot (i : Fin 4) (x : SlipPart) : SlipPart := if (x.slots.get i).state = 2 && !x.binds i.val then x.setSlot i {} else x

theorem SlipPart.settle_eq_foldl (x : SlipPart) : x.settle = (List.finRange 4).foldl (fun acc i => acc.settleSlot i) x := rfl

@[simp] theorem SlipPart.setSlot_get_same (i : Fin 4) (y : SlipSlot) (x : SlipPart) : (x.setSlot i y).slots.get i = y :=
  vec_set_get_same _ i y
theorem SlipPart.setSlot_get_other {i j : Fin 4} (y : SlipSlot) (x : SlipPart) (h : i ≠ j) : (x.setSlot i y).slots.get j = x.slots.get j :=
  vec_set_get_other _ i j y h
@[simp] theorem SlipPart.setSlot_binds (i : Fin 4) (y : SlipSlot) (x : SlipPart) (n : Nat) : (x.setSlot i y).binds n = x.binds n := rfl

theorem SlipPart.settled_of_state {x : SlipPart} {i : Fin 4} (h : (x.slots.get i).state ≠ 2) : x.settled i = x.slots.get i := by
  simp [SlipPart.settled, h]

@[simp] theorem SlipPart.settleSlot_binds (i : Fin 4) (x : SlipPart) (n : Nat) : (x.settleSlot i).binds n = x.binds n := by
  unfold SlipPart.settleSlot; split <;> rfl

theorem SlipPart.settleSlot_get_same (i : Fin 4) (x : SlipPart) : (x.settleSlot i).slots.get i = x.settled i := by
  unfold SlipPart.settleSlot SlipPart.settled; split <;> simp

theorem SlipPart.settleSlot_get_other {i j : Fin 4} (x : SlipPart) (h : i ≠ j) : (x.settleSlot i).slots.get j = x.slots.get j := by
  unfold SlipPart.settleSlot
  split
  · exact SlipPart.setSlot_get_other _ _ h
  · rfl

/-- Settling a slot settles nothing more later: what it frees stays FREE, and what it leaves is left again. -/
theorem SlipPart.settleSlot_settled (i j : Fin 4) (x : SlipPart) : (x.settleSlot i).settled j = x.settled j := by
  by_cases hij : i = j
  · subst hij
    rw [SlipPart.settled, SlipPart.settleSlot_get_same, SlipPart.settleSlot_binds]
    unfold SlipPart.settled
    split <;> simp_all
  · rw [SlipPart.settled, SlipPart.settleSlot_get_other x hij, SlipPart.settleSlot_binds, SlipPart.settled]

theorem SlipPart.foldl_settleSlot_get (l : List (Fin 4)) (j : Fin 4) (x : SlipPart) :
    (l.foldl (fun acc i => acc.settleSlot i) x).slots.get j = if j ∈ l then x.settled j else x.slots.get j := by
  induction l generalizing x with
  | nil => rfl
  | cons i l ih =>
    rw [List.foldl_cons, ih, SlipPart.settleSlot_settled]
    by_cases hij : i = j
    · subst hij
      simp [SlipPart.settleSlot_get_same]
    · simp [SlipPart.settleSlot_get_other x hij, Ne.symm hij]

/-- R263 for all four slots. -/
theorem SlipPart.settle_get (x : SlipPart) (j : Fin 4) : x.settle.slots.get j = x.settled j := by
  rw [SlipPart.settle_eq_foldl, SlipPart.foldl_settleSlot_get, if_pos (List.mem_finRange j)]

/-- Settling changes slots alone. -/
theorem SlipPart.settle_eq (x : SlipPart) : x.settle = { x with slots := x.settle.slots } := by
  rw [SlipPart.settle_eq_foldl]
  refine List.foldlRecOn (motive := fun y : SlipPart => y = { x with slots := y.slots }) _ _ rfl fun y hy i _ => ?_
  unfold SlipPart.settleSlot
  split
  · rw [SlipPart.setSlot, hy]
  · exact hy

/-- R263: a slot becomes RETIRING, and the kiln's slots settle. -/
def SlipPart.retireSlot (i : Fin 4) (x : SlipPart) : SlipPart := (x.setSlot i { x.slots.get i with state := 2 }).settle

theorem SlipPart.retireSlot_eq (i : Fin 4) (x : SlipPart) : x.retireSlot i = { x with slots := (x.retireSlot i).slots } :=
  SlipPart.settle_eq _

theorem SlipPart.retireSlot_get_unbound {i : Fin 4} {x : SlipPart} (h : x.binds i.val = false) : (x.retireSlot i).slots.get i = {} := by
  simp [SlipPart.retireSlot, SlipPart.settle_get, SlipPart.settled, h]

theorem SlipPart.retireSlot_get_bound {i : Fin 4} {x : SlipPart} (h : x.binds i.val = true) :
    (x.retireSlot i).slots.get i = { x.slots.get i with state := 2 } := by
  simp [SlipPart.retireSlot, SlipPart.settle_get, SlipPart.settled, h]

theorem SlipPart.retireSlot_get_other {i j : Fin 4} {x : SlipPart} (hij : i ≠ j) (h : (x.slots.get j).state ≠ 2) :
    (x.retireSlot i).slots.get j = x.slots.get j := by
  have hget : (x.setSlot i { x.slots.get i with state := 2 }).slots.get j = x.slots.get j := SlipPart.setSlot_get_other _ x hij
  rw [SlipPart.retireSlot, SlipPart.settle_get, SlipPart.settled_of_state (hget ▸ h), hget]

theorem SlipPart.slotState_eq (x : SlipPart) {i : Nat} (h : i ≤ 3) : x.slotState i = (x.slots.get (Fin.ofNat 4 i)).state := by
  have hi : i < 4 := Nat.lt_succ_of_le h
  simp [SlipPart.slotState, hi, Vector.get, Nat.mod_eq_of_lt hi]

-- The slip paths of several kilns

theorem mem_maskKilns {m : Nat} {k : Fin 12} : k ∈ maskKilns m ↔ m = 0 ∨ m.testBit k.val = true := by
  simp [maskKilns, bit]

theorem maskKilns_nodup (m : Nat) : (maskKilns m).Nodup := (List.nodup_finRange 12).filter _

/-- The slip paths of some kilns change alike. -/
def Dev.mapSlips (ks : List (Fin 12)) (f : SlipPart → SlipPart) (d : Dev) : Dev := d.each ks fun k d => d.setSlip k (f (d.slip k))

section
variable {ks : List (Fin 12)} {f : SlipPart → SlipPart} {d : Dev}

theorem Dev.mapSlips_cons (k : Fin 12) : d.mapSlips (k :: ks) f = (d.setSlip k (f (d.slip k))).mapSlips ks f := rfl

theorem Dev.setSlip_get_same (k : Fin 12) (x : SlipPart) : (d.setSlip k x).kilns.get k = { d.kilns.get k with slip := x } :=
  vmod_get_same _ k _
theorem Dev.setSlip_get_other {k k' : Fin 12} (x : SlipPart) (h : k ≠ k') : (d.setSlip k x).kilns.get k' = d.kilns.get k' :=
  vmod_get_other _ k k' _ h

/-- Only the kilns change. -/
theorem Dev.mapSlips_eq : d.mapSlips ks f = { d with kilns := (d.mapSlips ks f).kilns } :=
  Dev.each_keeps (P := fun e => e = { d with kilns := e.kilns }) rfl fun k e he => by rw [Dev.setSlip, he]

/-- The new kilns come from the kilns alone. -/
theorem Dev.mapSlips_kilns_congr {e : Dev} (h : e.kilns = d.kilns) : (e.mapSlips ks f).kilns = (d.mapSlips ks f).kilns := by
  induction ks generalizing d e with
  | nil => exact h
  | cons k ks ih => exact ih (by simp only [Dev.setSlip, Dev.slip, h])

theorem Dev.mapSlips_link : (d.mapSlips ks f).link = d.link := by rw [Dev.mapSlips_eq]

theorem Dev.mapSlips_get_other {k : Fin 12} (h : k ∉ ks) : (d.mapSlips ks f).kilns.get k = d.kilns.get k := by
  induction ks generalizing d with
  | nil => rfl
  | cons k' ks ih =>
    rw [Dev.mapSlips_cons, ih (List.not_mem_of_not_mem_cons h), Dev.setSlip_get_other _ (Ne.symm (List.ne_of_not_mem_cons h))]

theorem Dev.mapSlips_get {k : Fin 12} (hnodup : ks.Nodup) (h : k ∈ ks) :
    (d.mapSlips ks f).kilns.get k = { d.kilns.get k with slip := f (d.slip k) } := by
  induction ks generalizing d with
  | nil => cases h
  | cons k' ks ih =>
    obtain ⟨hfirst, hrest⟩ := List.nodup_cons.mp hnodup
    rw [Dev.mapSlips_cons]
    by_cases hk : k' = k
    · subst hk
      rw [Dev.mapSlips_get_other hfirst, Dev.setSlip_get_same]
    · have hget : (d.setSlip k' (f (d.slip k'))).kilns.get k = d.kilns.get k := Dev.setSlip_get_other _ hk
      rw [ih hrest ((List.mem_cons.mp h).resolve_left (Ne.symm hk)), hget, Dev.slip, hget, Dev.slip]

end

-- SLIP_TABLE_LOAD (R262, R263)

/-- The slot that a SLIP_TABLE_LOAD packet names. -/
def Cmd.slipIx (c : Cmd) : Fin 4 := Fin.ofNat 4 (opnd c.pkt.o2 7 0)

/-- The kilns that its mask names. -/
def Cmd.slipKilns (c : Cmd) : List (Fin 12) := maskKilns (opnd c.pkt.o2 31 16)

/-- The packet names a slot that kilns have, and no kiln beyond the twelve. -/
structure Cmd.NamesSlipSlots (c : Cmd) : Prop where
  slot : opnd c.pkt.o2 7 0 ≤ 3
  mask : opnd c.pkt.o2 31 16 ≤ 4095

/-- The slot named is in state n in every kiln named. -/
def Dev.SlipSlotsIn (d : Dev) (c : Cmd) (n : Nat) : Prop := ∀ k ∈ c.slipKilns, ((d.slip k).slots.get c.slipIx).state = n

/-- The slot named becomes RETIRING in every kiln named (R263). -/
def Dev.retireSlips (c : Cmd) (d : Dev) : Dev := d.mapSlips c.slipKilns (SlipPart.retireSlot c.slipIx)

section
variable {d : Dev} {c : Cmd} {k : Fin 12}

theorem Dev.retireSlips_get (hk : k ∈ c.slipKilns) :
    (d.retireSlips c).kilns.get k = { d.kilns.get k with slip := (d.slip k).retireSlot c.slipIx } :=
  Dev.mapSlips_get (maskKilns_nodup _) hk

theorem Dev.retireSlips_get_other (hk : k ∉ c.slipKilns) : (d.retireSlips c).kilns.get k = d.kilns.get k :=
  Dev.mapSlips_get_other hk

theorem Dev.retireSlips_slip (hk : k ∈ c.slipKilns) : (d.retireSlips c).slip k = (d.slip k).retireSlot c.slipIx := by
  rw [Dev.slip, Dev.retireSlips_get hk]

theorem Dev.retireSlips_unbound (hk : k ∈ c.slipKilns) (h : (d.slip k).binds c.slipIx.val = false) :
    ((d.retireSlips c).slip k).slots.get c.slipIx = {} := by
  rw [Dev.retireSlips_slip hk, SlipPart.retireSlot_get_unbound h]

theorem Dev.retireSlips_bound (hk : k ∈ c.slipKilns) (h : (d.slip k).binds c.slipIx.val = true) :
    ((d.retireSlips c).slip k).slots.get c.slipIx = { (d.slip k).slots.get c.slipIx with state := 2 } := by
  rw [Dev.retireSlips_slip hk, SlipPart.retireSlot_get_bound h]

/-- Of the other slots only those that were RETIRING may change. -/
theorem Dev.retireSlips_other_slot {j : Fin 4} (hj : j ≠ c.slipIx) (h : ((d.slip k).slots.get j).state ≠ 2) :
    ((d.retireSlips c).slip k).slots.get j = (d.slip k).slots.get j := by
  by_cases hk : k ∈ c.slipKilns
  · rw [Dev.retireSlips_slip hk, SlipPart.retireSlot_get_other (Ne.symm hj) h]
  · rw [Dev.slip, Dev.retireSlips_get_other hk, Dev.slip]

/-- Of a kiln only slots change. -/
theorem Dev.retireSlips_kiln (k : Fin 12) :
    (d.retireSlips c).kilns.get k =
      { d.kilns.get k with slip := { d.slip k with slots := ((d.retireSlips c).slip k).slots } } := by
  by_cases hk : k ∈ c.slipKilns
  · rw [Dev.retireSlips_slip hk, ← SlipPart.retireSlot_eq, Dev.retireSlips_get hk]
  · rw [Dev.slip, Dev.slip, Dev.retireSlips_get_other hk]

theorem Dev.slipLoad_slot_invalid (h : 3 < opnd c.pkt.o2 7 0 ∨ 4095 < opnd c.pkt.o2 31 16) :
    d.slipLoad c = d.refuse c.id stSlipSlotInvalid := by
  simp [Dev.slipLoad, h]

namespace Cmd.NamesSlipSlots
variable (h : c.NamesSlipSlots)
include h

theorem ix_val : c.slipIx.val = opnd c.pkt.o2 7 0 := Nat.mod_eq_of_lt (Nat.lt_succ_of_le h.slot)

/-- The check of the slots, as the two commands make it. -/
theorem any_slotState_ne_iff (n : Nat) :
    ((maskKilns (opnd c.pkt.o2 31 16)).any fun k => (d.slip k).slotState (opnd c.pkt.o2 7 0) != n) = true ↔ ¬ d.SlipSlotsIn c n := by
  simp [Dev.SlipSlotsIn, Cmd.slipKilns, Cmd.slipIx, SlipPart.slotState_eq _ h.slot]

theorem slipLoad_busy (hbusy : ¬ d.SlipSlotsIn c 0) : d.slipLoad c = d.refuse c.id stSlipSlotBusy := by
  rw [Dev.slipLoad, if_neg (by simp [h.slot, h.mask]), if_pos ((h.any_slotState_ne_iff 0).mpr hbusy)]

theorem slipLoad_of_table {t : SlipTable} (hfree : d.SlipSlotsIn c 0) (hmem : d.daOk (opDa c.pkt.o0) (opnd c.pkt.o1 31 0) = true)
    (hclean : d.mem.firstPoison (opDa c.pkt.o0) (opnd c.pkt.o1 31 0) = none)
    (hparse : parseSlipTable (d.mem.readBytes (opDa c.pkt.o0) (opnd c.pkt.o1 31 0)) = some t) :
    d.slipLoad c =
      ((d.heat (opDa c.pkt.o0) (opnd c.pkt.o1 31 0)).mapSlips c.slipKilns
        (SlipPart.setSlot c.slipIx { state := 1, table := some t })).okCmd c.id 0 0 0 := by
  rw [Dev.slipLoad, if_neg (by simp [h.slot, h.mask]), if_neg (mt (h.any_slotState_ne_iff 0).mp (not_not_intro hfree)),
    Dev.fetchBytes_eq _ _ _ _ _ hmem hclean, hparse]
  rfl

theorem slipRelease_refused (hstate : ¬ d.SlipSlotsIn c 1) : d.slipRelease c = d.refuse c.id stSlipSlotState := by
  rw [Dev.slipRelease, if_neg (by simp [h.slot, h.mask]), if_pos ((h.any_slotState_ne_iff 1).mpr hstate)]

theorem slipRelease_loaded (hloaded : d.SlipSlotsIn c 1) : d.slipRelease c = (d.retireSlips c).okCmd c.id 0 0 0 := by
  rw [Dev.slipRelease, if_neg (by simp [h.slot, h.mask]), if_neg (mt (h.any_slotState_ne_iff 1).mp (not_not_intro hloaded))]
  rfl

end Cmd.NamesSlipSlots

/-- A command that has changed slip paths completes. -/
theorem Dev.mapSlips_okCmd {ks : List (Fin 12)} {f : SlipPart → SlipPart} (h : d.cmd c.id = some c) (hp : c.phase ≠ .done)
    (hu : c.Unbounded) :
    (d.mapSlips ks f).okCmd c.id 0 0 0 =
      { d with kilns := (d.mapSlips ks f).kilns, link := (d.replied c.id stOk (vals 0 0 0)).link } := by
  have hcmd : (d.mapSlips ks f).cmd c.id = some c := (Dev.cmd_of_link _ _ Dev.mapSlips_link _).trans h
  rw [Dev.okCmd_eq _ _ _ _ _ c hcmd hp hu, Dev.mapSlips_eq]
  rfl

/-- The same after a read of memory, which heats its range. -/
theorem Dev.mapSlips_heat_okCmd {a n : Nat} {ks : List (Fin 12)} {f : SlipPart → SlipPart} (h : d.cmd c.id = some c)
    (hp : c.phase ≠ .done) (hu : c.Unbounded) :
    ((d.heat a n).mapSlips ks f).okCmd c.id 0 0 0 =
      { d with tier := (d.heat a n).tier, kilns := (d.mapSlips ks f).kilns, link := (d.replied c.id stOk (vals 0 0 0)).link } := by
  have hkilns : (d.heat a n).kilns = d.kilns := by rw [Dev.heat_eq]
  have hcmd : (d.heat a n).cmd c.id = some c := (Dev.cmd_of_link _ _ (Dev.heat_link _ _ _) _).trans h
  rw [Dev.mapSlips_okCmd hcmd hp hu, Dev.mapSlips_kilns_congr hkilns, Dev.heat_eq]
  rfl

end

-- The commands

section
variable {tag : Tag} {s : State} {c : Cmd} {f : Dev → Dev}

/-- What a command's operation does to the device at hand is what the command does. -/
theorem Dev.Takes.onDev_onCmd {op : Byte} {g : Cmd → Dev → Dev} (ht : s.dev.Takes tag op c) (h : g c s.dev = f s.dev) :
    s.onDev (Dev.onCmd tag op g) = s.onDev f :=
  s.onDev_congr ((Dev.onCmd_taken tag op g s.dev c ht.1).trans h)

theorem exec_fnTableLoad_of (ht : s.dev.Takes tag 0x40#8 c) (hload : c.pkt.o2.getLsbD 16 = false) (h : s.dev.fnLoad c = f s.dev) :
    exec (.fnTableLoad tag) s = .next (s.onDev f) :=
  congrArg _ (ht.onDev_onCmd (by rw [hload]; exact h))

theorem exec_fnTableCheckComplete_of {k : Fin 8} (h : s.dev.fnChecked k = f s.dev) :
    exec (.fnTableCheckComplete k) s = .next (s.onDev f) :=
  congrArg _ (s.onDev_congr h)

theorem exec_fnTableRelease_of (ht : s.dev.Takes tag 0x40#8 c) (hrel : c.pkt.o2.getLsbD 16 = true) (h : s.dev.fnRelease c = f s.dev) :
    exec (.fnTableRelease tag) s = .next (s.onDev f) :=
  congrArg _ (ht.onDev_onCmd (by rw [hrel]; exact h))

theorem exec_slipTableLoad_of (ht : s.dev.Takes tag 0x41#8 c) (hload : c.pkt.o2.getLsbD 32 = false) (h : s.dev.slipLoad c = f s.dev) :
    exec (.slipTableLoad tag) s = .next (s.onDev f) :=
  congrArg _ (ht.onDev_onCmd (by rw [hload]; exact h))

theorem exec_slipTableRelease_of (ht : s.dev.Takes tag 0x41#8 c) (hrel : c.pkt.o2.getLsbD 32 = true) (h : s.dev.slipRelease c = f s.dev) :
    exec (.slipTableRelease tag) s = .next (s.onDev f) :=
  congrArg _ (ht.onDev_onCmd (by rw [hrel]; exact h))

end

/-- Settles O27: the function tables by the slot's state and the table's checks, the slip tables kiln by kiln over those that the mask
names. -/
theorem functionAndSlipTablesComeAndGo : Obligations.FunctionAndSlipTablesComeAndGo := by
  unfold Obligations.FunctionAndSlipTablesComeAndGo
  refine ⟨fun tag s c hu => ⟨fun ht hload => ⟨fun hlow hhigh hfree hmem hclean => ?_, fun hslot => ?_, fun hlow hhigh hbusy => ?_⟩,
      fun t hslot hstate htable hid hcmd hp => ?_, fun ht hrel hlow hhigh => ?_⟩,
    fun tag s c ht hu => ⟨fun hload => ⟨fun t hslot hmask hfree hmem hclean hparse => ?_, fun hnone => ?_, fun hslot hmask hbusy => ?_⟩,
      fun hrel hslot hmask => ⟨fun hloaded => ?_, fun hstate => ?_⟩⟩⟩
  · have hreads : s.dev.FnTableReads c := ⟨hlow, hhigh, hfree, hmem, hclean⟩
    refine ⟨fun t hparse hbounds hseams => ?_, fun hparse => ?_, fun t hparse hbounds => ?_, fun t hparse hbounds hseams => ?_⟩
    · refine exec_fnTableLoad_of ht hload ?_
      rw [hreads.fnLoad_of_table hparse, hbounds, hseams]
      rfl
    · exact exec_fnTableLoad_of ht hload ((hreads.fnLoad_of_no_table hparse).trans (Dev.fnRefuse_eq _ ht.2 ht.not_done))
    · refine exec_fnTableLoad_of ht hload ?_
      rw [hreads.fnLoad_of_table hparse, hbounds]
      exact Dev.fnRefuse_eq _ ht.2 ht.not_done
    · refine exec_fnTableLoad_of ht hload ?_
      rw [hreads.fnLoad_of_table hparse, hbounds, hseams]
      exact Dev.fnRefuse_eq _ ht.2 ht.not_done
  · exact exec_fnTableLoad_of ht hload ((Dev.fnLoad_slot_invalid hslot).trans (Dev.fnRefuse_eq _ ht.2 ht.not_done))
  · exact exec_fnTableLoad_of ht hload ((Dev.fnLoad_slot_busy hlow hhigh hbusy).trans (Dev.fnRefuse_eq _ ht.2 ht.not_done))
  · refine ⟨fun hrange hmono => ?_, fun hrange => ?_, fun hrange hmono => ?_⟩ <;> refine exec_fnTableCheckComplete_of ?_ <;>
      rw [Dev.fnChecked_eq hstate htable, hrange]
    · rw [hmono, Dev.fnSlot, hid]
      exact Dev.okCmd_eq _ _ _ _ _ c hcmd hp hu
    · rw [if_pos rfl, ← hslot, Dev.fnSlot, hid]
      exact Dev.fnRefuse_eq _ hcmd hp
    · rw [hmono, if_neg (by decide), if_pos rfl, ← hslot, Dev.fnSlot, hid]
      exact Dev.fnRefuse_eq _ hcmd hp
  · refine ⟨fun hstate hidle => ?_, fun hstate hheld => ?_, fun hstate => ?_, fun hone htwo => ?_⟩ <;>
      refine exec_fnTableRelease_of ht hrel ?_ <;> rw [Dev.fnRelease_eq hlow hhigh, Dev.fnSlot, Cmd.fnIx]
    · rw [if_pos hstate, if_pos (List.isEmpty_iff.mpr hidle)]
      exact Dev.okCmd_eq _ _ _ _ _ c ht.2 ht.not_done hu
    · rw [if_pos hstate, if_neg (mt List.isEmpty_iff.mp hheld)]
      exact Dev.okCmd_eq _ _ _ _ _ c ht.2 ht.not_done hu
    · rw [hstate, if_neg (by decide), if_pos rfl]
      exact Dev.fnRefuse_eq _ ht.2 ht.not_done
    · rw [if_neg htwo, if_neg hone]
      exact Dev.fnRefuse_eq _ ht.2 ht.not_done
  · have hslots : c.NamesSlipSlots := ⟨hslot, hmask⟩
    have hslip := (hslots.slipLoad_of_table (fun k hk => hfree k (mem_maskKilns.mp hk)) hmem hclean hparse).trans
      (Dev.mapSlips_heat_okCmd ht.2 ht.not_done hu)
    exact ⟨_, exec_slipTableLoad_of (f := fun _ => _) ht hload hslip, rfl,
      fun k hk => Dev.mapSlips_get (maskKilns_nodup _) (mem_maskKilns.mpr hk),
      fun k hk => Dev.mapSlips_get_other (mt mem_maskKilns.mp hk)⟩
  · exact exec_slipTableLoad_of ht hload
      ((Dev.slipLoad_slot_invalid hnone).trans (Dev.refuse_eq _ _ _ c ht.2 ht.not_done (by decide) (by decide)))
  · obtain ⟨k, hk, hbusy⟩ := hbusy
    have hslots : c.NamesSlipSlots := ⟨hslot, hmask⟩
    exact exec_slipTableLoad_of ht hload ((hslots.slipLoad_busy fun hfree => hbusy (hfree k (mem_maskKilns.mpr hk))).trans
      (Dev.refuse_eq _ _ _ c ht.2 ht.not_done (by decide) (by decide)))
  · have hslots : c.NamesSlipSlots := ⟨hslot, hmask⟩
    have hslip := (hslots.slipRelease_loaded fun k hk => hloaded k (mem_maskKilns.mp hk)).trans
      (Dev.mapSlips_okCmd ht.2 ht.not_done hu)
    have hbinds : ∀ k, (s.dev.slip k).binds c.slipIx.val = (s.dev.slip k).binds (opnd c.pkt.o2 7 0) := fun k => by rw [hslots.ix_val]
    exact ⟨_, exec_slipTableRelease_of (f := fun _ => _) ht hrel hslip, rfl,
      fun k hk hqueue => Dev.retireSlips_unbound (mem_maskKilns.mpr hk) ((hbinds k).trans hqueue),
      fun k hk hqueue => Dev.retireSlips_bound (mem_maskKilns.mpr hk) ((hbinds k).trans hqueue),
      fun k j => Dev.retireSlips_other_slot, Dev.retireSlips_kiln,
      fun k hk => Dev.retireSlips_get_other (mt mem_maskKilns.mp hk)⟩
  · obtain ⟨k, hk, hstate⟩ := hstate
    have hslots : c.NamesSlipSlots := ⟨hslot, hmask⟩
    exact exec_slipTableRelease_of ht hrel ((hslots.slipRelease_refused fun hloaded => hstate (hloaded k (mem_maskKilns.mpr hk))).trans
      (Dev.refuse_eq _ _ _ c ht.2 ht.not_done (by decide) (by decide)))

end Sys2Proof.Machine
end


section
/-! Programs: what PROGRAM_LOAD makes of an image, check by check, and what PROGRAM_UNLOAD does to the program table (R206, R208,
R209). -/
namespace Sys2Proof.Machine

/-- A choice among the elements of a list that is not empty takes one of them. -/
theorem Dev.pick_of_ne_nil {α : Type} {l : List α} (h : l ≠ []) (d : Dev) : ∃ x ∈ l, (d.pick l).1 = some x := by
  have hlt : Config.freeChoice d.freeCtr % l.length < l.length := Nat.mod_lt _ (List.length_pos_iff.mpr h)
  exact ⟨_, List.getElem_mem hlt, List.getElem?_eq_getElem hlt⟩

@[simp] theorem Dev.heat_freeCtr (a n : Nat) (d : Dev) : (d.heat a n).freeCtr = d.freeCtr := by rw [Dev.heat_eq]
@[simp] theorem Dev.heat_progs (a n : Nat) (d : Dev) : (d.heat a n).progs = d.progs := by rw [Dev.heat_eq]

-- Handles (R206)

/-- The handles below 256 that no program holds. -/
def Dev.freeHandles (d : Dev) : List Nat := (List.range 256).filter fun h => !(d.progs.programs.any fun p => p.handle == h)

theorem Dev.mem_freeHandles {d : Dev} {h : Nat} : h ∈ d.freeHandles ↔ h < 256 ∧ ∀ p ∈ d.progs.programs, p.handle ≠ h := by
  simp [Dev.freeHandles]

/-- A list that holds every number below n has at least n elements. -/
theorem le_length_of_forall_lt_mem {n : Nat} {l : List Nat} (h : ∀ k, k < n → k ∈ l) : n ≤ l.length := by
  induction n generalizing l with
  | zero => exact Nat.zero_le _
  | succ n ih =>
    have hn : n ∈ l := h n (Nat.lt_succ_self n)
    have herase : n ≤ (l.erase n).length :=
      ih fun k hk => (List.mem_erase_of_ne (Nat.ne_of_lt hk)).mpr (h k (Nat.lt_succ_of_lt hk))
    have hpos : 0 < l.length := List.length_pos_of_mem hn
    rw [List.length_erase_of_mem hn] at herase
    omega

/-- A table of fewer than 256 programs leaves a handle free. -/
theorem Dev.freeHandles_ne_nil {d : Dev} (h : d.progs.programs.length < 256) : d.freeHandles ≠ [] := by
  intro hnil
  have hheld : ∀ n, n < 256 → n ∈ d.progs.programs.map (·.handle) := fun n hn =>
    Classical.byContradiction fun hfree =>
      have hmem : n ∈ d.freeHandles := Dev.mem_freeHandles.mpr ⟨hn, fun p hp hpn => hfree (List.mem_map.mpr ⟨p, hp, hpn⟩)⟩
      List.not_mem_nil (hnil ▸ hmem)
  have hlen := le_length_of_forall_lt_mem hheld
  rw [List.length_map] at hlen
  omega

-- PROGRAM_LOAD (R206, R209)

/-- The bytes of the image that a PROGRAM_LOAD packet names. -/
def Dev.imageBytes (d : Dev) (c : Cmd) : List Byte := d.mem.readBytes (opDa c.pkt.o0) (opnd c.pkt.o1 39 0)

/-- The image is read: the program table has room, and the range makes no fault and holds no poisoned word. -/
structure Dev.ImageReads (d : Dev) (c : Cmd) : Prop where
  room : d.progs.programs.length < 256
  mem : d.daOk (opDa c.pkt.o0) (opnd c.pkt.o1 39 0) = true
  clean : d.mem.firstPoison (opDa c.pkt.o0) (opnd c.pkt.o1 39 0) = none

/-- The image read carries a good header and digest and the numerics version in force. -/
structure Dev.ImageCurrent (d : Dev) (c : Cmd) : Prop extends d.ImageReads c where
  header : headerOk (d.imageBytes c) (opnd c.pkt.o1 39 0) = true
  digest : digestOk (d.imageBytes c) = true
  version : BitVec.ofNat 32 (bytesAt (d.imageBytes c) 19 16) = d.numerics

section
variable {d : Dev} {c : Cmd}

/-- The device after the image that a packet names has been read and its program has taken a handle. -/
def Dev.programLoaded (c : Cmd) (h : Nat) (im : Image) (d : Dev) : Dev :=
  { d.heat (opDa c.pkt.o0) (opnd c.pkt.o1 39 0) with
    freeCtr := d.freeCtr + 1
    progs := { d.progs with programs := d.progs.programs ++ [{ handle := h, image := im, retiring := false, scratch := im.scratchOf }] } }

theorem Dev.programLoaded_cmd (h : Nat) (im : Image) (id : Nat) : (d.programLoaded c h im).cmd id = d.cmd id :=
  Dev.cmd_of_link _ _ (Dev.heat_link _ _ d) id

/-- How a load ends whose image's bytes pass their checks: by the records, where they can be read, and by what the checks of them say. -/
def Dev.loadRecords (c : Cmd) (d : Dev) : Option Image → Dev
  | none => d.loadRefuse c.id stImageFormat
  | some im =>
    match d.imageStatus im with
    | some st => d.loadRefuse c.id st
    | none => (d.programLoaded c ((d.pick d.freeHandles).1.getD 0) im).okCmd c.id ((d.pick d.freeHandles).1.getD 0) 0 0

theorem Dev.loadRefuse_eq {st : Half} (h : d.cmd c.id = some c) (hp : c.phase ≠ .done) (hdeadline : st ≠ stDeadline)
    (hdenied : st ≠ stDebugDenied) :
    d.loadRefuse c.id st = ({ d with progs := { d.progs with lastRefusal := st } } : Dev).replied c.id st (vals 0 0 0) :=
  Dev.refuse_eq _ _ _ c h hp hdeadline hdenied

theorem Dev.programLoad_full (h : 256 ≤ d.progs.programs.length) :
    d.programLoad c = ({ d with progs := { d.progs with fullSeen := true } } : Dev).loadRefuse c.id stProgramTableFull := by
  rw [Dev.programLoad, if_pos h]

theorem Dev.programLoad_fault (hroom : d.progs.programs.length < 256)
    (h : d.daOk (opDa c.pkt.o0) (opnd c.pkt.o1 39 0) = false) : d.programLoad c = d.loadRefuse c.id stAddress := by
  rw [Dev.programLoad, if_neg (Nat.not_le.mpr hroom), h]
  rfl

namespace Dev.ImageReads
variable (h : d.ImageReads c)
include h

/-- What follows the read: the checks of the image's bytes in their order, each with the status it refuses with. -/
theorem programLoad_eq :
    d.programLoad c =
      if headerOk (d.imageBytes c) (opnd c.pkt.o1 39 0) = false then d.loadRefuse c.id stImageFormat
      else if digestOk (d.imageBytes c) = false then d.loadRefuse c.id stImageDigest
      else if BitVec.ofNat 32 (bytesAt (d.imageBytes c) 19 16) ≠ d.numerics then d.loadRefuse c.id stNumericsVersion
      else d.loadRecords c (parseImage (d.imageBytes c)) := by
  rw [Dev.programLoad, if_neg (Nat.not_le.mpr h.room), h.mem, h.clean]
  simp only [Bool.not_eq_true', Dev.pick, Dev.choose, Dev.heat_freeCtr, Dev.heat_progs]
  rfl

theorem programLoad_of_header (hheader : headerOk (d.imageBytes c) (opnd c.pkt.o1 39 0) = false) :
    d.programLoad c = d.loadRefuse c.id stImageFormat := by
  rw [h.programLoad_eq, if_pos hheader]

theorem programLoad_of_digest (hheader : headerOk (d.imageBytes c) (opnd c.pkt.o1 39 0) = true)
    (hdigest : digestOk (d.imageBytes c) = false) : d.programLoad c = d.loadRefuse c.id stImageDigest := by
  rw [h.programLoad_eq, hheader, if_neg (by decide), if_pos hdigest]

theorem programLoad_of_version (hheader : headerOk (d.imageBytes c) (opnd c.pkt.o1 39 0) = true)
    (hdigest : digestOk (d.imageBytes c) = true) (hversion : BitVec.ofNat 32 (bytesAt (d.imageBytes c) 19 16) ≠ d.numerics) :
    d.programLoad c = d.loadRefuse c.id stNumericsVersion := by
  rw [h.programLoad_eq, hheader, hdigest, if_neg (by decide), if_neg (by decide), if_pos hversion]

end Dev.ImageReads

namespace Dev.ImageCurrent
variable (h : d.ImageCurrent c)
include h

theorem programLoad_eq : d.programLoad c = d.loadRecords c (parseImage (d.imageBytes c)) := by
  rw [h.toImageReads.programLoad_eq, h.header, h.digest, if_neg (by decide), if_neg (by decide), if_neg (not_not_intro h.version)]

theorem programLoad_of_parse (hparse : parseImage (d.imageBytes c) = none) : d.programLoad c = d.loadRefuse c.id stImageFormat := by
  rw [h.programLoad_eq, hparse, Dev.loadRecords]

theorem programLoad_of_status {im : Image} {st : Half} (hparse : parseImage (d.imageBytes c) = some im)
    (hstatus : d.imageStatus im = some st) : d.programLoad c = d.loadRefuse c.id st := by
  rw [h.programLoad_eq, hparse, Dev.loadRecords, hstatus]

/-- An image that passes every check takes a free handle. -/
theorem programLoad_loads {im : Image} (hparse : parseImage (d.imageBytes c) = some im)
    (hstatus : d.imageStatus im = none) :
    ∃ n ∈ d.freeHandles, d.programLoad c = (d.programLoaded c n im).okCmd c.id n 0 0 := by
  obtain ⟨n, hn, hpick⟩ := Dev.pick_of_ne_nil (Dev.freeHandles_ne_nil h.room) d
  refine ⟨n, hn, ?_⟩
  rw [h.programLoad_eq, hparse, Dev.loadRecords, hstatus, hpick, Option.getD_some]

end Dev.ImageCurrent

-- PROGRAM_UNLOAD (R208)

/-- The programs that stay in the table when those with a handle retire: the ones that do not retire, and those with a launch that has
not ended. -/
def Dev.programsKept (h : Nat) (d : Dev) : List Program :=
  (d.progs.programs.map fun (p : Program) => if p.handle = h then { p with retiring := true } else p).filter fun p =>
    !p.retiring || d.launches.any fun l => l.handle == p.handle && l.phase != .ended

theorem Dev.programUnload_live {p : Program} (hlive : d.liveProgram (opnd c.pkt.o0 7 0) = some p)
    (hfree : d.programHeld (opnd c.pkt.o0 7 0) = false) :
    d.programUnload c =
      ({ d with progs := { d.progs with programs := d.programsKept (opnd c.pkt.o0 7 0) } } : Dev).okCmd c.id 0 0 0 := by
  simp only [Dev.programUnload, hlive, hfree, Bool.false_eq_true, if_false, Dev.settlePrograms, beq_iff_eq]
  rfl

theorem Dev.programUnload_held {p : Program} (hlive : d.liveProgram (opnd c.pkt.o0 7 0) = some p)
    (hheld : d.programHeld (opnd c.pkt.o0 7 0) = true) : d.programUnload c = d.refuse c.id stProgramBusy := by
  simp only [Dev.programUnload, hlive, hheld, if_true]

theorem Dev.programUnload_none (h : d.liveProgram (opnd c.pkt.o0 7 0) = none) :
    d.programUnload c = d.refuse c.id stProgramInvalid := by
  simp only [Dev.programUnload, h]

end

-- The commands

section
variable {tag : Tag} {s : State} {c : Cmd} {f : Dev → Dev}

theorem exec_programLoad_of (ht : s.dev.Takes tag 0x10#8 c) (h : s.dev.programLoad c = f s.dev) :
    exec (.programLoad tag) s = .next (s.onDev f) :=
  congrArg _ (ht.onDev_onCmd h)

theorem exec_programUnload_of (ht : s.dev.Takes tag 0x11#8 c) (h : s.dev.programUnload c = f s.dev) :
    exec (.programUnload tag) s = .next (s.onDev f) :=
  congrArg _ (ht.onDev_onCmd h)

/-- A PROGRAM_LOAD that a check refuses keeps the status and completes with it. -/
theorem exec_programLoad_refused {st : Half} (ht : s.dev.Takes tag 0x10#8 c) (h : s.dev.programLoad c = s.dev.loadRefuse c.id st)
    (hdeadline : st ≠ stDeadline) (hdenied : st ≠ stDebugDenied) :
    exec (.programLoad tag) s = .next (s.onDev fun d =>
      ({ d with progs := { d.progs with lastRefusal := st } } : Dev).replied c.id st (vals 0 0 0)) :=
  exec_programLoad_of ht (h.trans (Dev.loadRefuse_eq ht.2 ht.not_done hdeadline hdenied))

end

/-- Settles O15: a load by the first check that fails, or by a handle that the table leaves free; an unload by the program's state and
by what holds it. -/
theorem programsAreLoadedAndUnloaded : Obligations.ProgramsAreLoadedAndUnloaded := by
  unfold Obligations.ProgramsAreLoadedAndUnloaded
  refine ⟨fun tag s c im ht hu hroom hmem hclean hheader hdigest hversion hparse hstatus => ?_,
    fun tag s c ht => ⟨fun hfull => ?_, fun hroom => ⟨fun hfault => ?_, fun hmem hclean => ?_⟩⟩,
    fun tag s c ht hu => ⟨fun p hlive hfree => ?_, fun p hlive hheld => ?_, fun hnone => ?_⟩⟩
  · have hcurrent : s.dev.ImageCurrent c := ⟨⟨hroom, hmem, hclean⟩, hheader, hdigest, hversion⟩
    obtain ⟨h, hfree, hload⟩ := hcurrent.programLoad_loads hparse hstatus
    obtain ⟨hlt, hnew⟩ := Dev.mem_freeHandles.mp hfree
    exact ⟨h, hlt, hnew, exec_programLoad_of ht
      (hload.trans (Dev.okCmd_eq _ _ _ _ _ c ((Dev.programLoaded_cmd h im _).trans ht.2) ht.not_done hu))⟩
  · exact exec_programLoad_of ht
      ((Dev.programLoad_full hfull).trans (Dev.loadRefuse_eq ht.2 ht.not_done (by decide) (by decide)))
  · exact exec_programLoad_refused ht (Dev.programLoad_fault hroom hfault) (by decide) (by decide)
  · have hreads : s.dev.ImageReads c := ⟨hroom, hmem, hclean⟩
    refine ⟨fun hheader => ?_, fun hheader hdigest => ?_, fun hheader hdigest hversion => ?_, fun hheader hdigest hversion hparse => ?_,
      fun im st hheader hdigest hversion hparse hstatus hdeadline hdenied => ?_⟩
    · exact exec_programLoad_refused ht (hreads.programLoad_of_header hheader) (by decide) (by decide)
    · exact exec_programLoad_refused ht (hreads.programLoad_of_digest hheader hdigest) (by decide) (by decide)
    · exact exec_programLoad_refused ht (hreads.programLoad_of_version hheader hdigest hversion) (by decide) (by decide)
    · have hcurrent : s.dev.ImageCurrent c := ⟨hreads, hheader, hdigest, hversion⟩
      exact exec_programLoad_refused ht (hcurrent.programLoad_of_parse hparse) (by decide) (by decide)
    · have hcurrent : s.dev.ImageCurrent c := ⟨hreads, hheader, hdigest, hversion⟩
      exact exec_programLoad_refused ht (hcurrent.programLoad_of_status hparse hstatus) hdeadline hdenied
  · exact exec_programUnload_of ht ((Dev.programUnload_live hlive hfree).trans (Dev.okCmd_eq _ _ _ _ _ c ht.2 ht.not_done hu))
  · exact exec_programUnload_of ht
      ((Dev.programUnload_held hlive hheld).trans (Dev.refuse_eq _ _ _ c ht.2 ht.not_done (by decide) (by decide)))
  · exact exec_programUnload_of ht
      ((Dev.programUnload_none hnone).trans (Dev.refuse_eq _ _ _ c ht.2 ht.not_done (by decide) (by decide)))

end Sys2Proof.Machine
end


section
/-! Launches and lists: what admission makes of a LAUNCH, and how a LAUNCH_LIST begins (R213, R405, R513). -/
namespace Sys2Proof.Machine

-- The first element that a test holds of, changed twice

theorem updFirst_updFirst {α : Type} {p : α → Bool} {f g : α → α} (h : ∀ x, p (g x) = p x) (l : List α) :
    updFirst p f (updFirst p g l) = updFirst p (fun x => f (g x)) l := by
  induction l with
  | nil => rfl
  | cons x l ih => by_cases hx : p x = true <;> simp [updFirst, hx, h, ih]

theorem find?_updFirst {α : Type} {p : α → Bool} {f : α → α} (h : ∀ x, p (f x) = p x) (l : List α) :
    (updFirst p f l).find? p = (l.find? p).map f := by
  induction l with
  | nil => rfl
  | cons x l ih => by_cases hx : p x = true <;> simp [updFirst, hx, h, ih]

section
variable {d : Dev} {id : Nat} {c : Cmd}

/-- A command whose phase is set is found in that phase. -/
theorem Dev.setPhase_cmd (h : d.cmd id = some c) (p : Phase) : (d.setPhase id p).cmd id = some { c with phase := p } := by
  have hfind : (d.setPhase id p).cmd id = (d.cmd id).map fun x => { x with phase := p } :=
    find?_updFirst (p := fun x : Cmd => x.id == id) (f := fun x => { x with phase := p }) (fun _ => rfl) d.link.cmds
  rw [hfind, h, Option.map_some]

/-- The phase a command had does not show once its reply waits. -/
theorem Dev.setPhase_replied (p : Phase) (st : Half) (body : List Byte) :
    (d.setPhase id p).replied id st body = d.replied id st body := by
  simp only [Dev.replied, Dev.setPhase, Dev.modCmd,
    updFirst_updFirst (p := fun x : Cmd => x.id == id) (g := fun x => { x with phase := p }) fun _ => rfl]

-- Admission (R213)

/-- What admission checks does not depend on the phases of commands. -/
theorem Dev.judge_setPhase (r : LaunchReq) (p : Phase) : (d.setPhase id p).judge r = d.judge r := rfl

variable {r : LaunchReq} {l : Launch} {im : Image}

theorem eq_of_ite_error_ok {ε α : Type} {p : Prop} [Decidable p] {e : ε} {x y : α}
    (h : (if p then Except.error e else Except.ok x) = Except.ok y) : x = y := by
  split at h
  · cases h
  · exact Except.ok.inj h

/-- A launch taken in has the next number, and its owner and program are those asked for. -/
theorem Dev.judge_ok (h : d.judge r = .ok l) : l.id = d.nextLaunch ∧ l.owner = r.owner ∧ l.handle = r.handle := by
  unfold Dev.judge at h
  split at h
  · cases h
  · split at h
    · cases h
    · dsimp only at h
      split at h
      · cases h
      · cases eq_of_ite_error_ok h
        exact ⟨rfl, rfl, rfl⟩

/-- A launch whose entries name no context asks the arbiter for nothing (R188). -/
theorem Launch.ctxOps_eq_nil (h : ∀ e ∈ l.entries, e.reads = false ∧ e.writes = false) : l.ctxOps = [] := by
  have hnone : l.entries.filter (fun e => e.reads || e.writes) = [] := List.filter_eq_nil_iff.mpr fun e he => by simp [h e he]
  rw [Launch.ctxOps, hnone]
  rfl

/-- References to function slots change the slots alone. -/
theorem Dev.fnHold_eq (ks : List (Fin 8)) : d.fnHold id ks = { d with fn := (d.fnHold id ks).fn } :=
  Dev.each_keeps (P := fun e => e = { d with fn := e.fn }) rfl fun k e he => by
    dsimp only
    split
    · exact he
    · rw [Dev.setFnSlot, he]

/-- Where no job waits for the program, no gradient step is queued (R369). -/
theorem Dev.gradAdmit_eq_self {h : Nat} (hjobs : ∀ j ∈ d.coll.jobs, j.trigger ≠ 0 ∨ j.program ≠ h ∨ j.closing ≠ none) :
    d.gradAdmit id h = d := by
  have hnone : (d.coll.jobs.find? fun j => j.trigger == 0 && j.program == h && j.closing.isNone) = none :=
    List.find?_eq_none.mpr fun j hj => by
      have hother := hjobs j hj
      simp only [Bool.and_eq_true, beq_iff_eq, Option.isNone_iff_eq_none]
      rintro ⟨⟨htrigger, hprogram⟩, hopen⟩
      exact hother.elim (· htrigger) fun h => h.elim (· hprogram) (· hopen)
  rw [Dev.gradAdmit, hnone]

/-- The slots for loaded function tables that an image's kernels refer to (R125). -/
def Image.fnSlots (im : Image) : List (Fin 8) :=
  (im.kernels.filterMap fun k => im.fnRefs[k.fnref]?).filterMap fun f => if 8 ≤ f.slot then some (Fin.ofNat 8 f.slot) else none

/-- The device with a launch that goes at once, in the phase that the parts it needs allow (R513). -/
def Dev.withLaunch (l : Launch) (im : Image) (d : Dev) : Dev :=
  { d with launches := d.launches ++ [{ l with phase := d.firstPhase im l.entries }], nextLaunch := d.nextLaunch + 1 }

theorem Dev.admitLaunch_ok (h : d.judge r = .ok l) (him : d.imageOf l = some im) (hctx : l.ctxOps = [])
    (hjobs : ∀ j ∈ d.coll.jobs, j.trigger ≠ 0 ∨ j.program ≠ l.handle ∨ j.closing ≠ none) :
    d.admitLaunch r = (d.withLaunch l im).fnHold l.id im.fnSlots := by
  have hstays : ((d.withLaunch l im).fnHold l.id im.fnSlots).gradAdmit l.id l.handle = (d.withLaunch l im).fnHold l.id im.fnSlots := by
    refine Dev.gradAdmit_eq_self ?_
    rw [Dev.fnHold_eq]
    exact hjobs
  rw [Dev.admitLaunch, h]
  dsimp only
  rw [him, hctx, List.append_nil]
  exact hstays

theorem Dev.admitLaunch_error {st : Half} {e : Nat} (h : d.judge r = .error (st, e)) (hst : st ≠ stUncorrectable) :
    d.admitLaunch r = d.launchRefused r.owner st e := by
  rw [Dev.admitLaunch, h]
  dsimp only
  rw [if_neg hst]

-- The two commands (R213, R405)

/-- What a LAUNCH packet asks for. -/
def Cmd.launchReq (c : Cmd) : LaunchReq :=
  { owner := .cmd c.id, cls := c.cls, handle := opnd c.pkt.o0 7 0, mode := opnd c.pkt.o0 9 8, da := opDa c.pkt.o1, seed := c.pkt.o2,
    deadline := c.pkt.deadline.toNat }

theorem Dev.launchCmd_of_no_split (h : d.splitPending (opnd c.pkt.o0 7 0) = false) :
    d.launchCmd c = ((d.setPhase c.id .running).admitLaunch c.launchReq).settle := by
  rw [Dev.launchCmd, h, if_neg (by decide)]
  rfl

/-- R406: the body of a refused launch, which names no list record. -/
theorem refusedBody_zero (e : Nat) : refusedBody e 0 = leBytes 4 e ++ List.replicate 20 0#8 := by
  rw [refusedBody, List.append_assoc, List.append_assoc]
  rfl

/-- A launch of a command in progress that is refused completes it with the status and the entry. -/
theorem Dev.setPhase_launchRefused {st : Half} (e : Nat) (h : d.cmd c.id = some c) (hdeadline : st ≠ stDeadline)
    (hdenied : st ≠ stDebugDenied) :
    (d.setPhase c.id .running).launchRefused (.cmd c.id) st e = d.replied c.id st (leBytes 4 e ++ List.replicate 20 0#8) := by
  rw [Dev.launchRefused, Dev.noteStatus, if_neg hdeadline, if_neg hdenied]
  refine (Dev.endCmd_eq _ _ _ _ _ (Dev.setPhase_cmd h .running) (by simp)).trans ?_
  rw [Dev.setPhase_replied, refusedBody_zero]

/-- The device with a LAUNCH_LIST whose records have been read: in progress, its first record next. -/
def Dev.listBegun (c : Cmd) (d : Dev) : Dev :=
  { d.heat (opDa c.pkt.o1) (32 * opnd c.pkt.o0 8 0) with
    link := { d.link with cmds := updFirst (fun x => x.id == c.id) (fun x => { x with phase := .running }) d.link.cmds }
    progs := { d.progs with lists := d.progs.lists ++
      [{ cmd := c.id, base := opDa c.pkt.o1, count := opnd c.pkt.o0 8 0, next := 0, refused := none }] } }

theorem Dev.launchList_reads (hmem : d.daOk (opDa c.pkt.o1) (32 * opnd c.pkt.o0 8 0) = true)
    (hclean : d.mem.firstPoison (opDa c.pkt.o1) (32 * opnd c.pkt.o0 8 0) = none) : d.launchList c = (d.listBegun c).settle := by
  rw [Dev.launchList, Dev.fetchBytes_eq _ _ _ _ _ hmem hclean]
  simp only [Dev.setPhase, Dev.modCmd, Dev.heat_link, Dev.heat_progs, Dev.listBegun]

theorem Dev.launchList_fault (h : d.daOk (opDa c.pkt.o1) (32 * opnd c.pkt.o0 8 0) = false) :
    d.launchList c = d.refuse c.id stAddress := by
  simp [Dev.launchList, Dev.fetchBytes, h]

end

section
variable {tag : Tag} {s : State} {c : Cmd} {f : Dev → Dev}

theorem exec_launch_of (ht : s.dev.Takes tag 0x12#8 c) (h : s.dev.launchCmd c = f s.dev) :
    exec (.launch tag) s = .next (s.onDev f).flushReports :=
  congrArg (fun t : State => Host.Outcome.next t.flushReports) (ht.onDev_onCmd h)

theorem exec_launchList_of (ht : s.dev.Takes tag 0x13#8 c) (h : s.dev.launchList c = f s.dev) :
    exec (.launchList tag) s = .next (s.onDev f).flushReports :=
  congrArg (fun t : State => Host.Outcome.next t.flushReports) (ht.onDev_onCmd h)

end

/-- Settles O16: a LAUNCH by admission's verdict, which the command's phase does not bear on; a LAUNCH_LIST by whether its records can be
read. -/
theorem launchesAndListsAreAdmitted : Obligations.LaunchesAndListsAreAdmitted := by
  unfold Obligations.LaunchesAndListsAreAdmitted
  refine ⟨fun tag s c ht hsplit => ⟨fun l im hjudge him hctx hjobs => ?_, fun st e hjudge hpoison hdeadline hdenied => ?_⟩,
    fun tag s c ht => ⟨fun hmem hclean => ?_, fun hfault => ?_⟩⟩
  · obtain ⟨hid, howner, hhandle⟩ := Dev.judge_ok hjudge
    have hadmit : (s.dev.setPhase c.id .running).admitLaunch c.launchReq =
        ((s.dev.setPhase c.id .running).withLaunch l im).fnHold l.id im.fnSlots :=
      Dev.admitLaunch_ok ((Dev.judge_setPhase _ _).trans hjudge) him (Launch.ctxOps_eq_nil hctx) (hhandle ▸ hjobs)
    have hlaunch := (Dev.launchCmd_of_no_split hsplit).trans (congrArg Dev.settle (hadmit.trans (Dev.fnHold_eq _)))
    exact ⟨_, exec_launch_of (f := fun _ => _) ht hlaunch, rfl, rfl, hid, howner, hhandle⟩
  · refine exec_launch_of ht ((Dev.launchCmd_of_no_split hsplit).trans (congrArg Dev.settle ?_))
    exact (Dev.admitLaunch_error ((Dev.judge_setPhase _ _).trans hjudge) hpoison).trans
      (Dev.setPhase_launchRefused e ht.2 hdeadline hdenied)
  · exact exec_launchList_of ht (Dev.launchList_reads hmem hclean)
  · exact exec_launchList_of ht
      ((Dev.launchList_fault hfault).trans (Dev.refuse_eq _ _ _ c ht.2 ht.not_done (by decide) (by decide)))

end Sys2Proof.Machine
end


section
/-! Slip streams: what the reads of a kiln's fill engine leave of the device, and how block headers, blocks and second reads change the
kiln's slip path (R264 to R271). -/
namespace Sys2Proof.Machine

-- What a read of memory leaves (R230, R243, R528)

/-- The device e is d after reads of memory: they show in the traffic of units, in counters and in the shared caches. -/
def Dev.HasRead (d e : Dev) : Prop :=
  ∃ (t : TierPart) (c : CtrPart) (x : Vector (List (Nat × Bool)) 12),
    e = { d with tier := t, ctrs := c, caches := x } ∧ t.windows = d.tier.windows

theorem Dev.HasRead.refl (d : Dev) : d.HasRead d := ⟨d.tier, d.ctrs, d.caches, rfl, rfl⟩

theorem Dev.heat_windows (a n : Nat) (d : Dev) : (d.heat a n).tier.windows = d.tier.windows := by
  unfold Dev.heat
  split
  · exact List.foldlRecOn (motive := fun t : TierPart => t.windows = d.tier.windows) _ _ rfl fun _ ht _ _ => ht
  · rfl

namespace Dev.HasRead
section
variable {d e : Dev} (h : d.HasRead e)
include h

theorem eq : e = { d with tier := e.tier, ctrs := e.ctrs, caches := e.caches } := by
  obtain ⟨t, c, x, rfl, -⟩ := h
  rfl

theorem kilns : e.kilns = d.kilns := by rw [h.eq]
theorem mem : e.mem = d.mem := by rw [h.eq]
theorem launches : e.launches = d.launches := by rw [h.eq]
theorem slip (k : Fin 12) : e.slip k = d.slip k := by rw [Dev.slip, h.kilns, Dev.slip]

theorem count (die : DieIx) (event ix n : Nat) : d.HasRead (e.count die event ix n) := by
  obtain ⟨t, c, x, rfl, hwindows⟩ := h
  exact ⟨t, _, x, rfl, hwindows⟩

theorem setCaches (y : Vector (List (Nat × Bool)) 12) : d.HasRead { e with caches := y } := by
  obtain ⟨t, c, x, rfl, hwindows⟩ := h
  exact ⟨t, c, y, rfl, hwindows⟩

theorem heat (a n : Nat) : d.HasRead (e.heat a n) := by
  obtain ⟨t, c, x, rfl, hwindows⟩ := h
  exact ⟨_, c, x, Dev.heat_eq a n _, (Dev.heat_windows a n _).trans hwindows⟩

theorem stackBytes (write : Bool) (s : Nat) : d.HasRead (e.stackBytes write s) := h.count _ _ _ _

theorem writeBack (line : Nat × Bool) : d.HasRead (e.writeBack line) := by
  unfold Dev.writeBack
  split
  · exact h.stackBytes _ _
  · exact h

theorem allocLine (k : Fin 12) (line : Nat) (dirty : Bool) : d.HasRead (e.allocLine k line dirty) := by
  unfold Dev.allocLine
  dsimp only
  split
  · exact (h.writeBack _).setCaches _
  · exact h.setCaches _

theorem lineAccess (write alloc : Bool) (s line : Nat) : d.HasRead (e.lineAccess write alloc s line) := by
  have hmiss := h.count (kilnDie (stackKiln s)) 0x25 0 1
  unfold Dev.lineAccess
  dsimp only
  split
  · exact h.stackBytes _ _
  split
  · exact (h.setCaches _).count _ _ _ _
  split
  · split
    · exact hmiss.allocLine _ _ _
    · exact (hmiss.stackBytes _ _).allocLine _ _ _
  · exact hmiss.stackBytes _ _

theorem pieceTraffic (write alloc : Bool) (a n : Nat) : d.HasRead (e.pieceTraffic write alloc a n) := by
  unfold Dev.pieceTraffic
  split
  · exact Dev.each_keeps h fun _ _ he => he.lineAccess _ _ _ _
  · split
    · exact h
    · exact Dev.each_keeps h fun _ _ he => he.count _ _ _ _

theorem traffic (write alloc : Bool) (a n : Nat) : d.HasRead (e.traffic write alloc a n) :=
  Dev.each_keeps h fun _ _ he => he.pieceTraffic _ _ _ _

end
end Dev.HasRead

/-- The device after the fill engine has read [a, a+n). -/
def Dev.afterRead (a n : Nat) (d : Dev) : Dev := (d.heat a n).traffic false false a n

theorem Dev.afterRead_hasRead (a n : Nat) (d : Dev) : d.HasRead (d.afterRead a n) := ((Dev.HasRead.refl d).heat a n).traffic _ _ _ _

/-- A read that meets no poisoned word goes on (R504). -/
theorem Dev.slipRead_clean {d : Dev} {a n : Nat} (h : d.mem.firstPoison a n = none) (launch : Nat) (f : Dev → Dev) :
    d.slipRead launch a n f = f (d.afterRead a n) := by
  rw [Dev.slipRead, h]
  rfl

-- The slip path of a kiln

@[simp] theorem Dev.setSlip_slip (k : Fin 12) (x : SlipPart) (d : Dev) : (d.setSlip k x).slip k = x := congrArg Kiln.slip (vmod_get_same _ k _)

@[simp] theorem Dev.setSlip_setSlip (k : Fin 12) (x y : SlipPart) (d : Dev) : (d.setSlip k x).setSlip k y = d.setSlip k y := by
  simp only [Dev.setSlip, vmod, vec_set_get_same, Vector.set_set]

/-- A stream takes the place of the one it goes on from. -/
def SlipPart.put (t : SlipStream) (x : SlipPart) : SlipPart := { x with streams := x.streams.map fun y => if t.sameAs y then t else y }

theorem Dev.putStream_of_mem {k : Fin 12} {d : Dev} {s t : SlipStream} (hs : s ∈ (d.slip k).streams) (hst : t.sameAs s = true) :
    d.putStream k t = d.setSlip k ((d.slip k).put t) := by
  rw [Dev.putStream, if_pos (List.any_eq_true.mpr ⟨s, hs, hst⟩)]
  rfl

theorem Dev.setSlip_putStream {x : SlipPart} {s t : SlipStream} (hs : s ∈ x.streams) (hst : t.sameAs s = true) (k : Fin 12) (d : Dev) :
    (d.setSlip k x).putStream k t = d.setSlip k (x.put t) := by
  rw [Dev.putStream_of_mem (s := s) ((Dev.setSlip_slip k x d).symm ▸ hs) hst, Dev.setSlip_setSlip, Dev.setSlip_slip]

theorem SlipStream.sameAs_self (s : SlipStream) : s.sameAs s = true := by simp [SlipStream.sameAs]

@[simp] theorem SlipPart.put_slots (t : SlipStream) (x : SlipPart) : (x.put t).slots = x.slots := rfl

theorem SlipPart.put_eq_of_slots {x y : SlipPart} (h : y = { x with slots := y.slots }) (t : SlipStream) :
    y.put t = ({ x with slots := (y.put t).slots } : SlipPart).put t := congrArg (SlipPart.put t) h

/-- A block of the stream s goes to the end of the queue, and s goes on to its next block (R264). -/
def SlipPart.enqueue (s : SlipStream) (h : SlipHead) (tb : Option SlipTable) (x : SlipPart) : SlipPart :=
  ({ x with queue := x.queue ++ [{ launch := s.launch, kernel := s.kernel, buf := s.buf, unit := s.unit, da := s.nextDa, head := h,
                                   table := tb, fore := s.fore }] } : SlipPart).put
    { s with nextDa := s.nextDa + h.blockLen, index := s.index + 1, expanded := s.expanded + h.origLen, stored := s.stored + h.blockLen }

/-- The block q leaves the queue, its bytes ready for the tile of s, and slots that it held in RETIRING go (R263, R267). -/
def SlipPart.deliver (q : QueuedBlock) (s : SlipStream) (bs : List Byte) (x : SlipPart) : SlipPart :=
  ({ x with queue := x.queue.erase q } : SlipPart).settle.put (s.push bs)

section
variable {k : Fin 12} {d e : Dev} {s : SlipStream}

theorem Dev.HasRead.slipHurt_eq (h : d.HasRead e) (hs : s ∈ (d.slip k).streams) (dm : SlipDamage) (da : Nat) :
    e.slipHurt k s dm da = e.setSlip k ((d.slip k).put { s with damage := some dm, damageDa := da }) := by
  rw [← h.slip k] at hs ⊢
  exact Dev.putStream_of_mem hs (SlipStream.sameAs_self s)

theorem Dev.HasRead.slipQueue_eq (h : d.HasRead e) (hs : s ∈ (d.slip k).streams) (hd : SlipHead) (tb : Option SlipTable) :
    e.slipQueue k s hd tb = e.setSlip k ((d.slip k).enqueue s hd tb) := by
  rw [Dev.slipQueue, Dev.setSlip_putStream (s := s), h.slip k]
  · rfl
  · exact h.slip k ▸ hs
  · exact SlipStream.sameAs_self s

theorem Dev.HasRead.slipReady_eq (h : d.HasRead e) (hs : s ∈ (d.slip k).streams) (q : QueuedBlock) (bs : List Byte) :
    e.slipReady k q s bs = e.setSlip k ((d.slip k).deliver q s bs) := by
  rw [Dev.slipReady, Dev.setSlip_putStream (s := s), h.slip k]
  · rfl
  · rw [SlipPart.settle_eq]
    exact h.slip k ▸ hs
  · exact SlipStream.sameAs_self s

end

theorem SlipPart.deliver_eq (q : QueuedBlock) (s : SlipStream) (bs : List Byte) (x : SlipPart) :
    x.deliver q s bs = ({ x with queue := x.queue.erase q, slots := (x.deliver q s bs).slots } : SlipPart).put (s.push bs) :=
  SlipPart.put_eq_of_slots (SlipPart.settle_eq _) _

/-- R263: only RETIRING slots may go when a block leaves. -/
theorem SlipPart.deliver_slot {j : Fin 4} {x : SlipPart} (h : (x.slots.get j).state ≠ 2) (q : QueuedBlock) (s : SlipStream)
    (bs : List Byte) : (x.deliver q s bs).slots.get j = x.slots.get j := by
  rw [SlipPart.deliver, SlipPart.put_slots, SlipPart.settle_get]
  exact SlipPart.settled_of_state h

theorem SlipStream.push_ready {s : SlipStream} (h : s.pos = s.out) (bs : List Byte) : (s.push bs).ready = s.ready ++ bs := by
  simp [SlipStream.push, h]

-- A command that leaves a kiln's slip path changed

/-- After a read, a command that gives kiln k the slip path x changes nothing else; what it makes of the slots may be left open. -/
theorem exec_setSlip {i : Instr} {s : State} {d e : Dev} {k : Fin 12} {x : SlipPart}
    (hexec : exec i s = .next (s.onDev fun _ => e.setSlip k x)) (h : d.HasRead e) (f : Vector SlipSlot 4 → SlipPart) (hx : x = f x.slots) :
    ∃ t : State, exec i s = .next t ∧
      t = { s with dev := ({ d with tier := t.dev.tier, ctrs := t.dev.ctrs, caches := t.dev.caches } : Dev).setSlip k
                            (f (t.dev.slip k).slots) } ∧
      t.dev.slip k = x := by
  refine ⟨_, hexec, ?_, Dev.setSlip_slip k x e⟩
  rw [State.onDev_dev, Dev.setSlip_slip, ← hx]
  exact congrArg (fun y : Dev => ({ s with dev := y.setSlip k x } : State)) h.eq

/-- The same where the slip path is known outright. -/
theorem exec_setSlip_const {i : Instr} {s : State} {d e : Dev} {k : Fin 12} {x : SlipPart}
    (hexec : exec i s = .next (s.onDev fun _ => e.setSlip k x)) (h : d.HasRead e) :
    ∃ t : State, exec i s = .next t ∧
      t = { s with dev := ({ d with tier := t.dev.tier, ctrs := t.dev.ctrs, caches := t.dev.caches } : Dev).setSlip k x } := by
  obtain ⟨t, hnext, ht, -⟩ := exec_setSlip hexec h (fun _ => x) rfl
  exact ⟨t, hnext, ht⟩

/-- The same where a block leaves the queue: which slots go with it is said of the slots alone. -/
theorem exec_deliver {i : Instr} {s : State} {d e : Dev} {k : Fin 12} {q : QueuedBlock} {st : SlipStream} {bs : List Byte} {x : SlipPart}
    (hexec : exec i s = .next (s.onDev fun _ => e.setSlip k (x.deliver q st bs))) (h : d.HasRead e) :
    ∃ t : State, exec i s = .next t ∧
      t = { s with dev := ({ d with tier := t.dev.tier, ctrs := t.dev.ctrs, caches := t.dev.caches } : Dev).setSlip k
                            (({ x with queue := x.queue.erase q, slots := (t.dev.slip k).slots } : SlipPart).put (st.push bs)) } ∧
      t.dev.slip k = x.deliver q st bs :=
  exec_setSlip hexec h (fun v => ({ x with queue := x.queue.erase q, slots := v } : SlipPart).put (st.push bs))
    (SlipPart.deliver_eq q st bs x)

section
variable {k : Fin 12} {launch buf unit : Nat} {s : State} {e : Dev}

theorem exec_slipBlockHeaderRead_of (h : s.dev.slipHeaderRead k launch buf unit = e) :
    exec (.slipBlockHeaderRead k launch buf unit) s = .next (s.onDev fun _ => e) :=
  congrArg _ (s.onDev_congr h)

theorem exec_slipBlockDecoded_of (h : s.dev.slipDecoded k = e) : exec (.slipBlockDecoded k) s = .next (s.onDev fun _ => e) :=
  congrArg _ (s.onDev_congr h)

theorem exec_forerunnerBlockDecoded_of (h : s.dev.foreDecoded k launch buf unit = e) :
    exec (.forerunnerBlockDecoded k launch buf unit) s = .next (s.onDev fun _ => e) :=
  congrArg _ (s.onDev_congr h)

theorem exec_slipDamageReread_of (h : s.dev.slipReread k = e) : exec (.slipDamageReread k) s = .next (s.onDev fun _ => e) :=
  congrArg _ (s.onDev_congr h)

end

-- Block headers (R264, R268, R270)

theorem Dev.slipUse_mem {k : Fin 12} {d d1 : Dev} {launch buf unit : Nat} {u : SlipUse} {s : SlipStream}
    (h : d.slipUse k launch buf unit = some (u, s, d1)) : s ∈ (d1.slip k).streams := by
  unfold Dev.slipUse at h
  repeat' split at h
  case isTrue =>
    simp only [Option.bind_eq_some_iff, Option.map_eq_some_iff, Prod.mk.injEq] at h
    obtain ⟨d', -, s', hfind, -, rfl, rfl⟩ := h
    exact List.mem_of_find?_eq_some hfind
  all_goals exact absurd h (by simp)

theorem Dev.HasRead.slipBind {d e : Dev} (h : d.HasRead e) (k : Fin 12) (s : SlipStream) (hd : SlipHead) :
    e.slipBind k s hd = d.slipBind k s hd := by
  rw [Dev.slipBind, h.slip k, Dev.slipBind]

/-- A stream of kiln k whose layer's gate has opened, d1 being the device after the gate, is whole and has bytes left to read. -/
structure Dev.SlipOpen (d : Dev) (k : Fin 12) (s : SlipStream) (d1 : Dev) : Prop where
  use : ∃ u, d.slipUse k s.launch s.buf s.unit = some (u, s, d1)
  struck : s.struck = none
  damage : s.damage = none
  left : s.expanded < s.entry.expanded

section
variable {d d1 : Dev} {k : Fin 12} {s : SlipStream}

theorem Dev.slipHeaderRead_struck {u : SlipUse} {w : Nat} (huse : d.slipUse k s.launch s.buf s.unit = some (u, s, d1))
    (hstruck : s.struck = some w) : d.slipHeaderRead k s.launch s.buf s.unit = d1.launchStruck s.launch w := by
  simp only [Dev.slipHeaderRead, huse, hstruck]

theorem Dev.foreHeaderRead_queued {h : ForeHead} {x : SlipHead} (hs : s ∈ (d.slip k).streams) (hfore : s.fore = some h)
    (hclean : d.mem.firstPoison s.nextDa 16 = none) (hhead : s.foreHead h (d.mem.readBytes s.nextDa 16) = some x) :
    d.foreHeaderRead k s = (d.afterRead s.nextDa 16).setSlip k ((d.slip k).enqueue s x none) := by
  have hread := d.afterRead_hasRead s.nextDa 16
  simp only [Dev.foreHeaderRead, hfore, Dev.slipRead_clean hclean, hread.mem, hhead, hread.slipQueue_eq hs]

theorem Dev.foreHeaderRead_damaged {h : ForeHead} (hs : s ∈ (d.slip k).streams) (hfore : s.fore = some h)
    (hclean : d.mem.firstPoison s.nextDa 16 = none) (hhead : s.foreHead h (d.mem.readBytes s.nextDa 16) = none) :
    d.foreHeaderRead k s =
      (d.afterRead s.nextDa 16).setSlip k ((d.slip k).put { s with damage := some { kind := 7 }, damageDa := s.nextDa }) := by
  have hread := d.afterRead_hasRead s.nextDa 16
  simp only [Dev.foreHeaderRead, hfore, Dev.slipRead_clean hclean, hread.mem, hhead, hread.slipHurt_eq hs]

namespace Dev.SlipOpen
variable (h : d.SlipOpen k s d1)
include h

theorem mem : s ∈ (d1.slip k).streams := h.use.elim fun _ => Dev.slipUse_mem

/-- A full queue waits, and the wait is counted. -/
theorem slipHeaderRead_full (hfull : slipQueueMax ≤ (d1.slip k).queue.length) :
    d.slipHeaderRead k s.launch s.buf s.unit = d1.count (kilnDie k) 0x1B 0 1 := by
  obtain ⟨u, huse⟩ := h.use
  simp [Dev.slipHeaderRead, huse, h.struck, h.damage, Nat.not_le.mpr h.left, hfull]

variable (hroom : (d1.slip k).queue.length < slipQueueMax)
include hroom

theorem slipHeaderRead_fore (hkind : s.entry.kind = 1) : d.slipHeaderRead k s.launch s.buf s.unit = d1.foreHeaderRead k s := by
  obtain ⟨u, huse⟩ := h.use
  simp [Dev.slipHeaderRead, huse, h.struck, h.damage, Nat.not_le.mpr h.left, Nat.not_le.mpr hroom, hkind]

variable (hkind : s.entry.kind = 0) (hclean : d1.mem.firstPoison s.nextDa 64 = none)
include hkind hclean

theorem slipHeaderRead_bound {tb : Option SlipTable}
    (hbind : d1.slipBind k s (parseSlipHead (d1.mem.readBytes s.nextDa 64)) = .ok tb) :
    d.slipHeaderRead k s.launch s.buf s.unit =
      (d1.afterRead s.nextDa 64).setSlip k ((d1.slip k).enqueue s (parseSlipHead (d1.mem.readBytes s.nextDa 64)) tb) := by
  obtain ⟨u, huse⟩ := h.use
  have hread := d1.afterRead_hasRead s.nextDa 64
  simp [Dev.slipHeaderRead, huse, h.struck, h.damage, Nat.not_le.mpr h.left, Nat.not_le.mpr hroom, hkind,
    Dev.slipRead_clean hclean, hread.mem, hread.slipBind, hbind, hread.slipQueue_eq h.mem]

theorem slipHeaderRead_damaged {kind : Nat}
    (hbind : d1.slipBind k s (parseSlipHead (d1.mem.readBytes s.nextDa 64)) = .error kind) :
    d.slipHeaderRead k s.launch s.buf s.unit =
      (d1.afterRead s.nextDa 64).setSlip k ((d1.slip k).put { s with damage := some { kind := kind }, damageDa := s.nextDa }) := by
  obtain ⟨u, huse⟩ := h.use
  have hread := d1.afterRead_hasRead s.nextDa 64
  simp [Dev.slipHeaderRead, huse, h.struck, h.damage, Nat.not_le.mpr h.left, Nat.not_le.mpr hroom, hkind,
    Dev.slipRead_clean hclean, hread.mem, hread.slipBind, hbind, hread.slipHurt_eq h.mem]

end Dev.SlipOpen
end

-- Decoded blocks (R265, R267, R271, R272)

section
variable {d : Dev} {k : Fin 12} {s : SlipStream} {q : QueuedBlock}

theorem Dev.HasRead.slipDecode {e : Dev} (h : d.HasRead e) (q : QueuedBlock) : e.slipDecode q = d.slipDecode q := by
  rw [Dev.slipDecode, h.mem, Dev.slipDecode]

/-- The queue of kiln k begins with the slip block q of the stream s, which is whole and reads (R265). -/
structure Dev.SlipBlockNext (d : Dev) (k : Fin 12) (q : QueuedBlock) (s : SlipStream) : Prop where
  first : ∃ rest, (d.slip k).queue = q :: rest
  slip : q.fore = none
  find : d.findStream k q.launch q.kernel q.buf q.unit = some s
  damage : s.damage = none
  clean : d.mem.firstPoison q.da q.head.blockLen = none

namespace Dev.SlipBlockNext
variable (h : d.SlipBlockNext k q s)
include h

theorem mem : s ∈ (d.slip k).streams := List.mem_of_find?_eq_some h.find

theorem slipDecoded_ok {bs : List Byte} (hdecode : d.slipDecode q = .ok bs) :
    d.slipDecoded k =
      ((d.afterRead q.da q.head.blockLen).count (kilnDie k) (if q.head.raw then 0x19 else 0x18) 0 1).setSlip k
        ((d.slip k).deliver q s bs) := by
  obtain ⟨rest, hfirst⟩ := h.first
  have hread := d.afterRead_hasRead q.da q.head.blockLen
  have hready := hread.slipReady_eq h.mem q bs
  simp only [Dev.slipDecoded, hfirst, h.find, h.damage, h.slip, Option.isSome_none, Bool.or_false, Bool.false_eq_true, if_false,
    Dev.slipRead_clean h.clean, hread.slipDecode, hdecode, hready]
  rfl

theorem slipDecoded_damaged {dm : SlipDamage} (hdecode : d.slipDecode q = .error dm) :
    d.slipDecoded k =
      (d.afterRead q.da q.head.blockLen).setSlip k ((d.slip k).put { s with damage := some dm, damageDa := q.da }) := by
  obtain ⟨rest, hfirst⟩ := h.first
  have hread := d.afterRead_hasRead q.da q.head.blockLen
  simp only [Dev.slipDecoded, hfirst, h.find, h.damage, h.slip, Option.isSome_none, Bool.or_false, Bool.false_eq_true, if_false,
    Dev.slipRead_clean h.clean, hread.slipDecode, hdecode, hread.slipHurt_eq h.mem]

end Dev.SlipBlockNext

variable {d1 : Dev} {u : SlipUse} (huse : d.slipUse k s.launch s.buf s.unit = some (u, s, d1))
include huse

theorem Dev.foreDecoded_no_turn (hturn : foreTurn (d1.slip k).queue s = none) : d.foreDecoded k s.launch s.buf s.unit = d1 := by
  simp only [Dev.foreDecoded, huse, hturn]

variable (hturn : foreTurn (d1.slip k).queue s = some q)
include hturn

/-- R272: a full smoothing queue waits. -/
theorem Dev.foreDecoded_no_room (hfull : max s.pos s.need + 16384 < s.out + q.head.origLen) :
    d.foreDecoded k s.launch s.buf s.unit = d1 := by
  simp [Dev.foreDecoded, huse, hturn, SlipStream.room, Nat.not_le.mpr hfull]

variable (hdamage : s.damage = none) (hroom : s.out + q.head.origLen ≤ max s.pos s.need + 16384)
  (hclean : d1.mem.firstPoison q.da q.head.blockLen = none)
include hdamage hroom hclean

theorem Dev.foreDecoded_ok {h : ForeHead} {n : Nat} {bs : List Byte} (hfore : q.fore = some h)
    (hdecode : decodeForeBlock h (d1.mem.readBytes q.da q.head.blockLen) = some (n, bs)) :
    d.foreDecoded k s.launch s.buf s.unit =
      ((d1.afterRead q.da q.head.blockLen).count (kilnDie k) 0x1C 0 (if s.out < s.need then foreTime q else 0)).setSlip k
        ((d1.slip k).deliver q s bs) := by
  have hread := d1.afterRead_hasRead q.da q.head.blockLen
  have hready := hread.slipReady_eq (Dev.slipUse_mem huse) q bs
  simp only [Dev.foreDecoded, huse, hturn, hdamage, SlipStream.room, decide_eq_true hroom, Option.isSome_none, Bool.not_true, Bool.or_self,
    Bool.false_eq_true, if_false, Dev.slipRead_clean hclean, hread.mem, hfore, Option.bind_some, hdecode, hready]
  rfl

theorem Dev.foreDecoded_damaged {h : ForeHead} (hfore : q.fore = some h)
    (hdecode : decodeForeBlock h (d1.mem.readBytes q.da q.head.blockLen) = none) :
    d.foreDecoded k s.launch s.buf s.unit =
      (d1.afterRead q.da q.head.blockLen).setSlip k ((d1.slip k).put { s with damage := some { kind := 7 }, damageDa := q.da }) := by
  have hread := d1.afterRead_hasRead q.da q.head.blockLen
  simp only [Dev.foreDecoded, huse, hturn, hdamage, SlipStream.room, decide_eq_true hroom, Option.isSome_none, Bool.not_true, Bool.or_self,
    Bool.false_eq_true, if_false, Dev.slipRead_clean hclean, hread.mem, hfore, Option.bind_some, hdecode,
    hread.slipHurt_eq (Dev.slipUse_mem huse)]

end

-- The second read of a damaged place (R269)

/-- A damaged stream s leaves kiln k with its blocks, and KLN_SLIP_STATUS keeps the check (R269, R274). -/
def SlipPart.withdraw (s : SlipStream) (dm : SlipDamage) (x : SlipPart) : SlipPart :=
  { x with
    damageSeen := true, lastCheck := dm.kind, lastLane := if dm.kind = 3 || dm.kind = 4 then dm.lane else 0,
    streams := x.streams.filter fun t => !s.sameAs t,
    queue := x.queue.filter fun q => !q.isOf s }

/-- The slots that the withdrawn blocks were bound to settle. -/
def SlipPart.condemn (s : SlipStream) (dm : SlipDamage) (x : SlipPart) : SlipPart := (x.withdraw s dm).settle

theorem SlipPart.condemn_eq_withdraw (s : SlipStream) (dm : SlipDamage) (x : SlipPart) :
    x.condemn s dm = { x.withdraw s dm with slots := (x.condemn s dm).slots } :=
  SlipPart.settle_eq _

theorem SlipPart.condemn_queue (s : SlipStream) (dm : SlipDamage) (x : SlipPart) :
    (x.condemn s dm).queue = x.queue.filter fun q => !q.isOf s := by
  rw [SlipPart.condemn_eq_withdraw, SlipPart.withdraw]

/-- The slots and the queue apart, what condemning a stream leaves is said outright. -/
theorem SlipPart.condemn_eq (s : SlipStream) (dm : SlipDamage) (x : SlipPart) :
    x.condemn s dm = { x with
      damageSeen := true, lastCheck := dm.kind, lastLane := if dm.kind = 3 ∨ dm.kind = 4 then dm.lane else 0,
      streams := x.streams.filter fun t => !s.sameAs t,
      queue := (x.condemn s dm).queue, slots := (x.condemn s dm).slots } := by
  rw [SlipPart.condemn_queue]
  refine (SlipPart.condemn_eq_withdraw s dm x).trans ?_
  simp only [SlipPart.withdraw, Bool.or_eq_true, decide_eq_true_eq]

theorem SlipPart.isOf_of_mem_condemn {s : SlipStream} {dm : SlipDamage} {x : SlipPart} {q : QueuedBlock}
    (h : q ∈ (x.condemn s dm).queue) : q.isOf s = false := by
  rw [SlipPart.condemn_queue] at h
  simpa using (List.mem_filter.mp h).2

/-- R269: final damage ends a launch that has not begun to end. -/
def Launch.stopDamaged (da kind : Nat) (l : Launch) : Launch :=
  match l.phase with
  | .ending _ => l
  | .ended => l
  | _ => { l.stop stSlipDamage with slipDa := da, slipKind := kind }

theorem Launch.stopDamaged_id (da kind : Nat) (l : Launch) : (l.stopDamaged da kind).id = l.id := by
  cases h : l.phase <;> simp only [Launch.stopDamaged, Launch.stop, h]

theorem Launch.stopDamaged_running {l : Launch} (h : l.phase = .running) (da kind : Nat) :
    l.stopDamaged da kind = { l with phase := .ending stSlipDamage, slipDa := da, slipKind := kind } := by
  simp [Launch.stopDamaged, Launch.stop, h]

theorem Dev.modLaunch_launchOf {d : Dev} {id : Nat} {f : Launch → Launch} {l : Launch} (hid : ∀ x, (f x).id = x.id)
    (h : d.launchOf id = some l) : (d.modLaunch id f).launchOf id = some (f l) := by
  have hfind : (d.modLaunch id f).launchOf id = (d.launchOf id).map f :=
    find?_updFirst (fun x => by rw [hid]) d.launches
  rw [hfind, h, Option.map_some]

namespace Dev.HasRead
section
variable {d e : Dev} (h : d.HasRead e)
include h

theorem slipSegs (u : SlipUse) : e.slipSegs u = d.slipSegs u := by
  obtain ⟨t, c, x, rfl, hwindows⟩ := h
  simp only [Dev.slipSegs, Dev.windowOf, hwindows]

theorem slipMoves (u : SlipUse) (unit : Nat) : e.slipMoves u unit = d.slipMoves u unit := by
  obtain ⟨t, c, x, rfl, -⟩ := h
  rfl

theorem slipEntry (u : SlipUse) (unit : Nat) : e.slipEntry u unit = d.slipEntry u unit := by
  simp only [Dev.slipEntry, h.mem, h.slipSegs, h.slipMoves]

/-- What a second read finds does not depend on what the read leaves. -/
theorem slipAgain (k : Fin 12) (u : SlipUse) (s : SlipStream) (dm : SlipDamage) : e.slipAgain k u s dm = d.slipAgain k u s dm := by
  simp only [Dev.slipAgain, h.slipEntry, h.slip, h.mem, h.slipDecode, h.slipBind]

theorem launchOf (id : Nat) : e.launchOf id = d.launchOf id := by
  rw [Dev.launchOf, h.launches, Dev.launchOf]

theorem slipFinal_eq (k : Fin 12) (s : SlipStream) (dm : SlipDamage) :
    e.slipFinal k s dm =
      ((e.count (kilnDie k) 0x1A dm.kind 1).setSlip k ((d.slip k).condemn s dm)).modLaunch s.launch (Launch.stopDamaged s.damageDa dm.kind) := by
  rw [← h.slip k]
  rfl

end
end Dev.HasRead

/-- A stream that a second read finds sound is the stream it was but for its directory entry and its damage. -/
theorem Dev.slipAgain_ok {d : Dev} {k : Fin 12} {u : SlipUse} {s s1 : SlipStream} {dm : SlipDamage} (h : d.slipAgain k u s dm = .ok s1) :
    ∃ (e : SlipEntry) (a : Nat), s1 = { s with damage := none, entry := e, nextDa := a } := by
  unfold Dev.slipAgain at h
  repeat' split at h
  all_goals cases h
  case h_1 e _ => exact ⟨e, e.stream, rfl⟩
  all_goals exact ⟨s.entry, s.nextDa, rfl⟩

/-- The first damaged stream of kiln k is s, and its damaged place reads (R269). -/
structure Dev.SlipRereads (d : Dev) (k : Fin 12) (u : SlipUse) (s : SlipStream) (dm : SlipDamage) : Prop where
  find : (d.slip k).streams.find? (fun x => x.damage.isSome) = some s
  damage : s.damage = some dm
  use : d.useOf s = some u
  clean : d.mem.firstPoison (d.slipRange k u s dm).1 (d.slipRange k u s dm).2 = none

/-- The device after the damaged place is read again. -/
def Dev.afterReread (k : Fin 12) (u : SlipUse) (s : SlipStream) (dm : SlipDamage) (d : Dev) : Dev :=
  d.afterRead (d.slipRange k u s dm).1 (d.slipRange k u s dm).2

namespace Dev.SlipRereads
variable {d : Dev} {k : Fin 12} {u : SlipUse} {s : SlipStream} {dm : SlipDamage} (h : d.SlipRereads k u s dm)
include h

theorem slipReread_sound {s1 : SlipStream} (hagain : d.slipAgain k u s dm = .ok s1) :
    d.slipReread k = (d.afterReread k u s dm).setSlip k ((d.slip k).put s1) := by
  have hread : d.HasRead (d.afterReread k u s dm) := d.afterRead_hasRead _ _
  obtain ⟨a, da, rfl⟩ := Dev.slipAgain_ok hagain
  have hmem : s ∈ ((d.afterReread k u s dm).slip k).streams := hread.slip k ▸ List.mem_of_find?_eq_some h.find
  have hput := Dev.putStream_of_mem (t := { s with damage := none, entry := a, nextDa := da }) hmem (SlipStream.sameAs_self s)
  rw [hread.slip] at hput
  simp only [Dev.slipReread, h.find, h.damage, h.use, Dev.slipRead_clean h.clean]
  rw [← Dev.afterReread, hread.slipAgain, hagain]
  exact hput

theorem slipReread_final {dm' : SlipDamage} (hagain : d.slipAgain k u s dm = .error dm') (hkind : dm'.kind = dm.kind) :
    d.slipReread k =
      (((d.afterReread k u s dm).count (kilnDie k) 0x1A dm'.kind 1).setSlip k ((d.slip k).condemn s dm')).modLaunch s.launch
        (Launch.stopDamaged s.damageDa dm'.kind) := by
  have hread : d.HasRead (d.afterReread k u s dm) := d.afterRead_hasRead _ _
  simp only [Dev.slipReread, h.find, h.damage, h.use, Dev.slipRead_clean h.clean]
  rw [← Dev.afterReread, hread.slipAgain, hagain]
  exact (if_pos hkind).trans (hread.slipFinal_eq k s dm')

end Dev.SlipRereads

/-- After a read, a device d' that a stream of kiln k and its blocks have left, with a launch changed, is otherwise the device d. -/
theorem Dev.HasRead.condemn_modLaunch {d e d' : Dev} {k : Fin 12} {x : SlipPart} {st : SlipStream} {dm : SlipDamage} {id : Nat}
    {f : Launch → Launch} (h : d.HasRead e) (hd' : d' = (e.setSlip k (x.condemn st dm)).modLaunch id f) :
    d' = ({ d with tier := d'.tier, ctrs := d'.ctrs, caches := d'.caches, launches := d'.launches } : Dev).setSlip k
      { x with
        damageSeen := true, lastCheck := dm.kind, lastLane := if dm.kind = 3 ∨ dm.kind = 4 then dm.lane else 0,
        streams := x.streams.filter fun t => !st.sameAs t,
        queue := (d'.slip k).queue, slots := (d'.slip k).slots } := by
  have hpath : d'.slip k = x.condemn st dm := hd' ▸ Dev.setSlip_slip k _ e
  rw [hpath, ← SlipPart.condemn_eq, hd']
  obtain ⟨t, c, y, rfl, -⟩ := h
  rfl

/-- Settles O28: header reads, decodings and second reads case by case, each as a read of memory followed by a change of the kiln's slip
path alone. -/
theorem slipBlocksAreReadAndDecoded : Obligations.SlipBlocksAreReadAndDecoded := by
  unfold Obligations.SlipBlocksAreReadAndDecoded
  refine fun k s st => ⟨fun u d1 huse => ⟨fun w hstruck => ?_, fun hstruck hdamage hleft => ?_, fun hturn => ?_,
      fun q h hturn hfore hdamage => ⟨fun hfull => ?_, fun hroom hclean => ⟨fun n bs hdecode => ?_, fun hdecode => ?_⟩⟩⟩,
    fun q rest hfirst hslip hfind hdamage hclean => ?_, fun dm u hfind hdamage huse hclean => ?_⟩
  · exact exec_slipBlockHeaderRead_of (Dev.slipHeaderRead_struck huse hstruck)
  · have hopen : s.dev.SlipOpen k st d1 := ⟨⟨u, huse⟩, hstruck, hdamage, hleft⟩
    refine ⟨fun hfull => ?_, fun hroom hkind hfore hclean => ⟨fun tb hbind => ?_, fun e hbind => ?_⟩,
      fun h hroom hkind hfore hclean => ⟨fun x hhead => ?_, fun hhead => ?_⟩⟩
    · exact ⟨_, exec_slipBlockHeaderRead_of (hopen.slipHeaderRead_full hfull), rfl⟩
    · exact exec_setSlip_const (exec_slipBlockHeaderRead_of (hopen.slipHeaderRead_bound hroom hkind hclean hbind))
        (d1.afterRead_hasRead _ _)
    · exact exec_setSlip_const (exec_slipBlockHeaderRead_of (hopen.slipHeaderRead_damaged hroom hkind hclean hbind))
        (d1.afterRead_hasRead _ _)
    · exact exec_setSlip_const (exec_slipBlockHeaderRead_of ((hopen.slipHeaderRead_fore hroom hkind).trans
        (Dev.foreHeaderRead_queued hopen.mem hfore hclean hhead))) (d1.afterRead_hasRead _ _)
    · exact exec_setSlip_const (exec_slipBlockHeaderRead_of ((hopen.slipHeaderRead_fore hroom hkind).trans
        (Dev.foreHeaderRead_damaged hopen.mem hfore hclean hhead))) (d1.afterRead_hasRead _ _)
  · exact exec_forerunnerBlockDecoded_of (Dev.foreDecoded_no_turn huse hturn)
  · exact exec_forerunnerBlockDecoded_of (Dev.foreDecoded_no_room huse hturn hfull)
  · obtain ⟨t, hnext, ht, -⟩ := exec_deliver
      (exec_forerunnerBlockDecoded_of (Dev.foreDecoded_ok huse hturn hdamage hroom hclean hfore hdecode))
      ((d1.afterRead_hasRead _ _).count _ _ _ _)
    exact ⟨t, hnext, ht⟩
  · exact exec_setSlip_const (exec_forerunnerBlockDecoded_of (Dev.foreDecoded_damaged huse hturn hdamage hroom hclean hfore hdecode))
      (d1.afterRead_hasRead _ _)
  · have hblock : s.dev.SlipBlockNext k q st := ⟨⟨rest, hfirst⟩, hslip, hfind, hdamage, hclean⟩
    refine ⟨fun bs hdecode => ?_, fun e hdecode => ?_⟩
    · obtain ⟨t, hnext, ht, hpath⟩ := exec_deliver (exec_slipBlockDecoded_of (hblock.slipDecoded_ok hdecode))
        ((s.dev.afterRead_hasRead _ _).count _ _ _ _)
      have hrest : (s.dev.slip k).queue.erase q = rest := by rw [Dev.slip, hfirst, List.erase_cons_head]
      rw [hrest] at ht
      exact ⟨t, hnext, ht, fun hpos => SlipStream.push_ready hpos bs,
        fun j hj => (congrArg (fun x : SlipPart => x.slots.get j) hpath).trans (SlipPart.deliver_slot hj q st bs)⟩
    · exact exec_setSlip_const (exec_slipBlockDecoded_of (hblock.slipDecoded_damaged hdecode)) (s.dev.afterRead_hasRead _ _)
  · have hplace : s.dev.SlipRereads k u st dm := ⟨hfind, hdamage, huse, hclean⟩
    refine ⟨fun s1 hagain => ⟨?_, ?_⟩, fun e l hagain hkind hlaunch hrunning => ?_⟩
    · exact exec_setSlip_const (exec_slipDamageReread_of (hplace.slipReread_sound hagain)) (s.dev.afterRead_hasRead _ _)
    · obtain ⟨e, a, rfl⟩ := Dev.slipAgain_ok hagain
      rfl
    · have hread : s.dev.HasRead ((s.dev.afterReread k u st dm).count (kilnDie k) 0x1A e.kind 1) := (s.dev.afterRead_hasRead _ _).count _ _ _ _
      have hpath := Dev.setSlip_slip k ((s.dev.slip k).condemn st e) ((s.dev.afterReread k u st dm).count (kilnDie k) 0x1A e.kind 1)
      refine ⟨_, exec_slipDamageReread_of (hplace.slipReread_final hagain hkind), ?_, fun q hq => ?_, ?_⟩
      · exact congrArg (fun d : Dev => ({ s with dev := d } : State)) (hread.condemn_modLaunch rfl)
      · exact SlipPart.isOf_of_mem_condemn (congrArg SlipPart.queue hpath ▸ hq)
      · exact (Dev.modLaunch_launchOf (Launch.stopDamaged_id _ _) ((hread.launchOf _).trans hlaunch)).trans
          (congrArg some (Launch.stopDamaged_running hrunning _ _))

end Sys2Proof.Machine
end

section
/-! A command whose session, as it was before the command, bears another number. The undo of a failed command puts back the session of
before (R293, R296), number and all. O34 asks of the job only that it keeps some session of before, so the session it then names need not
be there. (The media arbiter itself keeps the session that the job names: Dev.applyMask, Dev.mediaBegin.) -/
namespace Sys2Proof.Machine

-- An encode that runs short of space

/-- A descriptor of an encoder of 128 by 128 samples of 8 bits (R282). -/
def shortDesc : SessDesc :=
  { codec := 0, dir := 1, profile := 1, level := 40, depth := 8, cores := 1, split := 0, wheel := 0, realtime := false,
    randomAccess := true, slots := 13, hostSlots := 8, rcMode := 0, width := 128, height := 128, poolBase := 0x1F000000000,
    keyInterval := 0, kbps := 0, qp := 30 }

/-- A session of that descriptor under a number, its slots clear. -/
def shortSess (num : Nat) : Session := { num := num, desc := shortDesc, marks := List.replicate 13 {} }

/-- The MEDIA_ENCODE of session 6 in progress, its capacity 0. -/
def shortCmd : Cmd :=
  { id := 0, sq := 0, cq := 0, core := 0, holdsTag := true, phase := .running,
    pkt := { opcode := 0x62, cls := 0, fenceBefore := false, tag := 1, deadline := 0, o0 := 6, o1 := 0x9000, o2 := 0, o3 := 0, o4 := 0,
             o5 := 0 } }

/-- Its job at the last of two frames, with one byte coded so far; the session it keeps from before bears the number 7. -/
def shortJob : MediaJob :=
  { id := 8, owner := .cmd 0, session := 6, decode := false, da := 0x9000, length := 0, statsDa := 0, inSlot := 0,
    before := some (shortSess 7), step := 1, source := [([], 1), ([], 0)], started := true, slot := some 9, cores := [0], bits := [0] }

/-- A running device whose one open session is number 6, with the job in progress. -/
def shortDev : Dev :=
  let d : Dev := {}
  { d with
    start := { d.start with state := 1 }
    link := { d.link with cmds := [shortCmd], nextId := 1 }
    media := { d.media with sessions := [shortSess 6], jobs := [shortJob], nextJob := 9 } }

def shortState : State := { State.reset with dev := shortDev }

/-- The frame's end passes the capacity, and the session that is put back is not number 6. -/
theorem shortState_frameComplete_session : (shortState.onDev (Dev.frameComplete 8 1)).dev.session 6 = none := by decide +kernel

theorem shortState_frameComplete_reports : (shortState.onDev (Dev.frameComplete 8 1)).dev.candle.reports = [] := by decide +kernel

/-- Where no report waits, none is posted. -/
theorem State.flushReports_session {s : State} (h : s.dev.candle.reports = []) (n : Nat) : s.flushReports.dev.session n = s.dev.session n := by
  rw [State.flushReports, h]
  rfl

/-- Refutes O34: a command that runs short of space leaves its session as it was before (R296), with the number that the session of before
bears; where that is another number, no session of the number that the command names is left. -/
theorem not_mediaSessionsAndFrames : ¬ Obligations.MediaSessionsAndFrames := by
  unfold Obligations.MediaSessionsAndFrames
  intro h
  obtain ⟨-, -, hcodec, -⟩ := h 1 shortState shortCmd (show (0 : BitVec 2) ≠ 2#2 by decide)
  obtain ⟨-, -, hencode⟩ := hcodec shortJob (shortSess 6) (shortSess 7) rfl rfl rfl rfl (by decide) rfl rfl (by decide) rfl
  obtain ⟨hshort, -⟩ := hencode rfl 9 rfl rfl rfl
  obtain ⟨t, ⟨hstep, hframe, -⟩, -, hsession⟩ := hshort (by simp [shortJob])
  have hflush : (shortState.onDev (Dev.frameComplete 8 1)).flushReports = (shortState.onDev fun _ => t).flushReports :=
    Host.Outcome.next.inj hstep
  have hidle : (shortState.onDev fun _ => t).dev.candle.reports = [] := by
    rw [State.onDev_dev, hframe]
    rfl
  have hgone : t.session 6 = none := calc
    t.session 6 = (shortState.onDev fun _ => t).flushReports.dev.session 6 := (State.flushReports_session hidle 6).symm
    _ = (shortState.onDev (Dev.frameComplete 8 1)).flushReports.dev.session 6 := by rw [hflush]
    _ = (shortState.onDev (Dev.frameComplete 8 1)).dev.session 6 := State.flushReports_session shortState_frameComplete_reports 6
    _ = none := shortState_frameComplete_session
  exact absurd (hgone.symm.trans hsession) nofun

end Sys2Proof.Machine
end
